-- ==== Sys2Proof/Word.lean ====
section
/-! DEFINITION. The word types of the NP5124 and the table type that its state uses.
Codes, counts, indices and times are natural numbers or integers; what the manual treats as bits is a bit vector. -/

namespace Sys2Proof

/-- One byte (R5). -/
abbrev Byte := BitVec 8
/-- A 32-bit register or field. -/
abbrev W32 := BitVec 32
/-- A 16-bit field. -/
abbrev W16 := BitVec 16
/-- A 64-bit field. -/
abbrev W64 := BitVec 64

/-- A sparse table: entries in rising key order; a key that is not listed holds the default that its reader names. -/
abbrev Tbl (α : Type) := List (Nat × α)

/-- An addressed store of bytes, each entry one `Host.Cell` (address, byte): rising addresses, and no entry equal to
what an unlisted address reads as. -/
abbrev Mem := List (Nat × Byte)

end Sys2Proof
end

