-- ==== Sys2Proof/Syntax.lean ====
section
/-! DEFINITION. The commands of the NP5124 (spec/opcode_table.json), one constructor per row, with their operands.
An operand is what the manual says comes from outside with the step: the fields of a command, frame or message, a
measured quantity, the outcome of a hardware operation, or the time of a step in the lease island's own clock. -/

namespace Sys2Proof

/-- Where a mailbox command comes from: the mailbox of a function (R467), or a management port (R362). -/
inductive Src where
  | fn (n : BitVec 7)
  | mgmt (client : W32) (seq : W32) (port : Bool)
  deriving DecidableEq, Repr

/-- A mailbox command as firmware copies it from MB_CMD (R467), less its OPCODE, which the constructor names. -/
structure MbCmd where
  src : Src
  length : BitVec 8
  notify : Bool
  token : W32
  bufAddr : BitVec 48
  bufLength : BitVec 25
  payload : BitVec 320
  deriving DecidableEq, Repr

/-- A management datagram (R362) with the address that it came from (R531 CLIENT). -/
structure Datagram where
  client : W32
  seq : W32
  flags : W16
  source : BitVec 128
  body : BitVec 512
  deriving DecidableEq, Repr

/-- What R461 and R463 give the configuration space of a function, by name: the manual gives its capabilities no offsets. -/
inductive CfgField where
  | vendorId | deviceId | subsystemVendorId | classCode | revisionId
  | maxPayload | msixVectors | msixTable | msixPba | msixEnable | functionMask | powerState | unsupportedRequest
  | initialVfs | totalVfs | firstVfOffset | vfStride | vfDeviceId | vfBar0Size | vfEnable | serialNumber
  deriving DecidableEq, Repr

/-- The RC fields of the register tables (R7): MB_STATUS DB_IGNORED, EV_RING_STATUS LOST, PC_CNTn OVF and the ERROR bit
of flash recovery; a read of any word of a function's BAR0, which clears the RC fields that the word holds; and a read of configuration
space, which clears none. The sticky bits of the drive status word clear when CHANNEL_READ returns them (R105). -/
inductive RcReg where
  | bar0 (fn : BitVec 7) (off : BitVec 16)
  | config (fn : BitVec 7) (field : CfgField)
  | mbStatus (fn : BitVec 7)
  | evRingStatus (fn : BitVec 7)
  | pcOverflow (fn : BitVec 7) (n : BitVec 3)
  | flashStatus
  deriving DecidableEq, Repr

/-- A frame received on a REF port (R331): its fields and the CHECK that came with it. -/
structure RefFrame where
  site : Bool
  flags : W16
  epoch : W32
  arg : W32
  seq : W16
  check : W16
  deriving DecidableEq, Repr

/-- The header of a mirror message (R350). -/
structure MirrorHdr where
  seq : W32
  frame : W32
  epoch : W32
  deriving DecidableEq, Repr

/-- An error that the ECC of a memory finds (R192; sources 8 and 9 of R391): a corrected one in queue state, channel state or hatch
RAM; an uncorrectable one in the channel state or hatch row of a drive channel, or in a queue state word; a single-bit or double-bit
error of a word of the plate store, which its next read meets. -/
inductive EccError where
  | corrected
  | channel (drive : Nat)
  | queue (dom queue : Nat)
  | plate (word : Nat) (double : Bool)
  deriving DecidableEq, Repr

/-- What the environment supplies at a tick (R22): the readings of the 32 temperature sensors (R385), the channels whose
residue check fails in the frame that begins (R189), how many entries of its list each listed engine finishes in
that frame (R25), the charge in aC that the drivers of the listed EO channels deliver in the transition of this tick (R100), and
the ECC errors of the memories. -/
structure TickIn where
  temps : List Int
  residue : List Nat
  unfinished : List (Nat × Nat)
  charge : List (Nat × Nat)
  ecc : List EccError
  deriving DecidableEq, Repr

/-- A read-back conversion (R99, R100, R108): the 12-bit words of the voltage on the scale of 7.0 V and of the current on the scale
of 1.125 × FS, which an EO channel does not have. -/
structure Readback where
  rawV : BitVec 12
  rawI : BitVec 12
  deriving DecidableEq, Repr

/-- The outcome of a table walk (R479): the two entries, or an error of the first or the second read (R480). -/
inductive Walk where
  | entries (l1 l2 : W64)
  | l1Error
  | l2Error (l1 : W64)
  deriving DecidableEq, Repr

/-- The measurements of one calibration unit, already reduced to the means that the formulas of R403 to R407 take, each
times 1,024 so that a mean of 64, 256 or 8 samples is exact. -/
structure CalUnit where
  unit : Nat
  a : Int
  b : Int
  c : Int
  rms : Nat
  ovr : Bool
  deriving DecidableEq, Repr

/-- The measurements of one cell of a fabric run (R411, R412): the extrema that its steps found, their means, ψ and the
read-back powers in nW at BASE and at U_π. -/
structure CalCell where
  cell : Nat
  bar : Nat
  cross : Nat
  base : Nat
  uPi : Nat
  psi : BitVec 10
  meanBar : Nat
  meanCross : Nat
  pBase : Nat
  pPi : Nat
  deriving DecidableEq, Repr

/-- The measurements of one VOA of a fabric run (R413): BASE, the codes at 3 dB and 13 dB of attenuation, VOA_SIGN, the
attenuation range in 0.01 dB, and y at BASE. -/
structure CalVoa where
  port : Nat
  base : Nat
  code3 : Nat
  code13 : Nat
  sign : Bool
  range : Nat
  y : Int
  deriving DecidableEq, Repr

/-- One entry of the hatch step (R415): row, entry, ΔI in heater LSB, P_new and P_old, and whether the loop stayed
LOCKED. -/
structure CalHatch where
  row : Nat
  entry : Nat
  deltaI : Int
  pNew : Nat
  pOld : Nat
  locked : Bool
  deriving DecidableEq, Repr

/-- The measurements with which a calibration run ends (R420): the units of a converter scope, or the cells, VOAs, path
losses (input, output, T) and hatch entries of a fabric run. -/
structure CalData where
  adc : List CalUnit
  tia : List (Nat × CalUnit)
  units : List CalUnit
  cells : List CalCell
  voas : List CalVoa
  paths : List (Nat × Nat × Int)
  hatch : List CalHatch
  deriving DecidableEq, Repr

/-- A PTP timestamp or correction in units of 2⁻¹⁶ ns (R313, R315). -/
abbrev PtpTime := Int

/-- What a received PTP message carries beside its fields (R310): transport (0 Layer 2, 1 UDP/IPv4, 2 UDP/IPv6), the VID of its 802.1Q
tag, domainNumber, and the port identity of its sender. -/
structure PtpHdr where
  transport : Nat
  vid : Option Nat
  domain : Nat
  sender : BitVec 80
  deriving DecidableEq, Repr

/-- A message that is told from others of its sender by its sequenceId (R315). -/
structure PtpMsg extends PtpHdr where
  seq : W16
  deriving DecidableEq, Repr

/-- A response: with the requestingPortIdentity that it answers (R315). -/
structure PtpResp extends PtpMsg where
  requester : BitVec 80
  deriving DecidableEq, Repr

/-- The data set of an Announce message that the comparison of R312 ranks (clause 9.3.4): grandmaster priorities, class,
accuracy, variance, identity, stepsRemoved; and its logMessageInterval. -/
structure Announce where
  priority1 : Nat
  clockClass : Nat
  accuracy : Nat
  variance : Nat
  priority2 : Nat
  gm : W64
  steps : Nat
  logInterval : Int
  deriving DecidableEq, Repr

/-- An Announce message: its header and its data set. -/
structure AnnounceMsg extends PtpHdr where
  data : Announce
  deriving DecidableEq, Repr

/-- The mode word of a FRAME message (R351) and the slot position it carries. -/
structure FrameMsg where
  frame : Nat
  time : Nat
  seq : W32
  plate : Nat
  bank : Bool
  entry : Nat
  cycle : Nat
  mode : Nat
  arrival : Nat
  deriving DecidableEq, Repr

/-- An IMPRESSION message (R351): source, trigger, due time, plate, request tags, snapshot. -/
structure ImpressionMsg where
  source : Nat
  trigger : Nat
  due : Nat
  plate : Nat
  tags : List (Nat × Nat)
  snapshot : List Byte
  deriving DecidableEq, Repr

/-- The queue part of a REQUEST message (R351): domain, queue, HEAD, FETCHED and QSTATE, the descriptors held, the grant with the
number of the batch that it joins, balances, finish tag and V. -/
structure RequestMsg where
  dom : Nat
  queue : Nat
  head : Nat
  qstate : Nat
  descs : List (BitVec 256)
  granted : Option (BitVec 256 × Nat)
  balC : Int
  balP : Int
  tagF : Nat
  tagV : Nat
  deriving DecidableEq, Repr

/-- A section of a resync (R353). -/
inductive Resync where
  | plates (plate : Nat) (bytes : List Byte)
  | queue (dom queue : Nat) (words : BitVec 128)
  | request (m : RequestMsg)
  | proof (record : List Byte)
  | fabricRecord (bytes : List Byte)
  | hatch (row : Nat) (bytes : List Byte)
  | pin (cell : Nat) (state : Bool)
  | level (mirror : Nat)
  deriving DecidableEq, Repr

/-- The partner's STANDBY_STATUS (R351). -/
structure StandbyMsg where
  ready : Bool
  armed : Bool
  refUp : Bool
  healthy : Bool
  swapReq : Bool
  lastSeq : W32
  offset : Int
  deriving DecidableEq, Repr

/-- The bus masters of R544, by number, and the targets of R545. -/
inductive BusTarget where
  | plateStore
  | queueState
  | channelState
  | hatch
  | tcm
  | slotTable
  | config
  | flash
  | fuse
  | none
  deriving DecidableEq, Repr

/-- The SMBus transactions (R581, R582): a read with a command code, or anything else. -/
inductive SmbusOp where
  | readByte
  | readWord
  | blockRead
  | write
  deriving DecidableEq, Repr

/-- The commands: one constructor per row of spec/opcode_table.json, in its order. -/
inductive Instr where
  -- mailbox commands (Mailbox Command Reference)
  | getInfo (c : MbCmd)
  | getHealth (c : MbCmd)
  | setMode (c : MbCmd)
  | loadDescriptor (c : MbCmd)
  | readDescriptor (c : MbCmd)
  | plateWrite (c : MbCmd)
  | plateRead (c : MbCmd)
  | plateRoute (c : MbCmd)
  | plateRouteDelta (c : MbCmd)
  | impress (c : MbCmd)
  | proofRead (c : MbCmd)
  | slotTableWrite (c : MbCmd)
  | slotTableSwap (c : MbCmd)
  | gateConfig (c : MbCmd)
  | domainConfig (c : MbCmd)
  | queueConfig (c : MbCmd)
  | queueReset (c : MbCmd)
  | loopConfig (c : MbCmd)
  | loopRead (c : MbCmd)
  | toneAssign (c : MbCmd)
  | hatchLoad (c : MbCmd)
  | channelRead (c : MbCmd)
  | channelForce (c : MbCmd)
  | channelRetire (c : MbCmd)
  | channelRestore (c : MbCmd)
  | calRun (c : MbCmd)
  | calStatus (c : MbCmd)
  | calPolicy (c : MbCmd)
  | timeConfig (c : MbCmd)
  | timeStatus (c : MbCmd)
  | pairConfig (c : MbCmd)
  | pairStatus (c : MbCmd)
  | pairSwap (c : MbCmd)
  | refereeConfig (c : MbCmd)
  | fwStage (c : MbCmd)
  | fwActivate (c : MbCmd)
  | fuseRead (c : MbCmd)
  | fuseProgram (c : MbCmd)
  | eventConfig (c : MbCmd)
  | faultLogRead (c : MbCmd)
  | perfConfig (c : MbCmd)
  | xlateConfig (c : MbCmd)
  | xlateResume (c : MbCmd)
  -- management network and registers
  | mgmtDatagram (port : Bool) (d : Datagram)
  | mbRspAck (fn : BitVec 7) (value : W32)
  | qdTail (fn : BitVec 7) (queue : BitVec 9) (value : W32)
  | qdCplHead (fn : BitVec 7) (value : W32)
  | tmNsRead (fn : BitVec 7)
  | tmAdj (fn : BitVec 7) (value : W32)
  | evStatusClear (fn : BitVec 7) (word : Nat) (value : W32)
  | evRingHead (fn : BitVec 7) (value : W32)
  | paCommit (fn : BitVec 7) (value : W32)
  | pcCycleLoRead (fn : BitVec 7)
  | countLoRead (fn : BitVec 7) (n : BitVec 3)
  | clearedByRead (r : RcReg)
  | msixUnmask (fn : BitVec 7) (vector : Nat)
  | barBadAccess (fn : BitVec 7) (write : Bool)
  | registerWrite (fn : BitVec 7) (bar2 : Bool) (off : BitVec 22) (value : W32)
  -- flash recovery and flash completions
  | flashEraseSector
  | flashProgramSector
  | flashReadSector
  | repeatBoot
  | flashOpDone (ok : Bool)
  | flashWriteDone (ok : Bool)
  -- reset, clocks, supplies
  | rstNAssert
  | rstNRelease (siteId pref clkMode : Bool)
  | lpllLock
  | bootComplete
  | clockLoss (interconnectRuns : Bool)
  | ethrefLoss
  | coreSupplyCollapse
  | vddLeaseLoss
  | flrVf (fn : BitVec 7)
  | flrPf
  | conventionalReset
  | vfEnable (on : Bool)
  | powerStateChange (fn : BitVec 7) (d3 : Bool)
  | masterResetMidBurst (master : Nat)
  | busErrorAccess (master : Nat) (write : Bool) (target : BusTarget)
  -- the frame
  | frameTick (i : TickIn)
  | commitPoint
  | conversionBoundary (core : Nat) (raw : Int)
  | readbackConversion (conv : Nat) (r : Readback)
  | rangeChangeRelease (channel : Nat)
  | snapshotComplete
  | proofResult
  | localisationEnd
  | slotLatch
  | slotStart
  | tokenRefill
  | healthReport
  | voltSample (v : List Nat)
  | procMonitorCount (v : List Nat)
  | calTempCheck
  | calStart
  | calInForce (scope : BitVec 16) (d : CalData)
  | startupCalEnd
  | captureEnd
  -- requests and routes
  | descriptorFetched (dom : BitVec 7) (queue : BitVec 9) (descs : List (BitVec 256))
  | descriptorCheck (dom : BitVec 7) (queue : BitVec 9)
  | arbitrationDecision
  | batchSubmit
  | routeJobStart
  | routeJobComplete (traceFails : BitVec 2)
  | completionWrite (dom : BitVec 7)
  | hdmaBurst
  | translationWalkDone (dom : BitVec 7) (w : Walk)
  | faultEntryHandled
  -- the lease island and the referee
  | go (port : Bool) (now : Nat)
  | arm (port : Bool) (f : RefFrame) (now : Nat)
  | renew (port : Bool) (f : RefFrame) (now : Nat)
  | disarm (port : Bool) (f : RefFrame) (now : Nat)
  | refStatus (port : Bool) (f : RefFrame) (now : Nat)
  | refLinkDown (port : Bool) (now : Nat)
  | refIsolated (port : Bool) (now : Nat)
  | leaseEnd (now : Nat)
  | claimSend (now : Nat)
  | statusSend (port : Bool) (now : Nat)
  | heartbeatStale (now : Nat)
  | recoveredClockLoss (now : Nat)
  | refereeStart (now : Nat)
  | refereeClaim (f : RefFrame) (now : Nat)
  | refereeRelease (site : Bool) (now : Nat)
  | refereeStatusDriving (f : RefFrame) (now : Nat)
  | refereeExpiry (now : Nat)
  | refereeArm (now : Nat)
  | refereeGo (now : Nat)
  -- the mirror link
  | mirrorFrame (h : MirrorHdr) (m : FrameMsg)
  | mirrorImpression (h : MirrorHdr) (m : ImpressionMsg)
  | mirrorRequest (h : MirrorHdr) (m : RequestMsg)
  | mirrorCompletion (h : MirrorHdr) (dom index : Nat) (record : BitVec 256)
  | mirrorProof (h : MirrorHdr) (record : List Byte)
  | mirrorPin (h : MirrorHdr) (cell : Nat) (pin : Option Bool)
  | mirrorImage (h : MirrorHdr) (capture segment : Nat) (codes : List Nat)
  | mirrorLoopset (h : MirrorHdr) (capture segment : Nat) (bytes : List Byte)
  | mirrorPlate (h : MirrorHdr) (plate offset : Nat) (bytes : List Byte)
  | mirrorResyncData (h : MirrorHdr) (d : Resync)
  | standbyStatus (h : MirrorHdr) (m : StandbyMsg)
  | swapReady (h : MirrorHdr) (frame : Nat)
  | mirrorBadCheck
  | mirrorLaneDown (lane : Bool)
  | mirrorResyncEnd
  | imageInstall
  | loopsetInstall
  | swapCapture
  | swapHandover
  | swapTimeout
  | revertDelay
  | swapInterval
  -- PTP and the time lines
  | ptpSync (port : Bool) (h : PtpHdr) (seq : W16) (twoStep : Bool) (logInterval : Int) (t1 corr : PtpTime)
  | ptpFollowUp (port : Bool) (m : PtpMsg) (t1 corr : PtpTime)
  | ptpDelayResp (port : Bool) (r : PtpResp) (logInterval : Int) (t4 corr : PtpTime)
  | ptpAnnounce (port : Bool) (m : AnnounceMsg)
  | ptpPdelayReq (port : Bool) (h : PtpHdr) (seq : W16) (corr : PtpTime)
  | ptpPdelayResp (port : Bool) (m : PtpMsg) (requester : BitVec 80) (twoStep : Bool) (t2 corr : PtpTime)
  | ptpPdelayRespFollowUp (port : Bool) (r : PtpResp) (t3 corr : PtpTime)
  | delayReqSend (port : Bool) (peer : Bool)
  | announceTimeout (port : Bool)
  | timeStep
  | ppsInEdge
  | ppsInAccept
  | ppsLoss
  | ppsOutRise
  | ppsOutFall
  | syncInEdge
  | syncStuck
  -- firmware
  | watchdogExpiry
  | hotRestartEnd
  | restartFallback
  -- board management, doorbell and the rest
  | smbusRead (addr : BitVec 7) (op : SmbusOp) (cmd : BitVec 8)
  | mbDoorbell (fn : BitVec 7) (seq : W16)
  | isoRelease (port : Bool) (now : Nat)
  | refereeStatusReceived (f : RefFrame) (now : Nat)
  | mirrorLaneUp (lane : Bool)
  | ethrefRestored
  | ethPortDown (port : Bool)
  | ethPortUp (port : Bool) (rate25 : Bool)
  | vddLeaseApply
  | pcieLinkTrained
  | fuseProgramDone (ok : Bool)
  | fuseEnDeassert
  | commandBufferReadDone (ok : Bool) (data : List Byte)
  | plateReadCopyEnd
  | smbusClockLowTimeout
  | bar2WindowRead (fn : BitVec 7) (off : BitVec 22)
  | jtagDebugAccess (write : Bool) (target : BusTarget) (addr : Nat) (value : W32)
  | mirrorDelayEcho (delay : Nat)
  deriving DecidableEq, Repr

end Sys2Proof
end

