-- ==== Sys2Proof/WellFormed.lean ====
section
/-! DEFINITION. Which commands the manual's module can receive at all: indices name units that it has, and lists have the
lengths that the manual gives. -/

namespace Sys2Proof

/-- A plate slot (R190). -/
def wfPlate (p : Nat) : Bool := decide (p < 512)

/-- A register word of EV_STATUS (R473): EV_STATUS0 to EV_STATUS9. -/
def wfEvWord (w : Nat) : Bool := decide (w < 10)

/-- A scope of a calibration run (R396): an ADC group, a DAC bank, a read-back converter or the fabric. -/
def wfScope (n : Nat) : Bool := decide (n < 8) || decide (0x100 ≤ n ∧ n < 0x1A0) || decide (0x200 ≤ n ∧ n < 0x208) || decide (n = 0x300)

/-- A memory that an ECC error of a tick names (R192, R391): a drive channel, a queue, a word of the plate store. -/
def wfEcc : EccError → Bool
  | .corrected => true
  | .channel i => decide (i < 10240)
  | .queue d i => decide (d < 128 ∧ i < 512)
  | .plate w _ => decide (w < 262144)

/-- What a tick brings: the 32 temperatures (R385), and units that the module has. -/
def wfTick (i : TickIn) : Bool :=
  decide (i.temps.length = 32) && i.residue.all (fun x => decide (x < 10240)) && i.unfinished.all (fun u => decide (u.1 < 18)) &&
    i.charge.all (fun u => decide (u.1 < 4608)) && i.ecc.all wfEcc

/-- The operands of a command name units that the module has. -/
def WellFormed : Instr → Bool
  | .conversionBoundary core _ => decide (core < 136)
  | .readbackConversion conv _ => decide (conv < 8)
  | .rangeChangeRelease ch => decide (4608 ≤ ch ∧ ch < 10240)
  | .evStatusClear _ w _ => wfEvWord w
  | .calInForce scope _ => wfScope scope.toNat
  | .msixUnmask _ v => decide (v < 3)
  | .masterResetMidBurst m => decide (m < 10)
  | .busErrorAccess m _ _ => decide (m < 10)
  | .voltSample v => decide (v.length = 24)
  | .procMonitorCount v => decide (v.length = 16)
  | .frameTick i => wfTick i
  | .mirrorPlate _ p o b => wfPlate p && decide (o + b.length ≤ 4096)
  | .mirrorRequest _ m => decide (m.dom < 128)
  | .mirrorCompletion _ d _ _ => decide (d < 128)
  | .mirrorPin _ c _ => decide (c < 4608)
  | .mirrorImage _ _ seg codes => decide (seg < 10 ∧ codes.length = 1024)
  | .mirrorLoopset _ _ seg bytes => decide (seg < 32 ∧ bytes.length = 2032)
  | _ => true

end Sys2Proof
end

