-- ==== Sys2Proof/Machine/Arith.lean ====
section
/-! DEFINITION. Arithmetic that several blocks share: the roundings of R591, the serial comparison of R68, bit fields,
little-endian bytes (R5), the two check polynomials, the sine table of R92 and the logarithm of R239. -/

namespace Sys2Proof.Machine

/-! ## Roundings (R591) -/

/-- The nearest integer to n ÷ d, with halves away from zero (R591); 0 for a divisor of 0, which no rule divides by. -/
def roundDiv (n : Int) (d : Int) : Int :=
  if d = 0 then 0
  else
    let n' := if d < 0 then -n else n
    let d' := d.natAbs
    if n' < 0 then -(((2 * n'.natAbs + d') / (2 * d') : Nat) : Int)
    else (((2 * n'.natAbs + d') / (2 * d') : Nat) : Int)

/-- The nearest integer to n ÷ d with halves up (R78). -/
def roundHalfUp (n d : Nat) : Nat := if d = 0 then 0 else (2 * n + d) / (2 * d)

/-- The least integer that is at least n ÷ d. -/
def ceilDiv (n d : Nat) : Nat := if d = 0 then 0 else (n + d - 1) / d

/-- x limited to the interval from lo to hi. -/
def clampInt (lo hi x : Int) : Int := if x < lo then lo else if hi < x then hi else x

/-- The sign of x: −1, 0 or +1. -/
def sgnInt (x : Int) : Int := if x < 0 then -1 else if x = 0 then 0 else 1

/-! ## Serial arithmetic (R68) -/

/-- A is later than B: (A − B) mod 2³² lies between 1 and 2³¹ − 1. -/
def later (a b : Nat) : Bool :=
  let d := (a + 2 ^ 32 - b % 2 ^ 32) % 2 ^ 32
  decide (1 ≤ d ∧ d ≤ 2 ^ 31 - 1)

/-! ## Bits and bytes (R5) -/

/-- 1 for true. -/
def bit (b : Bool) : Nat := if b then 1 else 0

/-- Bit i of x. -/
def tb (x i : Nat) : Bool := x.testBit i

/-- The field of w bits of x at bit lo. -/
def fld (x lo w : Nat) : Nat := x / 2 ^ lo % 2 ^ w

/-- x with its field of w bits at bit lo set to v, truncated to the field. -/
def setFld (x lo w v : Nat) : Nat := x - fld x lo w * 2 ^ lo + v % 2 ^ w * 2 ^ lo

/-- A word from its fields (width, value), least significant first; each value is truncated to its width. -/
def pack : List (Nat × Nat) → Nat
  | [] => 0
  | (w, v) :: r => v % 2 ^ w + 2 ^ w * pack r

/-- x read as a signed number of w bits. -/
def signed (w x : Nat) : Int := if x % 2 ^ w < 2 ^ (w - 1) then (x % 2 ^ w : Nat) else (x % 2 ^ w : Nat) - (2 ^ w : Int)

/-- The w-bit two's complement of x. -/
def unsigned (w : Nat) (x : Int) : Nat := (x % (2 ^ w : Int)).toNat

/-- n bytes of x, least significant first. -/
def bytesLE : Nat → Nat → List Byte
  | 0, _ => []
  | n + 1, x => BitVec.ofNat 8 x :: bytesLE n (x / 256)

/-- The number that bytes spell, least significant first. -/
def ofBytesLE : List Byte → Nat
  | [] => 0
  | b :: r => b.toNat + 256 * ofBytesLE r

/-- The bytes of a list from offset o on, n of them. -/
def sliceB (l : List Byte) (o n : Nat) : List Byte := (l.drop o).take n

/-- The little-endian field of n bytes at offset o of a list. -/
def fieldB (l : List Byte) (o n : Nat) : Nat := ofBytesLE (sliceB l o n)

/-! ## Checks -/

def crc32Bit (c : Nat) : Nat → Nat
  | 0 => c
  | k + 1 => crc32Bit (if c % 2 = 1 then (c / 2) ^^^ 0xEDB88320 else c / 2) k

/-- The CRC-32 of IEEE 802.3 over bytes (R67): reflected input and output, initial value and final exclusive-OR all ones. -/
def crc32 (l : List Byte) : Nat :=
  (l.foldl (fun c b => crc32Bit (c ^^^ b.toNat) 8) 0xFFFFFFFF) ^^^ 0xFFFFFFFF

def crc16Bit (c : Nat) : Nat → Nat
  | 0 => c
  | k + 1 => crc16Bit (if c / 2 ^ 15 % 2 = 1 then ((2 * c) % 2 ^ 16) ^^^ 0x1021 else (2 * c) % 2 ^ 16) k

/-- The CRC-16 of R331: polynomial 0x1021, initial value 0xFFFF, no reflection, no final exclusive-OR. -/
def crc16 (l : List Byte) : Nat :=
  l.foldl (fun c b => crc16Bit (c ^^^ (b.toNat * 256)) 8) 0xFFFF

/-! ## The sine table (R92) -/

/-- 2⁶⁴ × π, rounded down: the angle of `qTable` in fixed point. -/
def piFixed : Nat := 57952155664616982739

/-- The terms of the sine series at fixed-point angle x (x² already divided by 2⁶⁴), from the term t of index k on. -/
def sineTerms (x2 : Int) : Nat → Int → Int → Int
  | 0, _, _ => 0
  | n + 1, k, t => t + sineTerms x2 n (k + 2) (-(t * x2) / (2 ^ 64 * ((k + 1) * (k + 2))))

/-- q_table(i) = round(65535 × sin(2π (i + 0.5) ÷ 4096)) of R92, from the sine series in 64-bit fixed point: the error of
the sum is far below the distance of any entry from a half. -/
def qTable (i : Nat) : Nat :=
  let x : Int := (piFixed * (2 * i + 1) / 4096 : Nat)
  let s := sineTerms (x * x / 2 ^ 64) 12 1 x
  (roundDiv (65535 * s) (2 ^ 64)).toNat

/-- The tone value at a phase index of 1/1,024 period for the amplitude a (R92): acc[31:20] = 4 × phase. -/
def toneAt (a phase : Nat) : Int :=
  let p := 4 * (phase % 1024)
  let i := p % 1024
  let mag := if p / 1024 % 2 = 0 then qTable i else qTable (1023 - i)
  let v : Int := ((a * mag + 32768) / 65536 : Nat)
  if p / 2048 = 0 then v else -v

/-! ## The logarithm (R239) -/

/-- y^2000 ≥ 10^(2k−1) × 32000^2000 for k ≥ 0, written without negative powers; k is offset by 4,600. -/
def lvlAtLeast (y k : Nat) : Bool :=
  if 4600 < k then decide (10 ^ (2 * (k - 4600) - 1) * 32000 ^ 2000 ≤ y ^ 2000)
  else decide (32000 ^ 2000 ≤ y ^ 2000 * 10 ^ (2 * (4600 - k) + 1))

/-- The largest k of an interval with `lvlAtLeast`, by halving. -/
def lvlSearch (y : Nat) : Nat → Nat → Nat → Nat
  | 0, lo, _ => lo
  | f + 1, lo, hi =>
    let m := (lo + hi + 1) / 2
    if lvlAtLeast y m then lvlSearch y f m hi else lvlSearch y f lo (m - 1)

/-- lvl(y) = round(1000 × log10(y × 31.25 pA ÷ 1 µA)) in 0.01 dB referred to 1 µA; y below 1 is taken as 1 (R239). The
exact power comparison leaves no rounding error. -/
def lvl (y : Int) : Int :=
  let y' := if y < 1 then 1 else y.toNat
  (lvlSearch y' 16 0 20000 : Int) - 4600

end Sys2Proof.Machine
end

