-- ==== Sys2Proof/Config.lean ====
section
/-! DEFINITION. What the manual leaves open: constants without a body, so that no proof can rest on a value.
Every one of them has a row in the assumption log. -/

namespace Sys2Proof.Config

/-- R229 bounds the snapshot read (at most 400 loop cycles, rising offsets) and does not give the position that it has
reached: bytes read of the snapshot numbered by the first argument, after the given loop cycles (log 4). -/
opaque snapshotPos : Nat → Nat → Nat

/-- R505: a PLATE_READ copy of a request-ring slot may mix bytes from before and after a route (log 4): whether the byte
at an offset of the copy numbered by the first argument is the later one. -/
opaque copyMix : Nat → Nat → Bool

/-- IMAGE_VERSION, MIRROR_LEVEL, CONFIG_LEVEL are read from the image in flash (R443). The content of the tightly
coupled memory of the firmware is not given (R545): what a debug read of an address returns (log 5). -/
opaque tcmByte : Nat → BitVec 8

/-- SHA-384 of an octet string (R444 names the function of FIPS 180-4; log 6). -/
opaque sha384 : List (BitVec 8) → BitVec 384

/-- ECDSA P-384 signature check (R444 names the function of FIPS 186-5): key, signed bytes, signature (log 6). -/
opaque ecdsaP384 : List (BitVec 8) → List (BitVec 8) → List (BitVec 8) → Bool

/-- VENDOR_KEY_HASH and SERIAL are programmed by Ibalorn at the factory (R447): the 4,096 fuse bits as shipped (log 7). -/
opaque factoryFuses : BitVec 4096

/-- The clockIdentity of a management port is derived from its MAC address, which the manual does not give (R310; log 8). -/
opaque clockIdentity : Bool → BitVec 64

/-- What a register, flag or result reads as where the manual states no value: argument, the free-value counter (log 9). -/
opaque freeNat : Nat → Nat

/-- The ideal 12-bit reading of the 4.000 mA reference in the calibration of a read-back converter's current path, times 1,024:
R407 does not say in which range the path is calibrated (log 14). -/
opaque rbCurrentIdeal : Nat

/-- What the steps of a fabric run find (R411) before the run's results are known: run, cell, and 0 for u0, 1 for the coarse
BAR, 2 for the coarse CROSS, 3 for BAR, 4 for BASE, 5 for U_π, 6 for CROSS (log 10). -/
opaque calFound : Nat → Nat → Nat → Nat

/-- The codes of the 256 steps of a VOA (R413): the step of a run and port; the manual gives 16 frames per step and not the
codes (log 10). -/
opaque voaStep : Nat → Nat → Nat

/-- R275 makes the fetch of URGENT descriptors urgent, and URGENT stands in the descriptor that is still to be read:
whether the fetch numbered by the argument is urgent (log 12). -/
opaque fetchUrgent : Nat → Bool

/-- A result outside the format of its field: the manual states none. What the field holds, by its width in bits and the exact
result (log 65). -/
opaque outOfFormat : Nat → Int → Nat

end Sys2Proof.Config
end

