-- ==== Sys2Proof/Machine/State.lean ====
section
/-! DEFINITION. The state of the module as plain data: every register, memory, queue, counter, mode and line that the
manual names, in one structure per block; the queue of waiting commands; the reasons for which a step can stop; reset. -/

namespace Sys2Proof.Machine

/-! ## Reasons -/

/-- The reasons for which a step stops with a fault. -/
inductive Fault where
  /-- An operand names a unit, channel, register word or function that the manual does not give the module (an ADC core
  from 136 on, a drive index from 10,240 on, ...). Raised by the meanings that take an index operand. Safe: no such unit
  exists, so the hardware has no such step. -/
  | noSuchUnit
  deriving DecidableEq, Repr

/-- The reasons for which a step gives a command no meaning. -/
inductive Refusal where
  /-- The command has no meaning yet. Raised by arms of `exec` only. Safe: the model stops. -/
  | notModelled (mnemonic : String)
  deriving DecidableEq, Repr

/-! ## Commands in progress -/

/-- What the module keeps of a mailbox command until its response (R468). -/
structure CmdRef where
  src : Src
  opcode : Nat
  token : W32
  notify : Bool
  deriving DecidableEq, Repr

/-- The mode numbers of R426. -/
inductive Mode where
  | reset | boot | startupCal | standby | active | hold | dark | characterize | service | isolated | referee | legacy
  deriving DecidableEq, Repr

/-- A change that takes effect at a tick (R26), in the order in which the commands were taken (R496). -/
inductive TickOp where
  /-- A mailbox response that is due at the tick: status, FLAGS, BUF_DONE, payload. -/
  | answer (c : CmdRef) (status flags done : Nat) (payload : List (Nat × Nat))
  /-- TM_ADJ (R302). -/
  | freq (v : Int)
  /-- TIME_CONFIG items 1 to 13 (R529). -/
  | time (item : Nat) (port : Bool) (value : Nat)
  /-- GATE_CONFIG (R512); 0 keeps a value. -/
  | gate (batch budget defer : Nat)
  /-- DOMAIN_CONFIG OP 0 and OP 1 (R513): the payload. -/
  | domain (dom : Nat) (payload : Nat)
  | ring (dom : Nat) (base k : Nat)
  /-- QUEUE_CONFIG write (R516). -/
  | queue (c : CmdRef) (dom i ring : Nat)
  /-- EVENT_CONFIG OP 0, 1 and 2 (R539). -/
  | evEnable (fn word mask bits : Nat)
  | evRing (fn base k : Nat)
  | thresholds (word value : Nat)
  /-- LOOP_CONFIG (R518): one item on a range. -/
  | loop (c : CmdRef) (first count item size offset value value2 : Nat)
  /-- TONE_ASSIGN (R520): (drive index, m, A, φ). -/
  | tones (l : List (Nat × Nat × Nat × Nat))
  | toneDefault
  /-- HATCH_LOAD (R521). -/
  | hatch (first : Nat) (bytes : List Byte)
  /-- CHANNEL_RETIRE by the host, and retirements decided by firmware (R370): kind, index, reason. -/
  | retire (kind index reason : Nat)
  /-- CHANNEL_RESTORE (R377). -/
  | restore (kind index : Nat)
  /-- CAL_POLICY (R528): TEMP_TRIGGER, POWERUP_CAL, PERSIST, DT_CAL. -/
  | calPolicy (temp powerup persist : Bool) (dt : Nat)
  /-- PAIR_CONFIG (R531). -/
  | pair (item index value : Nat)
  /-- PERF_CONFIG (R541). -/
  | perf (n ctl threshold : Nat) (clear : Bool)
  /-- SLOT_TABLE_WRITE (R510). -/
  | slots (bank : Bool) (first : Nat) (entries : List Nat)
  /-- LOAD_DESCRIPTOR (R63, R67): the command, PERSIST, the bytes read. -/
  | descriptor (c : CmdRef) (persist : Bool) (bytes : List Byte)
  /-- SET_MODE (R431, R432): the mode named. -/
  | setMode (c : CmdRef) (m : Mode)
  /-- SET_MODE is performed and completes (R431, R432, R440). -/
  | modeDone (c : CmdRef)
  /-- Hold by fault queue overflow of a solo holder (R383). -/
  | overflowHold
  /-- A mode entered at the next tick without a command: Standby by loss of lease (R427), Isolated by ISO (R334). -/
  | enter (m : Mode)
  /-- LOOP_READ (R519), READ of TIME_STATUS (R530), start of a PLATE_READ copy (R505) and of a capture (R133). -/
  | loopRead (c : CmdRef) (iova first count : Nat)
  | timeStatus (c : CmdRef) (iova len : Nat)
  | plateCopy (c : CmdRef) (iova plate offset len : Nat)
  | capture (c : CmdRef) (iova pair index filter range : Nat)
  /-- A TIA range that an engine steps (R128, R181). -/
  | tiaRange (sense range : Nat)
  /-- A converter run that comes into force or a fabric record (R420). -/
  | calForce (scope : Nat)
  /-- A calibration run that firmware starts (R401, R405), and the rest image after a fabric run that a restart abandons (R416). -/
  | calStart (scope : Nat)
  | fabricEnd
  /-- The spare of a group returns the tables of a core under calibration, and injection into the group ends (R118, R129). -/
  | spareBack (group : Nat)
  /-- A capture stops (R133). -/
  | captureEnd
  /-- A capture of the drive image or of the loop set is installed (R352). -/
  | imageInstall
  | loopsetInstall
  deriving DecidableEq, Repr

/-! ## Clocks and fabric time (chapters 1 and 9) -/

/-- Clocks, supplies and the frame sequencer (R12 to R26, R568 to R570). -/
structure Clk where
  /-- RST_N is high and the core runs (R435, R97). -/
  rstN : Bool
  coreUp : Bool
  /-- VDD_LEASE is present (R570). -/
  vddLease : Bool
  /-- LPLL is locked (R14), the interconnect clock runs, ETHREF is present (R15). -/
  lpll : Bool
  interconnect : Bool
  ethref : Bool
  /-- Frame number k (R17), loop cycles since its tick (R22), T of the frame before (R19), time of its tick in ns. -/
  frame : Nat
  cycle : Nat
  lastLen : Nat
  tickTime : Nat
  /-- The commit point of the frame has passed (R23); a step moved fabric time in this frame (R20). -/
  committed : Bool
  stepped : Bool
  /-- Work of this frame that is done once: the refill (R269) and the health report (R388). -/
  refilled : Bool
  reported : Bool
  /-- Loop cycles since power-on: the model's own count, for compute times and snapshot reads (R221, R229). -/
  cycles : Nat
  /-- Ticks since power-on: the model's own count, for durations in frames that a step of fabric time may fall into (R9, R323). -/
  ticks : Nat
  /-- PC_CYCLE and its latch (R558). -/
  pcCycle : W64
  pcHi : W32
  /-- Straps as latched (R435, R573) and the FUSE_EN line, read when used. -/
  siteId : Bool
  pref : Bool
  clkMode : Bool
  fuseEn : Bool
  deriving DecidableEq, Repr

/-- STATE of the servo (R303, R309). -/
inductive ServoState where
  | freerun | acquiring | locked | holdover | frozen
  deriving DecidableEq, Repr

/-- SOURCE (R303, R305). -/
inductive TimeSource where
  | none | ptp | pps | host
  deriving DecidableEq, Repr

/-- A Sync exchange (R314, R315): sequenceId, t1, timestamp of receipt, corrections, logMessageInterval, whether Follow_Up is awaited;
INGRESS_LATENCY, EGRESS_LATENCY and ASYMMETRY as they stand for its measurement. -/
structure PtpSync where
  seq : W16
  t1 : Int
  t2 : Int
  corr : Int
  log : Int
  waits : Bool
  ingress : Nat
  egress : Nat
  asymmetry : Int
  deriving DecidableEq, Repr

/-- A Delay_Req or a Pdelay_Req sent (R315): sequenceId, timestamp of transmission, and the latencies of its measurement. -/
structure PtpReq where
  seq : W16
  t : Int
  ingress : Nat
  egress : Nat
  deriving DecidableEq, Repr

/-- One PTP port (R310 to R317): settings, masters, the exchange in progress and the path-delay mean. -/
structure PtpPort where
  up : Bool
  rate25 : Bool
  /-- Item 9 of R529 as written. -/
  config : BitVec 36
  ingress : Nat
  egress : Nat
  /-- The host has written the latencies: they no longer follow the port rate (R314). -/
  latSet : Bool
  asymmetry : Int
  /-- The selected master: port identity and Announce; whether Sync arrives (R312), and the master flag of TM_STATUS. -/
  best : Option (BitVec 80 × Announce)
  syncSeen : Bool
  hasMaster : Bool
  /-- Fabric time in ns of the master's last Announce and of its last Sync, with that Sync's logMessageInterval; of the last request
  sent (R310, R312). -/
  annAt : Nat
  syncAt : Nat
  syncLog : Int
  reqAt : Nat
  /-- The Sync exchange, the pending Delay_Req or Pdelay_Req, and the Delay_Resp that waits for the Sync exchange: t4 and its
  correction (R315). -/
  sync : Option PtpSync
  req : Option PtpReq
  resp : Option (Int × Int)
  /-- Pdelay_Resp received and waiting for its Follow_Up: sequenceId, t2, timestamp of receipt, correction. -/
  pdelay : Option (W16 × Int × Int × Int)
  reqSeq : W16
  reqLog : Int
  /-- Twice the mean path (or link) delays accepted, newest first, at most 16, and twice the last one; held-back measurements;
  re-seeding count (R316). -/
  delays : List Int
  lastDelay : Int
  held : Nat
  reseed : Nat
  pathStep : Bool
  lastOffset : Int
  deriving DecidableEq, Repr

/-- A step that is accepted and not yet applied (R308): an absolute time in ns, or an offset in 2⁻¹⁶ ns; the commands
that it completes; whether the tick after acceptance has come. -/
structure StepReq where
  absolute : Option Nat
  offset : Int
  cmd : Option CmdRef
  armed : Bool
  deriving DecidableEq, Repr

/-- Fabric time (chapter 9). -/
structure FabTime where
  /-- Fabric time in units of 2⁻⁴⁸ ns, modulo 2¹¹² (R297). -/
  t : Nat
  /-- FREQ and SLEW in 2⁻¹⁰ ppb, INC in 2⁻⁴⁸ ns per cycle, the remaining correction d in 2⁻⁴⁸ ns (R298, R307). -/
  freq : Int
  slew : Int
  inc : Nat
  rem : Int
  state : ServoState
  source : TimeSource
  /-- Settings of R324. -/
  kp : Nat
  ki : Nat
  slewMax : Nat
  stepAllowed : Bool
  stepThreshold : Nat
  lockThreshold : Nat
  pathThreshold : Nat
  stepFreeze : Bool
  ppsInDelay : Nat
  ppsOut : W64
  /-- Runs of offsets within LOCK_THRESHOLD and beyond 4 × LOCK_THRESHOLD (R309). -/
  lockRun : Nat
  unlockRun : Nat
  step : Option StepReq
  port0 : PtpPort
  port1 : PtpPort
  selected : Bool
  /-- FROZEN waits for ASYMMETRY of this port (R317). -/
  frozenPort : Bool
  thawed : Bool
  /-- PPS_IN: the held timestamp (2⁻¹⁶ ns), the last edge, glitch hold-off, PPS_VALID, last accepted offset and the time
  of the last accepted edge (R320, R321). -/
  ppsHeld : Option Int
  ppsEdge : Option Nat
  ppsGlitch : Bool
  ppsValid : Bool
  ppsOffset : Int
  ppsLast : Nat
  /-- PPS_LOSS has been raised since then (R321). -/
  ppsLost : Bool
  /-- PPS_OUT: the line and the time at which the pulse ends (R322). -/
  ppsOutLine : Bool
  ppsOutEnd : Nat
  ppsOutNext : Nat
  /-- SYNC_IN: the line, accepted edges and the time of the last (R323). -/
  syncLine : Bool
  syncCount : W32
  syncTime : Nat
  /-- The count of ticks at the last rising edge, and whether SYNC_STUCK has been raised since (R323). -/
  syncTick : Nat
  syncStuck : Bool
  /-- Correction cleared at the last holdover (R318). -/
  cleared : Int
  deriving DecidableEq, Repr

/-! ## Descriptor, drive and sense channels (chapters 2 to 5) -/

/-- The fabric descriptor (chapter 2). -/
structure Desc where
  /-- The working descriptor as read (R58), and whether one is in force (R69). -/
  bytes : List Byte
  loaded : Bool
  /-- A descriptor has taken effect since power-on reset (R63, R89). -/
  everLoaded : Bool
  /-- A LOAD_DESCRIPTOR reads its buffer (R503). -/
  reading : Bool
  /-- A descriptor was loaded in the Boot-to-Standby interval (R439). -/
  inInterval : Bool
  deriving DecidableEq, Repr

/-- Who wrote a queue entry, in the precedence of R81. -/
inductive Writer where
  | force | impression | image | loop
  deriving DecidableEq, Repr

/-- A code in a code queue (R80): the code, its writer and the frame in which it was written. -/
structure QCode where
  code : Nat
  writer : Writer
  frame : Nat
  deriving DecidableEq, Repr

/-- A range-change hold (R77): release frame, new range, a further request that waits for the release (R79), and a force given
during the hold (R523). -/
structure RangeHold where
  release : Nat
  range : Nat
  waiting : Option Nat
  force : Option Nat
  deriving DecidableEq, Repr

/-- One drive channel (chapter 3). -/
structure DriveCh where
  next : Option QCode
  follow : Option QCode
  /-- Target and position (R82, R85), the DAC code in force with tone and clamp (R82). -/
  target : Nat
  position : Nat
  dac : Nat
  step : Nat
  rate : Nat
  range : Nat
  hold : Option RangeHold
  /-- Tone: m, A, φ (R90). -/
  m : Nat
  a : Nat
  phi : Nat
  /-- Code held by CHANNEL_FORCE (R523). -/
  forced : Option Nat
  /-- The next apply goes through a deglitcher hold whatever the code (R243). -/
  refresh : Bool
  /-- The last track-and-hold of the deglitcher (R83): the frame of its tick and the code that the output held. -/
  trackHold : Option (Nat × Nat)
  /-- The loop takes over this channel from a code that it did not compute (R145). -/
  bumpless : Bool
  /-- Sticky bits of R105: [2] to [8]; LAST_UNJUDGED; replacements (R81). -/
  sticky : Nat
  unjudged : Bool
  replaced : Nat
  /-- TONE_CLIP of the last two frames (R142). -/
  toneClip : Bool
  toneClipPrev : Bool
  /-- Read-back: last conversions and their frame (R522), a transition of at least 1.60 V since the last visit (R102), the
  tick of the last change that R101 names. -/
  rbV : Nat
  rbI : Nat
  rbFrame : Nat
  transition : Bool
  /-- LOAD_SEEN of an EO driver (R100). -/
  loadSeen : Bool
  changed : Option Nat
  /-- The commands whose range change of this channel is in its hold, and those whose request waits (R79, R518). -/
  rangeCmds : List CmdRef
  rangeWait : List CmdRef
  deriving DecidableEq, Repr

/-- Drive channels, read-back and banks (chapter 3). -/
structure Drive where
  ch : Tbl DriveCh
  /-- Switches closed: the lines of present channels that are not isolated are driven (R94). -/
  closed : Bool
  /-- The analog hold islands hold the outputs (R97). -/
  holding : Bool
  /-- Per read-back converter: next drive index offset, a retry due (R99, R103). -/
  rbPos : Tbl Nat
  rbRetry : Tbl Bool
  /-- Channels failed in the sweep in progress, per bank; channels OPEN in the interval of a VHTR group (R104). -/
  bankFails : Tbl (List Nat)
  vhtrOpen : Tbl (List Nat)
  bankFault : Tbl Bool
  vhtrFault : Tbl Bool
  /-- Read-back converters that are suspect (R368) and the banks at threshold in the sweep in progress. -/
  convSuspect : Tbl Bool
  deriving DecidableEq, Repr

/-- One sense channel (chapter 4). -/
structure SenseCh where
  range : Nat
  /-- Frame of the last range change (R113). -/
  changed : Option Nat
  epoch : Nat
  /-- Run of upper over-range samples and the stay at range 0 (R128). -/
  ovrRun : Nat
  inStay : Bool
  /-- First frame whose samples are corrected with new values (R183). -/
  calFrame : Option Nat
  /-- Last stored word of R123, for CHANNEL_READ. -/
  last : W32
  deriving DecidableEq, Repr

/-- Who asks for an urgent conversion (R120). -/
inductive UrgentSource where
  | proof | diagnosis | sweep
  deriving DecidableEq, Repr

/-- An urgent request (R120): source, sense channel (none: the check reference), first eligible cycle in its first frame,
frame of posting, and whether it was deferred. -/
structure Urgent where
  source : UrgentSource
  sense : Option Nat
  cycle : Nat
  frame : Nat
  filter : Bool
  /-- An anomaly retry (R369): 1 after a failed check, 2 after a lower-limit OVR of the channel given. -/
  retry : Option (Nat × Nat)
  deriving DecidableEq, Repr

/-- One ADC core (chapter 4). -/
structure AdcCore where
  /-- Scan tables and their shadows (R117, R118): entries of 16 bits. -/
  even : List W16
  odd : List W16
  shadow : Option (List W16 × List W16)
  /-- This frame: entries still pending (by number), urgent conversions used, check done, next boundary (R119). -/
  pending : List Nat
  used : Nat
  checkDone : Bool
  boundary : Nat
  urgent : List Urgent
  /-- The last check failed (R123). -/
  checkFail : Bool
  deriving DecidableEq, Repr

/-- An interleaved capture (R133). -/
structure Capture where
  cmd : CmdRef
  iova : Nat
  pair : Nat
  sense : Nat
  filter : Bool
  startFrame : Nat
  words : List W32
  deriving DecidableEq, Repr

/-- The path test of one ADC group (R136, R138): position in the sweep of 704 channels, phase (0 none, 1 baseline frame, 2
injection frame), range of the sweep, baseline word. -/
structure PathTest where
  pos : Nat
  phase : Nat
  range : Nat
  base : W32
  deriving DecidableEq, Repr

/-- Sense channels and conversion (chapter 4). -/
structure Sense where
  ch : Tbl SenseCh
  /-- The two banks of sample words (R124): the bank that conversions write and the bank that engines read. -/
  bankNow : Tbl W32
  bankPrev : Tbl W32
  cores : Tbl AdcCore
  /-- The core for which each group spare stands in, and whether that core is retired (R129). -/
  spare : Tbl (Nat × Bool)
  capture : Option Capture
  /-- Path tests per group; run of failures on distinct channels and the end of a suspension (R368). -/
  test : Tbl PathTest
  testFails : Tbl Nat
  testStop : Tbl Nat
  dacSuspect : Tbl Bool
  /-- Injection in force (R135): group, sense channel, test DAC code, R_inj. -/
  inject : Tbl (Nat × Nat × Nat)
  /-- TIA ranges to which channels return from a path test, a calibration step or a capture (R134, R138). -/
  rangeBack : Tbl Nat
  deriving DecidableEq, Repr

/-- Loops (chapter 5): channel state RAM, hatch rows, latched temperatures and what the engines keep beside them. -/
structure Loops where
  /-- Channel state of a drive channel, 64 bytes (R148 to R151). -/
  cs : Tbl (BitVec 512)
  /-- Hatch rows, 32 bytes (R163). -/
  hatch : Tbl (BitVec 256)
  temps : List Int
  /-- Engine lists (R33, R187): the engine of a drive channel where it is not the default of the placement, and the frame
  in which the channel changed engine. -/
  engine : Tbl Nat
  moved : Tbl Nat
  /-- Frame of the state change of a cell (R179); first and last frame of the window of a touched cell or port (by drive
  index). -/
  changedAt : Tbl Nat
  window : Tbl (Nat × Nat)
  /-- Frames without LOCKED since the last restart or loss of lock, and the events LOOP_UNLOCKED and LOOP_LIMIT that stand. -/
  unlocked : Tbl Nat
  unlockedRaised : Tbl Bool
  /-- State in force of a cell one tick ago (R152: a sample belongs to the state at the tick of its frame). -/
  prevState : Nat
  /-- An EO dwell that ended and waits for its update (R175): frame n and previous state. -/
  dwell : Tbl (Nat × Bool)
  /-- Entries that each engine finishes in this frame (R25), and LOOP_DEGRADED stands. -/
  unfinished : List (Nat × Nat)
  degraded : Bool
  toneAssigned : Bool
  deriving DecidableEq, Repr

/-! ## Plates, routes, impressions and proof (chapters 6 and 7) -/

/-- PERM, CELLS and VOA_TARGET of a plate (R198), CELLS as a bitmap by cell index. -/
structure PlateImg where
  perm : List Nat
  cells : Nat
  targets : List Nat
  deriving DecidableEq, Repr

/-- Who asked for a route job. -/
inductive JobOwner where
  | cmd (c : CmdRef)
  | batch (id : Nat)
  deriving DecidableEq, Repr

/-- A change of a delta route (R205): ingress, egress, action, target. -/
structure Change where
  ingress : Nat
  egress : Nat
  action : Nat
  target : Nat
  deriving DecidableEq, Repr

/-- A route job (R201): destination, base (0 to 511, 0xFFFE, 0xFFFF), changes of a delta route, owner. -/
structure Job where
  dest : Nat
  base : Nat
  delta : Option (List Change)
  owner : JobOwner
  deriving DecidableEq, Repr

/-- What a job reads at its start (R203): base image, source permutation, descriptor bytes, pins (cells, states), the
geometry, the tag and targets that the destination takes, and an uncorrectable word met. -/
structure Running where
  job : Job
  base : Option PlateImg
  basePlate : Nat
  tag : Nat
  perm : List Nat
  targets : List Nat
  refused : List Nat
  bytes : List Byte
  legacy : Bool
  pinned : Nat
  pinState : Nat
  bad : Bool
  startTime : Nat
  startCycle : Nat
  deriving DecidableEq, Repr

/-- The Burin engine and the plate store (chapter 6). -/
structure Burin where
  store : Mem
  /-- Words of the plate store (by word address) with an uncorrectable error (R192). -/
  badWords : List Nat
  /-- Words with a single-bit error, which their next read corrects (R192). -/
  softWords : List Nat
  running : Option Running
  queue : List Job
  /-- Next request ring slot to try (R191). -/
  ringNext : Nat
  /-- The next value of the model's own free-value counter (AN OPEN VALUE is Config applied to it). -/
  free : Nat
  deriving DecidableEq, Repr

/-- A snapshot read in progress (R229): the plate, what was read of it, when it began, its ordinal. -/
structure SnapRead where
  plate : Nat
  got : List Byte
  startCycle : Nat
  ordinal : Nat
  /-- A word read so far had an uncorrectable error (R231). -/
  bad : Bool
  deriving DecidableEq, Repr

/-- The trigger of an impression (R224). -/
inductive Trigger where
  | slot | asap | atTime | onSync | onDemand
  deriving DecidableEq, Repr

/-- An impression that is armed, or waits to be (R224 to R229). -/
structure Armed where
  /-- SOURCE of R249 and trigger. -/
  source : Nat
  trigger : Trigger
  plate : Nat
  /-- Due time in ns (R225); `none` for ON_SYNC until its edge. -/
  due : Option Nat
  order : Nat
  strict : Bool
  late : Bool
  cmd : Option CmdRef
  batch : Option Nat
  /-- Frame of a slot start. -/
  frame : Option Nat
  read : Option SnapRead
  snap : Option PlateImg
  deriving DecidableEq, Repr

/-- One circuit whose proof is outstanding (R238 to R246): the record of its impression, ingress and egress, the frame of
the impression or retry that placed it, whether it is retried and in whose record it failed first, its two samples. -/
structure ProofItem where
  seq : Nat
  ingress : Nat
  egress : Nat
  placed : Nat
  frame : Nat
  retried : Bool
  first : Nat
  yIn : Option W32
  yOut : Option W32
  /-- APPLIED of the output VOA at the tick of the frame measured (R239); its output tap was in range 3 there; a tap is
  idle, retired or unsampled (R238). -/
  applied : Nat
  range3 : Bool
  noTap : Bool
  deriving DecidableEq, Repr

/-- A proof record (R249). -/
structure ProofRec where
  seq : Nat
  epoch : Nat
  time : Nat
  frame : Nat
  plate : Nat
  source : Nat
  flags : Nat
  changed : Nat
  proved : Nat
  pass : Nat
  unlit : Nat
  fail : Nat
  pending : Nat
  cycles : Nat
  suspects : List Nat
  suspectCount : Nat
  retryOf : Nat
  result : Tbl Nat
  /-- The IMPRESS command that completes at the first result (R508). -/
  cmd : Option CmdRef
  late : Bool
  reported : Bool
  deriving DecidableEq, Repr

/-- A localisation in progress (R247): record of the FAIL and of the first FAIL, ingress, egress, first frame, trace
cells, frame and y of the tap's samples, newest first. -/
structure Locate where
  seq : Nat
  firstSeq : Nat
  ingress : Nat
  egress : Nat
  /-- Frame of the impression whose result was FAIL (R366); first frame of the interval. -/
  date : Nat
  start : Nat
  trace : List Nat
  ys : List (Nat × Int)
  deriving DecidableEq, Repr

/-- What the commit point fixes for the next tick (R233). -/
inductive Fixed where
  /-- The impression, the applied plate-to-be, PIN_OVERRIDE, the changed cells; the circuits of an abandoned retry that
  the slot plate holds, and those that it does not hold (R245). -/
  | impression (a : Armed) (img : PlateImg) (pinOverride : Bool) (changed : List Nat)
      (joined gone : List (Nat × Nat × Nat))
  /-- A retry: (ingress, egress, first record), and the latest impression retried. -/
  | retry (set : List (Nat × Nat × Nat)) (latest : Nat)
  deriving DecidableEq, Repr

/-- The impression unit and the proof unit (chapter 7). -/
structure Imp where
  applied : Option PlateImg
  /-- Plate slot of the applied plate, where it came from one. -/
  appliedPlate : Option Nat
  armed : List Armed
  order : Nat
  fixed : Option Fixed
  seq : Nat
  records : List ProofRec
  items : List ProofItem
  /-- Armed retry (R243): tick frame, (ingress, egress, first record), and the latest impression retried. -/
  retry : Option (Nat × List (Nat × Nat × Nat) × Nat)
  locates : List Locate
  reads : Nat
  deriving DecidableEq, Repr

/-! ## Requests and the slot table (chapter 8) -/

/-- A granted request (R263): domain, queue, descriptor, HEAD after it, YELLOW, LATE, times rebased, due frame of a timed
one. -/
structure Req where
  dom : Nat
  queue : Nat
  desc : BitVec 256
  head : Nat
  yellow : Bool
  late : Bool
  rebased : Nat
  due : Option Nat
  /-- Its completion record is not written: FLR of the function (R486), or the lease has ended (R251). -/
  dropped : Bool
  deriving DecidableEq, Repr

/-- Where a batch stands (R277 to R280). -/
inductive BatchState where
  | forming | waiting | routing | routed | armed | applied (seq time : Nat)
  deriving DecidableEq, Repr

/-- A batch of granted requests (R277): its number, requests in grant order, destination and base plate. -/
structure Batch where
  id : Nat
  reqs : List Req
  dest : Nat
  base : Nat
  state : BatchState
  disturbed : Nat
  deriving DecidableEq, Repr

/-- One request queue (R254): its 128 bits of state, the descriptors held, the length of each fetch in progress. -/
structure Queue where
  word : BitVec 128
  descs : List (BitVec 256)
  fetching : Nat
  /-- The head descriptor passed the checks of R261; it carries LATE (R284); its due frame (R283). -/
  checked : Bool
  late : Bool
  due : Option Nat
  deriving DecidableEq, Repr

/-- A completion record that waits to be written (R265, R482). -/
structure Cpl where
  dom : Nat
  record : BitVec 256
  deriving DecidableEq, Repr

/-- One domain (R264 to R275, R513). -/
structure Domain where
  enable : Bool
  weight : Nat
  police : Bool
  impressEn : Bool
  cir : Nat
  pir : Nat
  cbs : Nat
  pbs : Nat
  /-- Rates and depths that take effect at the next refill (R271). -/
  nextRates : Option (Nat × Nat × Nat × Nat)
  balC : Int
  balP : Int
  tag : Nat
  first : Nat
  count : Nat
  /-- Completion ring: base, k (0 = none), next write index, PHASE, CPL_HEAD, reserved entries. -/
  cBase : Nat
  cK : Nat
  cWrite : Nat
  cPhase : Bool
  cHead : Nat
  cReserved : Nat
  /-- Queue granted last, for URGENT and other heads (R275). -/
  lastUrgent : Nat
  lastOther : Nat
  deriving DecidableEq, Repr

/-- A latched occurrence of a slot entry (R288): bank, entry, its 64 bits, start frame. -/
structure Occ where
  bank : Bool
  entry : Nat
  word : Nat
  start : Nat
  cycle : Nat
  deriving DecidableEq, Repr

/-- A pending operation of SLOT_TABLE_SWAP (R290, R291, R511): 0 swap, 1 start, 2 stop; bank; LATE. -/
structure SlotOp where
  op : Nat
  cmd : CmdRef
  bank : Bool
  late : Bool
  /-- Frame of acceptance; the first frame at which it may take effect. -/
  accepted : Nat
  at_ : Nat
  /-- The boundary, start or stop has been latched: its frame, and the bank that was active before. -/
  latched : Bool
  fire : Nat
  old : Bool
  deriving DecidableEq, Repr

/-- The scheduler and the slot table (chapter 8). -/
structure Sched where
  queues : Tbl Queue
  domains : Tbl Domain
  v : Nat
  batches : List Batch
  nextBatch : Nat
  returned : List Req
  cpls : List Cpl
  batchMax : Nat
  budget : Nat
  deferMax : Nat
  slotA : Tbl W64
  slotB : Tbl W64
  active : Bool
  running : Bool
  current : Option Occ
  next : Option Occ
  cycle : Nat
  /-- Start frame of the last cycle boundary that was latched (R290). -/
  boundary : Option Nat
  op : Option SlotOp
  deriving DecidableEq, Repr

/-! ## Pairing (chapter 10) -/

/-- One REF port of the lease island, and what a referee knows of the site on it (R329, R333, R337). -/
structure RefPort where
  up : Bool
  valid : Nat
  /-- Island time of the last valid frame. -/
  last : Nat
  upSince : Nat
  iso : Bool
  seqTx : W16
  /-- Referee side: flags and EPOCH of the last STATUS or CLAIM. -/
  flags : W16
  epoch : Nat
  seen : Bool
  deriving DecidableEq, Repr

/-- The lease island (R335 to R342), the referee (R337) and the pair settings (R364). -/
structure Pair where
  /-- Island time in cycles of 16 ns. -/
  now : Nat
  solo : Bool
  enable : Bool
  refB : Bool
  revertDelay : Nat
  swapInterval : Nat
  addresses : Tbl Nat
  clients : Tbl Nat
  portA : RefPort
  portB : RefPort
  /-- Lease: held, epoch held or last seen, L, E_m, start of the claim interval, a takeover, first tick still to come. -/
  held : Bool
  epoch : Nat
  len : Nat
  em : Nat
  claimFrom : Nat
  takeover : Bool
  /-- The takeover brings up the module's own image (R339), not the mirrored one. -/
  ownImage : Bool
  firstTick : Bool
  extended : Bool
  /-- ARM in force: epoch, L, since. -/
  armed : Option (Nat × Nat × Nat)
  /-- ARMED has been reported to the partner (R338). -/
  reportedArmed : Bool
  /-- Frame heartbeat: number of the last one, and whether it is fresh (R338): it followed its predecessor and has not
  gone stale. -/
  hbFrame : Option Nat
  hbFresh : Bool
  recovered : Bool
  /-- The image held: its epoch and whether it is intact (R339, R433); a mirrored image of the partner's epoch. -/
  image : Option Nat
  lastChange : Nat
  /-- Referee: state of R337. -/
  refEpoch : Nat
  refHolder : Option Bool
  refX : Nat
  refFree : Nat
  refArmed : Option (Bool × Nat)
  refL : Nat
  refSince : Nat
  refReady : Bool
  /-- End time of the last lease of each site that had one (R337, DRIVING rule). -/
  refEnd : Tbl Nat
  /-- Planned swap (R346 to R348): accepted at this frame, command, chosen frame f, captured, SWAP_READY for f; SET_MODE to
  Standby that waits on it; a SWAP_REQ of this module and the frame since which it has stood. -/
  swap : Option (Nat × Option CmdRef × Bool)
  swapFrame : Option Nat
  swapCaptured : Bool
  swapReady : Bool
  swapReq : Option (Nat × Option CmdRef)
  swapRequested : Bool
  /-- A request of the module was deferred and is tried again (R346, R360). -/
  swapDeferred : Bool
  /-- Fabric time in ns since which the module has been in Standby, READY and HEALTHY (R359). -/
  standbySince : Nat
  /-- Management datagrams (R363): per client the last sequence numbers and responses, newest first. -/
  answered : Tbl (List (Nat × BitVec 512))
  /-- Copies of a datagram whose command still runs: client, sequence number, port (R363). -/
  copies : List (Nat × Nat × Bool)
  deriving DecidableEq, Repr

/-- The mirror link (R349 to R354). -/
structure Mirror where
  lane0 : Bool
  lane1 : Bool
  seqTx : W32
  /-- Bytes of mirror messages sent in this frame (R560 MIRROR_LOAD). -/
  txBytes : Nat
  seqRx : Option Nat
  resync : Bool
  /-- Payloads of IMAGE and LOOPSET messages of the captures that are still to be sent (R351). -/
  imageOut : List (List Byte)
  loopsetOut : List (List Byte)
  /-- Captures in arrival: frame of capture and segments received; captures installed last. -/
  image : Option (Nat × List (Nat × List Nat))
  loopset : Option (Nat × List (Nat × List Byte))
  imageAt : Option Nat
  loopsetAt : Option Nat
  dropped : Nat
  /-- FRAME messages of the last two ticks, the last one, and its measured offset in ns. -/
  lastFrame : Option FrameMsg
  framesSeen : List Nat
  offset : Int
  delay : Nat
  silent : Bool
  /-- Impressions received, and one named by FRAME before it was complete (R352). -/
  impressions : List ImpressionMsg
  named : Option FrameMsg
  /-- Mirrored completion records: (domain, index, record); requests that were granted there, each with the number of its batch. -/
  cpls : List (Nat × Nat × BitVec 256)
  granted : List (Req × Nat)
  /-- The partner's STANDBY_STATUS of the last two ticks of this lease and link, the tick count of the last; the last one received at
  all and its frame (R364). -/
  status : Option StandbyMsg
  statusPrev : Option StandbyMsg
  statusTick : Nat
  statusLast : Option StandbyMsg
  statusFrame : Nat
  level : Option Nat
  /-- READY of this module at the last evaluation (R354). -/
  ready : Bool
  mismatch : Bool
  /-- The holder owes a resync (R353, R422). -/
  resyncOut : Bool
  /-- LEASE_EPOCH of the last mirror message: the holder's epoch (R350, R354). -/
  epoch : Nat
  deriving DecidableEq, Repr

/-! ## Faults and health (chapter 11) -/

/-- A fault unit (R365, R366): dates of counted failures, newest first, each with the rule 4 mark; permanent; reason of
its retirement. -/
structure FUnit where
  /-- Dates of the counted failures of the last 500 frames, and at least of the last two. -/
  dates : List (Nat × Bool)
  permanent : Bool
  retired : Option Nat
  deriving DecidableEq, Repr

/-- A fault queue entry (R381). -/
structure FEntry where
  kind : Nat
  index : Nat
  reason : Nat
  frame : Nat
  count : Nat
  permanent : Bool
  escalated : Bool
  deriving DecidableEq, Repr

/-- Faults, events and health (chapter 11). -/
structure Faults where
  units : Tbl FUnit
  queue : List FEntry
  /-- Units whose entry found the queue full (R383), by key, with the reason of the last failure. -/
  missed : Tbl Nat
  overflow : Bool
  overflowPeriod : Bool
  queueMax : Nat
  /-- Pins by retirement: cell to pin state; a change waits for the retirement record (R378). -/
  pins : Tbl Bool
  recordDue : Bool
  degraded : Tbl Bool
  /-- Fault log, newest first, at most 4,096, each record with whether a FAULT_LOG_READ has returned it; LOG_SEQ of the
  next; FAULT_LOG_WRAP raised since the last read. -/
  log : List (BitVec 256 × Bool)
  logNext : Nat
  wrapRaised : Bool
  /-- Events detected during a hot restart, oldest first (R452). -/
  late : List (BitVec 256 × List Nat)
  tempHigh : Nat
  procDrift : Nat
  vhtrNominal : Tbl Nat
  tempAlarm : Tbl Bool
  thermalLimit : Bool
  supplyFault : Tbl Bool
  volts : List Nat
  /-- The voltage monitors have sampled their rails. -/
  voltSampled : Bool
  voltOut : Tbl Nat
  voltIn : Tbl Nat
  voltFar : Tbl Nat
  voltAlarm : Tbl Bool
  procBase : Tbl Nat
  procAlarm : Tbl Bool
  healthy : Bool
  /-- The last health report (R389), the number of reports, and the counters of the period. -/
  report : List Byte
  reports : Nat
  transient : Nat
  permanents : Nat
  rbJudged : Nat
  rbFailed : Nat
  pathTests : Nat
  pathFailed : Nat
  tempMax : Int
  tempMaxSensor : Nat
  proofFail : Nat
  silentRaised : Bool
  deriving DecidableEq, Repr

/-! ## Calibration (chapter 12) -/

/-- One calibration scope (R396, R424, R527). -/
structure Scope where
  count : Nat
  time : Nat
  temp : Int
  flags : Nat
  running : Option Nat
  pending : Bool
  cmd : Option CmdRef
  startTemp : Int
  lastReason : Nat
  lastFail : Nat
  /-- The last run was rejected, and the frame before which the scope is not started again (R399). -/
  rejected : Bool
  notBefore : Nat
  /-- The run in progress: 0 with a lease, 1 without, 2 with a lease and no ADC steps (R405); frames by which its steps were
  deferred (R137, R405). -/
  style : Nat
  delay : Nat
  deriving DecidableEq, Repr

/-- Calibration (chapter 12). -/
structure Cal where
  scopes : Tbl Scope
  /-- Corrections in force: (gain, offset) of cores, of sense channel and range (index 4·x + r), of banks, of read-back
  converters (voltage 2r, current 2r + 1). -/
  adc : Tbl (Nat × Int)
  tia : Tbl (Nat × Int)
  bank : Tbl (Nat × Int)
  rb : Tbl (Nat × Int)
  /-- Policy of R400. -/
  dt : Nat
  tempTrigger : Bool
  powerup : Bool
  persist : Bool
  /-- A converter record in flash was valid at boot (R438); the records wait to be written (R423). -/
  haveRecord : Bool
  convDue : Bool
  fabDue : Bool
  /-- Fabric record in force: cells (12 bytes each), VOAs (8 bytes each), LOSS values, header values. -/
  cells : Tbl (BitVec 96)
  voas : Tbl (BitVec 64)
  /-- LOSS_IN[i] under key i and LOSS_OUT[e] under key 512 + e (R413, R425); not listed: none. -/
  loss : Tbl Nat
  patterns : Nat
  /-- Output ports that the calibration map lights (R410, R413), as a bitmap. -/
  lit : Nat
  /-- Cells excluded from the last run (R410), as a bitmap. -/
  excluded : Nat
  /-- The fabric run in progress: PATTERN, HATCH_MEASURE, REF_IN; its calibration map, the sets of its hatch step (R415), the
  codes to which the members of the set return, and the number of fabric runs started. -/
  fabric : Option (Nat × Bool × Nat)
  map : Nat
  hatchSets : List (List Nat)
  hatchBack : Tbl Nat
  /-- Tone amplitudes of TONE_ASSIGN of the cells whose stage is in its steps, by drive index (R411). -/
  toneBack : Tbl Nat
  runs : Nat
  /-- The fabric CAL_RUN that waits: PATTERN, HATCH_MEASURE, REF_IN. -/
  fabricNext : Nat × Bool × Nat
  /-- Frame of the last run started (R401). -/
  lastStart : Option Nat
  /-- ALL_CONVERTERS: command, scopes still to end, first rejected scope, how many were rejected. -/
  all : Option (CmdRef × List Nat × Nat × Nat)
  /-- Phase of Start-up Calibration (R408): 0 not begun, 1 read-back converters, 2 banks and ADC groups, 3 ended. -/
  phase : Nat
  /-- Results of a run that come into force at the next tick. -/
  due : List (Nat × CalData)
  deriving DecidableEq, Repr

/-! ## Modes, boot and firmware (chapter 13) -/

/-- A write of a record or of an image to QSPI flash (R67, R378, R423, R440, R450), in the order of issue. Which copy it takes
and its sequence number are settled when the write is done (R68). -/
inductive FlashJob where
  | descriptor (body : List Byte) (cmd : CmdRef)
  | retirement (body : List Byte)
  /-- BOOT_TARGET and LEASE_LENGTH, or POLICY and DT_CAL, that the write sets; the command and its response. -/
  | mode (boot : Option (Nat × Nat)) (policy : Option (Nat × Nat)) (cmd : CmdRef) (reply : List (Nat × Nat))
  | converter (body : List Byte)
  | fabric (body : List Byte)
  | stage (slotB : Bool) (image : List Byte) (cmd : CmdRef)
  | control (slotB : Bool) (sequence : Nat) (cmd : CmdRef)
  deriving DecidableEq, Repr

/-- Modes, flash, fuses and firmware (chapter 13). -/
structure Sys where
  mode : Mode
  target : Mode
  /-- Hold was entered from Legacy (R428); Service was entered from a lease mode (R426). -/
  holdLegacy : Bool
  /-- A SET_MODE waits for its tick, for a swap or for a lease (R434), and its PERSIST flag (R440). -/
  modePending : Option (CmdRef × Mode)
  modePersist : Bool
  /-- The first tick of Standby since reset has come (R439). -/
  standbySeen : Bool
  /-- The mailbox is open (R437); start-up has not reached Standby. -/
  mailboxOpen : Bool
  bootFailed : Bool
  bootReason : Nat
  fallback : Bool
  slotB : Bool
  /-- Mailbox commands that are taken and not yet answered (R469, R470). -/
  running : List CmdRef
  /-- Buffer bytes that a command has read, for BUF_DONE of its response (R470). -/
  bufDone : List (CmdRef × Nat)
  /-- Header fields of the running image (R443). -/
  version : W32
  mirrorLevel : Nat
  configLevel : Nat
  restarting : Bool
  /-- FW_ACTIVATE NOW in progress (R451) and the frames of the last unplanned restarts (R453). -/
  activate : Option (CmdRef × Bool)
  restarts : List Nat
  /-- The tick count at which the last restart began (R451). -/
  restartTick : Nat
  held : List (Nat × MbCmd)
  staging : Bool
  flash : Mem
  flashJobs : List FlashJob
  /-- Flash recovery registers and buffer (R491). -/
  sector : BitVec 13
  recoveryOp : Nat
  recoveryError : Bool
  recoveryBuf : Mem
  /-- Fuse array as programmed, as read at boot, and programming in progress (R447 to R449). -/
  fuses : BitVec 4096
  fusesInForce : BitVec 4096
  fuseJob : Option (BitVec 4096 × CmdRef)
  /-- The model's own: tightly coupled memory bytes that a debug write has set (R545). -/
  tcm : Mem
  deriving DecidableEq, Repr

/-! ## Host interface (chapters 14 to 16) -/

/-- One function: its BAR0 registers, mailbox, MSI-X and events (R465 to R475). -/
structure Fn where
  cmd : BitVec 512
  cmdFull : Bool
  seq : W16
  lastSeq : W16
  dbIgnored : Bool
  rsp : BitVec 512
  rspValid : Bool
  /-- Responses that wait, oldest first, each with NOTIFY. -/
  waiting : List (BitVec 512 × Bool)
  evStatus : BitVec 320
  evEnable : BitVec 320
  ringBase : Nat
  ringK : Nat
  ringTail : Nat
  ringHead : Nat
  ringLost : Bool
  /-- An event or completion message is due at the end of the frame (R267, R475). -/
  evMsg : Bool
  cplMsg : Bool
  frameLat : W32
  /-- MSI-X: address, data and mask of the three entries; pending bits; enable and function mask (R595). -/
  vAddr : Tbl Nat
  vData : Tbl Nat
  vMask : BitVec 3
  vPend : BitVec 3
  msixEnable : Bool
  funcMask : Bool
  d3 : Bool
  /-- AER has logged an Unsupported Request (R462). -/
  aerUr : Bool
  deriving DecidableEq, Repr

/-- Translation state of a domain (R478). -/
structure Xlate where
  mode : Nat
  l1Base : Nat
  l1Limit : Nat
  stopped : Bool
  fault : W64
  deriving DecidableEq, Repr

/-- What a buffer that is read does once its last byte is here. -/
inductive BufUse where
  | plate (plate offset : Nat)
  | descriptor (persist : Bool)
  | hatch (first : Nat)
  | tones (first : Nat)
  | slots (bank : Bool) (first : Nat)
  | changes (dest base : Nat)
  | stage
  | fuses
  deriving DecidableEq, Repr

/-- What a transfer is for (R476). -/
inductive XferUse where
  | fetch (queue : Nat)
  | completion (index : Nat)
  | event (fn : Nat)
  | read (c : CmdRef) (u : BufUse)
  | write (c : CmdRef) (status : Nat) (payload : List (Nat × Nat))
  deriving DecidableEq, Repr

/-- An HDMA transfer (R476, R477). -/
structure Xfer where
  id : Nat
  dom : Nat
  use : XferUse
  urgent : Bool
  write : Bool
  iova : Nat
  len : Nat
  /-- Bytes issued, and the data: read so far, or to be written. -/
  issued : Nat
  data : List Byte
  /-- A read burst in flight: its bytes. -/
  inFlight : Nat
  walking : Bool
  preempted : Bool
  faulted : Bool
  deriving DecidableEq, Repr

/-- What leaves the module, in order (the model's own record of its outputs). -/
inductive Out where
  | hostWrite (dom client addr : Nat) (data : List Byte)
  | hostRead (dom client addr len : Nat)
  | walk (dom addr : Nat)
  | msix (fn addr data : Nat)
  | regRead (value : Nat)
  | configRetry (fn : Nat)
  | refTx (port : Bool) (type : Nat) (data : List Byte)
  | refSymbol (port : Bool)
  | isoTx (port : Bool) (on : Bool)
  | mirrorTx (type : Nat) (data : List Byte)
  | ptpTx (port : Bool) (type seq : Nat) (sender requester : Nat) (t2 t3 corr : Int)
  | mgmtTx (port : Bool) (client seq xstatus : Nat) (body : BitVec 512)
  | smbus (data : Option (List Byte))
  | busError (master : Nat)
  deriving DecidableEq, Repr

/-- A plate port write that waits (R553): requester, plate, offset, bytes. -/
structure PortWrite where
  requester : Nat
  plate : Nat
  offset : Nat
  bytes : List Byte
  /-- The command buffer burst or the job that the write belongs to completes with it. -/
  job : Option Nat
  /-- Its transaction ID; none while 16 transactions of its master are outstanding (R549). -/
  id : Option Nat
  deriving DecidableEq, Repr

/-- A transaction outstanding in the bus matrix (R549): its ID, the master number in [7:4] and the tag in [3:0], its target, whether
the target has served it. -/
structure BusTxn where
  id : Nat
  target : BusTarget
  write : Bool
  served : Bool
  deriving DecidableEq, Repr

/-- The bus matrix (R547 to R551): outstanding transactions in issue order; the master that each leaf granted last for its path to a
port (by 16 × leaf + port), the leaf that each root arbiter granted last, and the master granted last in turn at the plate store's
read port. -/
structure Bus where
  txns : List BusTxn
  leafLast : Tbl Nat
  rootLast : Tbl Nat
  readLast : Nat
  deriving DecidableEq, Repr

/-- A PLATE_READ copy in progress (R505). -/
structure Copy where
  cmd : CmdRef
  iova : Nat
  plate : Nat
  offset : Nat
  before : List Byte
  ordinal : Nat
  deriving DecidableEq, Repr

/-- A programmable counter (R559). -/
structure PerfCtr where
  ctl : Nat
  threshold : Nat
  count : Nat
  ovf : Bool
  hi : Nat
  deriving DecidableEq, Repr

/-- The host interface, the bus matrix and the counters. -/
structure HostIf where
  fns : Tbl Fn
  vfEnable : Bool
  linkUp : Bool
  xlate : Tbl Xlate
  /-- TLB: (domain, page) to physical page and permissions, newest first (R479). -/
  tlb : List (Nat × Nat × Nat × Bool × Bool)
  xfers : List Xfer
  nextXfer : Nat
  /-- Domain served last by the round robin of R477. -/
  lastDom : Nat
  /-- Mailbox commands that read a buffer which arrives at the flash or the fuses. -/
  copies : List Copy
  portWaits : List PortWrite
  /-- PA_ registers (R556): shadows, committed set, active set; last granted per priority. -/
  shadow : List Nat
  committed : Option (List Nat)
  active : List Nat
  rrLast : Tbl Nat
  bus : Bus
  perf : Tbl PerfCtr
  out : List Out
  deriving DecidableEq, Repr

/-! ## The machine -/

/-- The state of the module. -/
structure State where
  /-- Commands that wait, first in, first out. -/
  pending : List Instr
  /-- Changes due at the next tick (R26), in order. -/
  atTick : List TickOp
  clk : Clk
  ft : FabTime
  desc : Desc
  drive : Drive
  sense : Sense
  loops : Loops
  burin : Burin
  imp : Imp
  sched : Sched
  pair : Pair
  mirror : Mirror
  faults : Faults
  cal : Cal
  sys : Sys
  host : HostIf
  deriving DecidableEq, Repr

/-! ## Reset -/

/-- A PTP port after power-on reset: the defaults of R324, port down. -/
def PtpPort.init : PtpPort :=
  { up := false, rate25 := true, config := BitVec.ofNat 36 (1 + 3 * 2 ^ 27), ingress := 2064384, egress := 1468006,
    latSet := false, asymmetry := 0, best := none, syncSeen := false, hasMaster := false, annAt := 0, syncAt := 0, syncLog := 0, reqAt := 0,
    sync := none, req := none, resp := none, pdelay := none, reqSeq := 0, reqLog := 0, delays := [], lastDelay := 0, held := 0, reseed := 0, pathStep := false, lastOffset := 0 }

/-- A REF port with its link down. -/
def RefPort.init : RefPort :=
  { up := false, valid := 0, last := 0, upSince := 0, iso := false, seqTx := 0, flags := 0, epoch := 0, seen := false }

/-- DESIGN CHOICE, log 15; DESIGN CHOICE, log 16. -/
def Clk.init : Clk :=
  { rstN := false, coreUp := true, vddLease := true, lpll := false, interconnect := true, ethref := true, frame := 0,
    cycle := 0, lastLen := 6000, tickTime := 0, committed := false, stepped := false, refilled := false,
    reported := false, cycles := 0, ticks := 0, pcCycle := 0, pcHi := 0, siteId := false, pref := false, clkMode := false, fuseEn := true }

/-- DESIGN CHOICE, log 16. -/
def FabTime.init : FabTime :=
  { t := 0, freq := 0, slew := 0, inc := 0x555555555555, rem := 0, state := .freerun, source := .ptp, kp := 45875,
    ki := 19661, slewMax := 10000, stepAllowed := true, stepThreshold := 1000, lockThreshold := 100,
    pathThreshold := 50, stepFreeze := false, ppsInDelay := 0, ppsOut := BitVec.ofNat 64 (2 + 100000 * 256),
    lockRun := 0, unlockRun := 0, step := none, port0 := .init, port1 := .init, selected := false,
    frozenPort := false, thawed := false, ppsHeld := none, ppsEdge := none, ppsGlitch := false, ppsValid := false,
    ppsOffset := 0, ppsLast := 0, ppsLost := false, ppsOutLine := false, ppsOutEnd := 0, ppsOutNext := 0, syncLine := false,
    syncCount := 0, syncTime := 0, syncTick := 0, syncStuck := false, cleared := 0 }

def Desc.init : Desc :=
  { bytes := [], loaded := false, everLoaded := false, reading := false, inInterval := false }

def Drive.init : Drive :=
  { ch := [], closed := false, holding := false, rbPos := [], rbRetry := [], bankFails := [], vhtrOpen := [],
    bankFault := [], vhtrFault := [], convSuspect := [] }

/-- DESIGN CHOICE, log 16. -/
def Sense.init : Sense :=
  { ch := [], bankNow := [], bankPrev := [], cores := [], spare := [], capture := none, test := [],
    testFails := [], testStop := [], dacSuspect := [], inject := [], rangeBack := [] }

/-- DESIGN CHOICE, log 16. -/
def Loops.init : Loops :=
  { cs := [], hatch := [], temps := List.replicate 32 0, engine := [], moved := [], changedAt := [], window := [],
    unlocked := [], unlockedRaised := [], prevState := 0, dwell := [], unfinished := [], degraded := false,
    toneAssigned := false }

def Burin.init : Burin :=
  { store := [], badWords := [], softWords := [], running := none, queue := [], ringNext := 480, free := 0 }

/-- DESIGN CHOICE, log 16. -/
def Imp.init : Imp :=
  { applied := none, appliedPlate := none, armed := [], order := 0, fixed := none, seq := 0, records := [],
    items := [], retry := none, locates := [], reads := 0 }

/-- DESIGN CHOICE, log 16. -/
def Sched.init : Sched :=
  { queues := [], domains := [], v := 0, batches := [], nextBatch := 0, returned := [], cpls := [], batchMax := 8,
    budget := 1, deferMax := 1000, slotA := [], slotB := [], active := false, running := false, current := none,
    next := none, cycle := 0, boundary := none, op := none }

/-- DESIGN CHOICE, log 16. -/
def Pair.init : Pair :=
  { now := 0, solo := false, enable := false, refB := false, revertDelay := 60, swapInterval := 86400,
    addresses := [], clients := [], portA := .init, portB := .init, held := false, epoch := 0, len := 31250, em := 0,
    claimFrom := 0, takeover := false, ownImage := false, firstTick := false, extended := false, armed := none, reportedArmed := false,
    hbFrame := none, hbFresh := false, recovered := false, image := none, lastChange := 0, refEpoch := 0,
    refHolder := none, refX := 0, refFree := 0, refArmed := none, refL := 31250, refSince := 0, refReady := false,
    refEnd := [], swap := none, swapFrame := none, swapCaptured := false,
    swapReady := false, swapReq := none, swapRequested := false, swapDeferred := false, standbySince := 0, answered := [],
    copies := [] }

/-- DESIGN CHOICE, log 16. -/
def Mirror.init : Mirror :=
  { lane0 := false, lane1 := false, seqTx := 0, txBytes := 0, seqRx := none, resync := false, imageOut := [], loopsetOut := [], image := none, loopset := none,
    imageAt := none, loopsetAt := none, dropped := 0, lastFrame := none, framesSeen := [], offset := 0, delay := 0,
    silent := false, impressions := [], named := none, cpls := [], granted := [], status := none, statusPrev := none,
    statusTick := 0, statusLast := none, statusFrame := 0, level := none, ready := false, mismatch := false, resyncOut := false, epoch := 0 }

/-- DESIGN CHOICE, log 16. -/
def Faults.init : Faults :=
  { units := [], queue := [], missed := [], overflow := false, overflowPeriod := false, queueMax := 0, pins := [],
    recordDue := false, degraded := [], log := [], logNext := 0, wrapRaised := false, late := [],
    tempHigh := 1680, procDrift := 5, vhtrNominal := [], tempAlarm := [], thermalLimit := false, supplyFault := [],
    volts := List.replicate 24 0, voltSampled := false, voltOut := [], voltIn := [], voltFar := [], voltAlarm := [], procBase := [], procAlarm := [],
    healthy := false, report := List.replicate 64 0, reports := 0, transient := 0, permanents := 0, rbJudged := 0,
    rbFailed := 0, pathTests := 0, pathFailed := 0, tempMax := -640, tempMaxSensor := 0, proofFail := 0,
    silentRaised := false }

/-- DESIGN CHOICE, log 16. -/
def Cal.init : Cal :=
  { scopes := [], adc := [], tia := [], bank := [], rb := [], dt := 96, tempTrigger := true, powerup := true,
    persist := true, haveRecord := false, convDue := false, fabDue := false, cells := [], voas := [], loss := [],
    patterns := 0, lit := 0, excluded := 0, fabric := none, map := 0, hatchSets := [], hatchBack := [], toneBack := [], runs := 0,
    fabricNext := (0, false, 0), lastStart := none, all := none, phase := 0, due := [] }

/-- DESIGN CHOICE, log 7; PRESUMED, log 11; DESIGN CHOICE, log 16. -/
def Sys.init : Sys :=
  { mode := .reset, target := .active, holdLegacy := false, modePending := none, modePersist := false, standbySeen := false,
    mailboxOpen := false,
    bootFailed := false, bootReason := 0, fallback := false, slotB := false, running := [], bufDone := [], version := 0, mirrorLevel := 0,
    configLevel := 0, restarting := false, activate := none, restarts := [], restartTick := 0, held := [], staging := false, flash := [],
    flashJobs := [], sector := 0, recoveryOp := 0, recoveryError := false, recoveryBuf := [],
    fuses := Config.factoryFuses, fusesInForce := Config.factoryFuses, fuseJob := none, tcm := [] }

/-- DESIGN CHOICE, log 16. -/
def HostIf.init : HostIf :=
  { fns := [], vfEnable := false, linkUp := false, xlate := [], tlb := [], xfers := [], nextXfer := 0, lastDom := 0,
    copies := [], portWaits := [], shadow := [0x00020002, 0x00020002, 0x00070004, 0x00000006], committed := none,
    active := [0x00020002, 0x00020002, 0x00070004, 0x00000006], rrLast := [],
    bus := { txns := [], leafLast := [], rootLast := [], readLast := 9 }, perf := [], out := [] }

/-- The module right after power-on reset, in mode Reset with RST_N low and LPLL unlocked (R426, R466): every register at the value that the manual gives for
power-on reset and, where it gives none, at the value that the assumption log names. (DESIGN CHOICE, log 16) -/
def State.reset : State :=
  { pending := [], atTick := [], clk := .init, ft := .init, desc := .init, drive := .init, sense := .init,
    loops := .init, burin := .init, imp := .init, sched := .init, pair := .init, mirror := .init, faults := .init,
    cal := .init, sys := .init, host := .init }

end Sys2Proof.Machine
end

