-- ==== Sys2Proof/Machine/Ops.lean ====
section
/-! DEFINITION. The named operations over tables, byte stores, functions, domains, responses, messages and transfers.
Every other file of the machine reads and writes through these. -/

namespace Sys2Proof.Machine

/-! ## Tables and byte stores -/

/-- The entry of a key, if one is listed. -/
def find? {α : Type} : Tbl α → Nat → Option α
  | [], _ => none
  | (k, v) :: r, i => if k = i then some v else find? r i

/-- The value of a key, d where none is listed. -/
def rd {α : Type} (t : Tbl α) (i : Nat) (d : α) : α := (find? t i).getD d

/-- The table with the value of a key set; keys stay in rising order. -/
def wr {α : Type} : Tbl α → Nat → α → Tbl α
  | [], i, v => [(i, v)]
  | (k, w) :: r, i, v =>
    if i < k then (i, v) :: (k, w) :: r
    else if i = k then (i, v) :: r
    else (k, w) :: wr r i v

/-- The table without a key. -/
def del {α : Type} : Tbl α → Nat → Tbl α
  | [], _ => []
  | (k, w) :: r, i => if k = i then r else (k, w) :: del r i

/-- The byte at an address of a store whose unlisted addresses read as d. -/
def Mem.byte (d : Byte) (m : Mem) (a : Nat) : Byte := rd m a d

/-- The store with a byte set; a byte equal to d is not listed. -/
def Mem.set (d : Byte) (m : Mem) (a : Nat) (b : Byte) : Mem := if b = d then del m a else wr m a b

/-- n bytes from an address on. -/
def Mem.bytes (d : Byte) (m : Mem) (a : Nat) : Nat → List Byte
  | 0 => []
  | n + 1 => Mem.byte d m a :: Mem.bytes d m (a + 1) n

/-- The store with bytes written from an address on, in rising order. -/
def Mem.store (d : Byte) (m : Mem) (a : Nat) : List Byte → Mem
  | [] => m
  | b :: r => Mem.store d (Mem.set d m a b) (a + 1) r

/-- Keys rise strictly. -/
def rising {α : Type} : Tbl α → Bool
  | [] => true
  | [_] => true
  | (k, _) :: (k', v) :: r => decide (k < k') && rising ((k', v) :: r)

/-- The canonical form of a byte store: rising addresses, and no entry equal to what an unlisted address reads as. -/
def Mem.wf (d : Byte) (m : Mem) : Bool := rising m && m.all (fun e => e.2 != d)

/-- What an unlisted byte of the plate store reads as: power-on reset clears the store to zero (R190). -/
def plateDefault : Byte := 0

/-- What an unlisted byte of the QSPI flash reads as: an erased NOR cell (log 11). (PRESUMED, log 11) -/
def flashDefault : Byte := 0xFF

/-! ## Modes (R426) -/

def Mode.num : Mode → Nat
  | .reset => 0 | .boot => 1 | .startupCal => 2 | .standby => 3 | .active => 4 | .hold => 5 | .dark => 6
  | .characterize => 7 | .service => 8 | .isolated => 9 | .referee => 10 | .legacy => 11

def Mode.ofNum : Nat → Option Mode
  | 0 => some .reset | 1 => some .boot | 2 => some .startupCal | 3 => some .standby | 4 => some .active
  | 5 => some .hold | 6 => some .dark | 7 => some .characterize | 8 => some .service | 9 => some .isolated
  | 10 => some .referee | 11 => some .legacy | _ => none

/-- The lease modes that SET_MODE enters with a new lease (R428, R429). -/
def Mode.named : Mode → Bool
  | .active | .dark | .characterize | .legacy => true
  | _ => false

/-- Modes with ticks (R21). -/
def Mode.ticks : Mode → Bool
  | .reset => false
  | _ => true

/-- The fabric has the geometry of R65 (R455, R458). -/
def State.legacyGeo (s : State) : Bool :=
  decide (s.sys.mode = .legacy) || (decide (s.sys.mode = .hold) && s.sys.holdLegacy)

/-! ## Time -/

/-- Fabric time in whole nanoseconds (R297). -/
def State.ns (s : State) : Nat := s.ft.t / 2 ^ 48

/-- Fabric time in units of 2⁻¹⁶ ns. -/
def State.ns16 (s : State) : Int := (s.ft.t / 2 ^ 32 : Nat)

/-- TM_FRAME (R18). -/
def State.frame32 (s : State) : Nat := s.clk.frame % 2 ^ 32

/-- The frame in which a code written now applies: the next one, or the one after it past the commit point (R80). -/
def State.writeFrame (s : State) : Nat := s.clk.frame

/-- Appends a change that takes effect at the next tick (R26, R496). -/
def State.due (s : State) (o : TickOp) : State := { s with atTick := s.atTick ++ [o] }

/-- A change that takes effect at a tick (R26): now where the clock stands at the tick, else at the next one. -/
def State.atTickNow (s : State) (o : TickOp) (f : State → State) : State := if s.clk.cycle = 0 then f s else s.due o

/-- Records an output of the module. (DESIGN CHOICE, log 2) -/
def State.emit (s : State) (o : Out) : State := { s with host := { s.host with out := s.host.out ++ [o] } }

/-- The next free value's ordinal, and the state with the counter advanced (the model's own counter). (DESIGN CHOICE, log 9) -/
def State.fresh (s : State) : Nat × State := (s.burin.free, { s with burin := { s.burin with free := s.burin.free + 1 } })

/-! ## Functions (R463 to R475) -/

/-- A function's registers at reset (R465 to R474, R595). -/
def Fn.init : Fn :=
  { cmd := 0, cmdFull := false, seq := 0, lastSeq := 0, dbIgnored := false, rsp := 0,
    rspValid := false, waiting := [], evStatus := 0, evEnable := 0, ringBase := 0, ringK := 0,
    ringTail := 0, ringHead := 0, ringLost := false, evMsg := false, cplMsg := false, frameLat := 0, vAddr := [],
    vData := [], vMask := 7, vPend := 0, msixEnable := false, funcMask := false, d3 := false, aerUr := false }

def State.fn (s : State) (n : Nat) : Fn := rd s.host.fns n .init

def State.setFn (s : State) (n : Nat) (f : Fn) : State :=
  { s with host := { s.host with fns := wr s.host.fns n f } }

def State.modFn (s : State) (n : Nat) (g : Fn → Fn) : State := s.setFn n (g (s.fn n))

/-- A function is present: the PF, or a VF while VF Enable is set (R463). (DESIGN CHOICE, log 21) -/
def State.present (s : State) (n : Nat) : Bool := decide (n = 0) || (s.host.vfEnable && decide (n < 128))

/-- Sends the MSI-X message of a vector, or sets its pending bit (R595, R489). (DESIGN CHOICE, log 21; DEDUCED, log 59) -/
def State.msix (s : State) (n v : Nat) : State :=
  let f := s.fn n
  if tb f.vMask.toNat v || !f.msixEnable || f.funcMask || f.d3 || !s.host.linkUp then
    s.setFn n { f with vPend := f.vPend ||| BitVec.ofNat 3 (2 ^ v) }
  else s.emit (.msix n (rd f.vAddr v 0) (rd f.vData v 0))

/-! ## Domains (R513, R514) -/

/-- The reset values of R514. -/
def Domain.init (d : Nat) : Domain :=
  { enable := decide (d = 0), weight := 16, police := false, impressEn := decide (d = 0), cir := 0xFFFFFF,
    pir := 0xFFFFFF, cbs := 65535, pbs := 65535, nextRates := none, balC := 65535 * 256, balP := 65535 * 256,
    tag := 0, first := 0, count := if d = 0 then 480 else 0, cBase := 0, cK := 0, cWrite := 0, cPhase := true,
    cHead := 0, cReserved := 0, lastUrgent := 511, lastOther := 511 }

def State.domain (s : State) (d : Nat) : Domain := rd s.sched.domains d (.init d)

def State.setDomain (s : State) (d : Nat) (x : Domain) : State :=
  { s with sched := { s.sched with domains := wr s.sched.domains d x } }

/-- A domain takes part in arbitration: its function is present and it is enabled (R463, R273). -/
def State.domainOn (s : State) (d : Nat) : Bool := s.present d && (s.domain d).enable

/-- The fuse bits in force (R449), as a number. (DESIGN CHOICE, log 7) -/
def State.fuse (s : State) (lo w : Nat) : Nat := fld s.sys.fusesInForce.toNat lo w

/-- The partition mask of a domain (R464): a blank mask gives domain 0 every group. -/
def State.mask (s : State) (d : Nat) : Nat :=
  let m := s.fuse (16 * d) 16
  if d = 0 ∧ m = 0 then 0xFFFF else m

/-- A port lies inside a domain's mask (R252). -/
def State.inMask (s : State) (d port : Nat) : Bool := tb (s.mask d) (port / 32)

/-- The domain of a command's source: management commands run as domain 0 (R362). -/
def srcDom : Src → Nat
  | .fn n => n.toNat
  | .mgmt _ _ _ => 0

def srcRemote : Src → Bool
  | .fn _ => false
  | .mgmt _ _ _ => true

/-! ## Translation state (R478) -/

def Xlate.init (d : Nat) : Xlate :=
  { mode := if d = 0 then 2 else 0, l1Base := 0, l1Limit := 1, stopped := false, fault := 0 }

def State.xlate (s : State) (d : Nat) : Xlate := rd s.host.xlate d (.init d)

def State.setXlate (s : State) (d : Nat) (x : Xlate) : State :=
  { s with host := { s.host with xlate := wr s.host.xlate d x } }

/-! ## Transfers (R476) -/

/-- Queues an HDMA transfer. A transfer of no bytes is not queued. -/
def State.newXfer (s : State) (dom : Nat) (use : XferUse) (urgent write : Bool) (iova len : Nat) (data : List Byte) :
    State :=
  let x : Xfer := { id := s.host.nextXfer, dom := dom, use := use, urgent := urgent, write := write, iova := iova,
                    len := len, issued := 0, data := data, inFlight := 0, walking := false, preempted := false,
                    faulted := false }
  { s with host := { s.host with xfers := s.host.xfers ++ [x], nextXfer := s.host.nextXfer + 1 } }

/-! ## Statuses (R495) and responses (R468) -/

def stOk : Nat := 0x00
def stBusy : Nat := 0x01
def stBadOpcode : Nat := 0x02
def stBadLength : Nat := 0x03
def stNotPermitted : Nat := 0x04
def stWrongMode : Nat := 0x05
def stNoRoute : Nat := 0x06
def stLate : Nat := 0x07
def stPoliced : Nat := 0x08
def stCalRejected : Nat := 0x09
def stNotLeaseHolder : Nat := 0x0A
def stXlateFault : Nat := 0x0B
def stRetired : Nat := 0x0C
def stProofFailed : Nat := 0x0D
def stTimeout : Nat := 0x0E
def stInternal : Nat := 0x0F

/-- A response payload from its fields (byte offset, value); fields do not overlap. -/
def payloadNat (l : List (Nat × Nat)) : Nat := l.foldl (fun a p => a + p.2 * 2 ^ (8 * p.1)) 0

/-- The 64 bytes of MB_RSP (R468). -/
def rspWord (c : CmdRef) (status flags done epoch time : Nat) (payload : List (Nat × Nat)) : BitVec 512 :=
  BitVec.ofNat 512 (pack [(16, c.opcode), (8, status), (8, flags), (32, c.token.toNat), (32, done), (32, epoch),
    (64, time), (320, payloadNat payload)])

/-- Presents a response in MB_RSP, or queues it behind the response that stands there (R470). -/
def State.present_rsp (s : State) (n : Nat) (r : BitVec 512) (notify : Bool) : State :=
  let f := s.fn n
  if f.rspValid then s.setFn n { f with waiting := f.waiting ++ [(r, notify)] }
  else
    let s' := s.setFn n { f with rsp := r, rspValid := true }
    if notify then s'.msix n 0 else s'

/-- Keeps a response for a management client, newest first, the last 256 (R363). (DESIGN CHOICE, log 25) -/
def State.keepAnswer (s : State) (client seq : Nat) (r : BitVec 512) : State :=
  let l := (rd s.pair.answered client []).filter (fun p => p.1 != seq)
  { s with pair := { s.pair with answered := wr s.pair.answered client (((seq, r) :: l).take 256) } }

/-- Answers a datagram on the port at which it arrived, and every copy that arrived meanwhile on its own port (R363). (DESIGN CHOICE, log 25) -/
def State.answerMgmt (s : State) (client seq : Nat) (port : Bool) (r : BitVec 512) : State :=
  let mine (x : Nat × Nat × Bool) : Bool := decide (x.1 = client) && decide (x.2.1 = seq)
  let s1 := (s.keepAnswer client seq r).emit (.mgmtTx port client seq 0 r)
  (s.pair.copies.filter mine).foldl (fun t x => t.emit (.mgmtTx x.2.2 client seq 0 r))
    { s1 with pair := { s1.pair with copies := s1.pair.copies.filter (fun x => !mine x) } }

/-- Answers a command at a stated time (R468, R470; R363 for a management port). A command that is not running any more has
no response: an FLR of its function (R486) or a hot restart (R453) has taken it out. Firmware sends no response during a
hot restart. -/
def State.answerAt (s : State) (time : Nat) (c : CmdRef) (status flags done : Nat) (payload : List (Nat × Nat)) :
    State :=
  if !s.sys.running.contains c || s.sys.restarting then s
  else
    let read := match s.sys.bufDone.find? (fun e => decide (e.1 = c)) with | some e => e.2 | none => 0
    let s1 : State := { s with sys := { s.sys with
      running := s.sys.running.erase c, bufDone := s.sys.bufDone.eraseP (fun e => decide (e.1 = c)) } }
    let r := rspWord c status flags (max done read) s.pair.epoch time payload
    match c.src with
    | .fn n => s1.present_rsp n.toNat r c.notify
    | .mgmt client seq port => s1.answerMgmt client.toNat seq.toNat port r

/-- Answers a command now. -/
def State.answer (s : State) (c : CmdRef) (status : Nat) (payload : List (Nat × Nat)) : State :=
  s.answerAt s.ns c status 0 0 payload

/-- Answers a command at the next tick. (DEDUCED, log 27) -/
def State.answerDue (s : State) (c : CmdRef) (status : Nat) (payload : List (Nat × Nat)) : State :=
  s.due (.answer c status 0 0 payload)

/-! ## The plate store (R190) -/

/-- The 4 KiB of a plate slot. -/
def State.plate (s : State) (p : Nat) : List Byte := Mem.bytes plateDefault s.burin.store (4096 * p) 4096

/-- n bytes of a plate slot from an offset on. -/
def State.plateBytes (s : State) (p o n : Nat) : List Byte := Mem.bytes plateDefault s.burin.store (4096 * p + o) n

/-! ## Flash (R441) -/

/-- PRESUMED, log 11. -/
def State.flashBytes (s : State) (a n : Nat) : List Byte := Mem.bytes flashDefault s.sys.flash a n

/-- Writes bytes to flash. (PRESUMED, log 11) -/
def State.flashWrite (s : State) (a : Nat) (l : List Byte) : State :=
  { s with sys := { s.sys with flash := Mem.store flashDefault s.sys.flash a l } }

/-- Queues a flash write behind the writes that are issued. -/
def State.flashJob (s : State) (j : FlashJob) : State :=
  { s with sys := { s.sys with flashJobs := s.sys.flashJobs ++ [j] } }

/-- A record copy of 16 header bytes and a body (R67): SEQUENCE, LENGTH, CHECK over the body, reserved. -/
def recordBytes (seq : Nat) (body : List Byte) : List Byte :=
  bytesLE 4 seq ++ bytesLE 4 body.length ++ bytesLE 4 (crc32 body) ++ bytesLE 4 0 ++ body

/-- A record copy is valid when LENGTH is as stated and CHECK matches (R68); its sequence number. (DESIGN CHOICE, log 56) -/
def State.recordSeq (s : State) (a len : Nat) : Option Nat :=
  if fieldB (s.flashBytes a 12) 4 4 = len ∧ crc32 (s.flashBytes (a + 16) len) = fieldB (s.flashBytes a 12) 8 4 then
    some (fieldB (s.flashBytes a 4) 0 4)
  else none

/-- The copy in force of a two-copy record (R68): copy 1 (true) only when it alone is valid or it is later. (DESIGN CHOICE, log 56) -/
def State.recordInForce (s : State) (a0 a1 len : Nat) : Option (Bool × Nat) :=
  match s.recordSeq a0 len, s.recordSeq a1 len with
  | some x, some y => if later y x then some (true, y) else some (false, x)
  | some x, none => some (false, x)
  | none, some y => some (true, y)
  | none, none => none

/-- Where the next write of a two-copy record goes and its sequence number: the older copy, the copy in force plus 1; the
first write goes to copy 0 with number 1 (R68). (DESIGN CHOICE, log 56) -/
def State.recordNext (s : State) (a0 a1 len : Nat) : Bool × Nat :=
  match s.recordInForce a0 a1 len with
  | some (c, q) => (!c, (q + 1) % 2 ^ 32)
  | none => (false, 1)

/-! ## Fault units (R365) -/

/-- The key of a unit: kind (as UNIT_KIND of R394) and index. -/
def unitKey (kind index : Nat) : Nat := kind * 16384 + index

def FUnit.init : FUnit := { dates := [], permanent := false, retired := none }

def State.funit (s : State) (kind index : Nat) : FUnit := rd s.faults.units (unitKey kind index) .init

def State.setFunit (s : State) (kind index : Nat) (u : FUnit) : State :=
  { s with faults := { s.faults with units := wr s.faults.units (unitKey kind index) u } }

/-- A unit is retired; the reason codes are those of R394. -/
def State.retired (s : State) (kind index : Nat) : Bool := (s.funit kind index).retired.isSome

/-! ## Idle units of the state tables -/

/-- A drive channel after power-on reset: code 0, isolated, tone off (R95, R161); step 1 and rate 1 until a descriptor
gives them (R89). -/
def DriveCh.init : DriveCh :=
  { next := none, follow := none, target := 0, position := 0, dac := 0, step := 1, rate := 1, range := 0, hold := none,
    m := 16, a := 0, phi := 0, forced := none, refresh := false, trackHold := none, bumpless := false, sticky := 0, unjudged := false,
    replaced := 0, toneClip := false, toneClipPrev := false, rbV := 0, rbI := 0, rbFrame := 0, transition := false,
    loadSeen := false, changed := none, rangeCmds := [],
    rangeWait := [] }

def State.dch (s : State) (i : Nat) : DriveCh := rd s.drive.ch i .init

def State.setDch (s : State) (i : Nat) (c : DriveCh) : State :=
  { s with drive := { s.drive with ch := wr s.drive.ch i c } }

def State.modDch (s : State) (i : Nat) (f : DriveCh → DriveCh) : State := s.setDch i (f (s.dch i))

def SenseCh.init : SenseCh :=
  { range := 0, changed := none, epoch := 0, ovrRun := 0, inStay := false, calFrame := none, last := 0x00080000 }

def State.sch (s : State) (i : Nat) : SenseCh := rd s.sense.ch i .init

def State.setSch (s : State) (i : Nat) (c : SenseCh) : State :=
  { s with sense := { s.sense with ch := wr s.sense.ch i c } }

def State.modSch (s : State) (i : Nat) (f : SenseCh → SenseCh) : State := s.setSch i (f (s.sch i))

/-- A request queue after power-on reset: disabled (R254). -/
def Queue.init : Queue := { word := 0, descs := [], fetching := 0, checked := false, late := false, due := none }

/-- The key of a queue. -/
def qKey (d i : Nat) : Nat := 512 * d + i

def State.queue (s : State) (d i : Nat) : Queue := rd s.sched.queues (qKey d i) .init

def State.setQueue (s : State) (d i : Nat) (q : Queue) : State :=
  { s with sched := { s.sched with queues := wr s.sched.queues (qKey d i) q } }

def Scope.init : Scope :=
  { count := 0, time := 0, temp := 0, flags := 0, running := none, pending := false, cmd := none, startTemp := 0,
    lastReason := 0, lastFail := 0xFFFF, rejected := false, notBefore := 0, style := 0, delay := 0 }

def State.scope (s : State) (n : Nat) : Scope := rd s.cal.scopes n .init

def State.setScope (s : State) (n : Nat) (x : Scope) : State :=
  { s with cal := { s.cal with scopes := wr s.cal.scopes n x } }

def PerfCtr.init : PerfCtr := { ctl := 0, threshold := 0, count := 0, ovf := false, hi := 0 }

/-! ## Counters (R559, R560) -/

/-- A counter takes n counts: 48 bits, OVF at the wrap. (DESIGN CHOICE, log 64) -/
def PerfCtr.add (c : PerfCtr) (n : Nat) : PerfCtr :=
  { c with count := (c.count + n) % 2 ^ 48, ovf := c.ovf || decide (2 ^ 48 ≤ c.count + n) }

/-- The counters that are enabled on an event, and whose THRESHOLD satisfies p, count. (DESIGN CHOICE, log 64) -/
def State.tallyIf (s : State) (ev : Nat) (p : Nat → Bool) (n : Nat) : State :=
  { s with host := { s.host with perf := s.host.perf.map (fun e =>
      if tb e.2.ctl 31 && decide (e.2.ctl % 65536 = ev) && p e.2.threshold then (e.1, e.2.add n) else e) } }

/-- An event without a threshold is counted. (DESIGN CHOICE, log 64) -/
def State.tally (s : State) (ev n : Nat) : State := s.tallyIf ev (fun _ => true) n

/-- A port of the lease island. -/
def State.refPort (s : State) (b : Bool) : RefPort := if b then s.pair.portB else s.pair.portA

def State.setRefPort (s : State) (b : Bool) (p : RefPort) : State :=
  if b then { s with pair := { s.pair with portB := p } } else { s with pair := { s.pair with portA := p } }

/-- A PTP port. -/
def State.ptp (s : State) (b : Bool) : PtpPort := if b then s.ft.port1 else s.ft.port0

def State.setPtp (s : State) (b : Bool) (p : PtpPort) : State :=
  if b then { s with ft := { s.ft with port1 := p } } else { s with ft := { s.ft with port0 := p } }

/-- Folds a state over a list. -/
def forAll {α : Type} (l : List α) (f : State → α → State) (s : State) : State := l.foldl f s

/-- The state when c holds, else the other. (DESIGN CHOICE, log 3) -/
def when (c : Bool) (f : State → State) (s : State) : State := if c then f s else s

end Sys2Proof.Machine
end

