-- ==== Sys2Proof/Machine/Fabric.lean ====
section
/-! DEFINITION. The fabric model (chapter 2): descriptor fields, geometry, wiring, index spaces, idle units, default
codes, images and traces. -/

namespace Sys2Proof.Machine

/-! ## Descriptor fields (R55 to R58) -/

/-- A little-endian field of the working descriptor; 0 while none is loaded (R58). -/
def State.dsc (s : State) (off n : Nat) : Nat := fieldB s.desc.bytes off n

/-- The 16-bit entry of a cell (R57). -/
def State.cellEntry (s : State) (c : Nat) : Nat := s.dsc (0x40 + 2 * c) 2

/-- The 32-bit entry of a port, in port table order (R58). -/
def State.portEntry (s : State) (p : Nat) : Nat := s.dsc (0x2440 + 4 * p) 4

def State.monArm (s : State) (c : Nat) : Bool := tb (s.cellEntry c) 0
def State.htrArm (s : State) (c : Nat) : Bool := tb (s.cellEntry c) 1
def State.eoSign (s : State) (c : Nat) : Bool := tb (s.cellEntry c) 2
def State.fabPinned (s : State) (c : Nat) : Bool := tb (s.cellEntry c) 3
def State.fabPinState (s : State) (c : Nat) : Bool := tb (s.cellEntry c) 4

/-! ## Geometry (R39, R56, R65) -/

/-- The geometry in force: N, n, stages S, last middle stage M, Beneš+1. -/
structure Geo where
  ports : Nat
  n : Nat
  stages : Nat
  mid : Nat
  plus : Bool
  deriving DecidableEq, Repr

/-- The geometry that a descriptor selects (R56); in Legacy, 512 ports count as 256 (R65). -/
def geoOf (bytes : List Byte) (legacy : Bool) : Geo :=
  let p := fieldB bytes 0x10 2
  let n0 := if p = 64 then 6 else if p = 128 then 7 else if p = 256 then 8 else 9
  let n := if legacy && decide (n0 = 9) then 8 else n0
  let plus := tb (fieldB bytes 0x12 1) 0
  { ports := 2 ^ n, n := n, stages := if plus then 2 * n else 2 * n - 1, mid := if plus then n else n - 1,
    plus := plus }

def State.geo (s : State) : Geo := geoOf s.desc.bytes s.legacyGeo

/-- GEOMETRY of R194. -/
def Geo.code (g : Geo) : Nat := (g.n - 6) + 4 * bit g.plus

/-- A cell index is present in a geometry (R40). -/
def Geo.cell (g : Geo) (c : Nat) : Bool := decide (c / 256 < g.stages ∧ c % 256 < g.ports / 2)

/-- The present cell indices, rising. -/
def Geo.cells (g : Geo) : List Nat :=
  (List.range g.stages).flatMap (fun st => (List.range (g.ports / 2)).map (fun k => 256 * st + k))

/-- A cell state map with the bits of idle cells 0 (R43). -/
def Geo.mapOf (g : Geo) (cells : Nat) : Nat := g.cells.foldl (fun a c => if tb cells c then a + 2 ^ c else a) 0

def State.cellPresent (s : State) (c : Nat) : Bool := s.desc.loaded && decide (c < 4608) && s.geo.cell c

/-- A port (port table order) is present: inside the size and fitted (R47). -/
def portIn (bytes : List Byte) (g : Geo) (p : Nat) : Bool :=
  decide (p < 1024 ∧ p % 512 < g.ports) && !tb (fieldB bytes (0x2440 + 4 * p) 4) 4

def State.portPresent (s : State) (p : Nat) : Bool := s.desc.loaded && portIn s.desc.bytes s.geo p

/-! ## Index spaces (R48) -/

/-- The cell of an EO or heater drive index, or the port (port table order) of a VOA. -/
inductive DKind where
  | eo (cell : Nat)
  | heater (cell : Nat)
  | voa (port : Nat)
  deriving DecidableEq, Repr

def dkind (i : Nat) : DKind :=
  if i < 4608 then .eo i else if i < 9216 then .heater (i - 4608) else .voa (i - 9216)

/-- KIND of R148. -/
def kindCode (i : Nat) : Nat := match dkind i with | .eo _ => 0 | .heater _ => 1 | .voa _ => 2

/-- A drive channel is present (R49). -/
def State.drivePresent (s : State) (i : Nat) : Bool :=
  match dkind i with
  | .eo c => s.cellPresent c
  | .heater c => s.cellPresent c
  | .voa p => s.portPresent p

/-- A sense channel is present (R49). -/
def State.sensePresent (s : State) (x : Nat) : Bool :=
  if x < 4608 then s.cellPresent x else s.portPresent (x - 4608)

/-- The sense channel of a thermal drive channel (R141): the monitor of its cell, the tap of its port. -/
def senseOf (i : Nat) : Nat := i - 4608

/-- The present drive channels, rising. -/
def State.drives (s : State) : List Nat :=
  if s.desc.loaded then (List.range 10240).filter s.drivePresent else []

/-- The present sense channels, rising. -/
def State.senses (s : State) : List Nat :=
  if s.desc.loaded then (List.range 5632).filter s.sensePresent else []

/-! ## Ceilings, smoothing, block codes (R54, R59, R60) -/

/-- The ceiling of a drive channel (R59); the full scale while no descriptor is in force. -/
def State.ceiling (s : State) (i : Nat) : Nat :=
  if !s.desc.loaded then (if i < 4608 then 16383 else 65535)
  else match dkind i with
    | .eo _ => s.dsc 0x1A 2 % 16384
    | .heater _ => s.dsc 0x1C 2
    | .voa _ => s.dsc 0x1E 2

/-- Thermal channels use the slew limiter (R60). -/
def slewing (bytes : List Byte) (g : Geo) : Bool :=
  if g.ports = 512 then true else if g.ports = 256 then tb (fieldB bytes 0x13 1) 0 else false

/-- Smoothing follows the selected size: in Legacy, of the 256-port geometry (R60, R65). -/
def State.slew (s : State) : Bool := s.desc.loaded && slewing s.desc.bytes s.geo

/-- The block code of a port (R54). -/
def State.blockCode (s : State) (p : Nat) : Nat :=
  if tb (s.portEntry p) 5 then s.portEntry p / 65536 else s.dsc 0x20 2

/-- The range field of a thermal channel from the descriptor (R57, R58, R75): 2 or 3 of a default mean 32 mA. -/
def State.rangeDefault (s : State) (i : Nat) : Nat :=
  match dkind i with
  | .voa _ => min 2 (s.dsc 0x23 1 % 4)
  | _ => min 2 (s.dsc 0x22 1 % 4)

def State.descRange (s : State) (i : Nat) : Nat :=
  let r := match dkind i with
    | .eo _ => 0
    | .heater c => fld (s.cellEntry c) 6 2
    | .voa p => fld (s.portEntry p) 0 2
  if i < 4608 then 0 else if r = 3 then s.rangeDefault i else r

/-- The initial TIA range of a sense channel (R57, R58). -/
def State.descTia (s : State) (x : Nat) : Nat :=
  if x < 4608 then fld (s.cellEntry x) 8 2 else fld (s.portEntry (x - 4608)) 2 2

/-- FS of a thermal range in units of 2 mA (R75): 10, 20 and 32 mA. -/
def fullScale (r : Nat) : Nat := if r = 0 then 5 else if r = 1 then 10 else 16

/-! ## Pins (R61, R372) -/

/-- The pin state of a cell: the descriptor's pin, else a pin by retirement. -/
def State.pin (s : State) (c : Nat) : Option Bool :=
  if s.desc.loaded && s.fabPinned c then some (s.fabPinState c) else find? s.faults.pins c

/-! ## Codes (R51) -/

/-- The fabric record entry of a cell is in force (R425 VALID). -/
def State.calCell (s : State) (c : Nat) : Option Nat :=
  match find? s.cal.cells c with
  | some v => if tb v.toNat 63 then some v.toNat else none
  | none => none

/-- The fabric record entry of a VOA is in force (R425 VALID). -/
def State.calVoa (s : State) (p : Nat) : Option Nat :=
  match find? s.cal.voas p with
  | some v => if tb v.toNat 49 then some v.toNat else none
  | none => none

/-- The bar code of R51. -/
def State.barCode (s : State) (c : Nat) : Nat :=
  match s.calCell c with
  | some v => fld v 0 14
  | none => (if s.eoSign c then s.dsc 0x16 2 else s.dsc 0x14 2) % 16384

/-- The cross code of R51. -/
def State.crossCode (s : State) (c : Nat) : Nat :=
  match s.calCell c with
  | some v => fld v 16 14
  | none => (if s.eoSign c then s.dsc 0x14 2 else s.dsc 0x16 2) % 16384

/-- The initial heater code of R51. -/
def State.heaterCode (s : State) (c : Nat) : Nat :=
  match s.calCell c with
  | some v => fld v 32 16
  | none => s.dsc 0x18 2

def State.codeOf (s : State) (c : Nat) (cross : Bool) : Nat := if cross then s.crossCode c else s.barCode c

/-! ## Plates as images (R193 to R198) -/

/-- The image of the bytes of PERM, CELLS and VOA_TARGET, 3,264 bytes from offset 0x040 of a slot (R229). -/
def imgOfBytes (l : List Byte) : PlateImg :=
  let perm := fieldB l 0 640
  { perm := (List.range 512).map (fun i => fld perm (10 * i) 10),
    cells := fieldB l 640 576,
    targets := (List.range 1024).map (fun k => fieldB l (1216 + 2 * k) 2) }

/-- PERM, CELLS and VOA_TARGET as the 3,264 bytes of a slot. -/
def bytesOfImg (p : PlateImg) : List Byte :=
  bytesLE 640 (pack (p.perm.map (fun e => (10, e)))) ++ bytesLE 576 p.cells ++
    p.targets.flatMap (fun t => bytesLE 2 t)

/-- PERM entry of an ingress: an egress below 512, or none (R195). -/
def PlateImg.egress (p : PlateImg) (i : Nat) : Option Nat :=
  match p.perm[i]? with
  | some e => if e < 512 then some e else none
  | none => none

def PlateImg.cell (p : PlateImg) (c : Nat) : Bool := tb p.cells c

/-- The target of a port (R196). -/
def PlateImg.target (p : PlateImg) (q : Nat) : Nat := (p.targets[q]?).getD 0x7FFF

/-- No circuits, the given cells, one target for every port (R202, R431). -/
def imgOf (cells target : Nat) : PlateImg :=
  { perm := List.replicate 512 0x3FF, cells := cells, targets := List.replicate 1024 target }

/-- The image with the pins of the present cells applied (R232), and whether a pin overrode a bit. The bits of idle cells are
ignored (R43). -/
def State.applyPins (s : State) (cells : Nat) : Nat × Bool :=
  s.geo.cells.foldl (fun (a : Nat × Bool) c =>
    match s.pin c with
    | some st => if tb a.1 c = st then a else (setFld a.1 c 1 (bit st), true)
    | none => a) (s.geo.mapOf cells, false)

/-- The rest image map with each pinned cell in its pin state (R52). -/
def State.restCells (s : State) : Nat := (s.applyPins (fieldB s.desc.bytes 0x3440 576)).1

/-- The rest image code of a VOA (R55). -/
def State.restVoa (s : State) (p : Nat) : Nat := s.dsc (0x3680 + 2 * p) 2

/-- The block image map (R54), idle cells 0 (R43). -/
def State.blockCells (s : State) : Nat := s.geo.mapOf (fieldB s.desc.bytes 0x3E80 576)

/-! ## Wiring and traces (R41 to R44, R213) -/

def rotr (x w : Nat) : Nat :=
  let low := x % 2 ^ w
  x - low + low / 2 + low % 2 * 2 ^ (w - 1)

def rotl (x w : Nat) : Nat :=
  let low := x % 2 ^ w
  x - low + 2 * low % 2 ^ w + low / 2 ^ (w - 1)

/-- The input line of stage st + 1 to which output line x of stage st connects (R44). -/
def Geo.next (g : Geo) (st x : Nat) : Nat :=
  if st + 2 ≤ g.n then rotr x (g.n - st)
  else if g.plus && decide (st = g.n - 1) then x
  else rotl x (st - g.mid + 2)

/-- The cells visited from input line x of stage st on, over the given number of stages, and the line on which the last
stage is left (R213). -/
def Geo.walk (g : Geo) (cells : Nat) : Nat → Nat → Nat → List Nat × Nat
  | 0, _, x => ([], x)
  | k + 1, st, x =>
    let c := 256 * st + x / 2
    let y := if tb cells c then 2 * (x / 2) + (1 - x % 2) else x
    let r := if k = 0 then ([], y) else g.walk cells k (st + 1) (g.next st y)
    (c :: r.1, r.2)

/-- The trace of an ingress through a map (R213). -/
def Geo.trace (g : Geo) (cells i : Nat) : List Nat × Nat := g.walk cells g.stages 0 i

/-- The circuits of an image whose ingress is present: (ingress, egress). -/
def Geo.circuits (g : Geo) (p : PlateImg) : List (Nat × Nat) :=
  (List.range g.ports).filterMap (fun i => (p.egress i).map (fun e => (i, e)))

end Sys2Proof.Machine
end

