-- ==== Sys2Proof/Machine/Channel.lean ====
section
/-! DEFINITION. The channel state RAM (R148 to R151): fields of a channel state, the state of a present and of an idle channel, and
the code that was last written to a queue. -/

namespace Sys2Proof.Machine

/-! ## Channel state fields (R148 to R151) -/

/-- A field of a channel state: byte offset and size. -/
def cg (w : BitVec 512) (off size : Nat) : Nat := fld w.toNat (8 * off) (8 * size)

/-- A signed field. -/
def cgs (w : BitVec 512) (off size : Nat) : Int := signed (8 * size) (cg w off size)

/-- Sets a field. -/
def cp (w : BitVec 512) (off size v : Nat) : BitVec 512 := BitVec.ofNat 512 (setFld w.toNat (8 * off) (8 * size) v)

/-- Sets a signed field. A number outside the field's format has no stated result: what the field then holds is free.
(DESIGN CHOICE, log 65) -/
def cps (w : BitVec 512) (off size : Nat) (v : Int) : BitVec 512 :=
  if -(2 ^ (8 * size - 1) : Int) ≤ v ∧ v < (2 ^ (8 * size - 1) : Int) then cp w off size (unsigned (8 * size) v)
  else cp w off size (Config.outOfFormat (8 * size) v)

/-- Sets an unsigned field (YDC_BAR and YDC_CROSS are Q24.8); a number outside its format as for `cps`. (DESIGN CHOICE, log 65) -/
def cpu (w : BitVec 512) (off size : Nat) (v : Int) : BitVec 512 :=
  if 0 ≤ v ∧ v < (2 ^ (8 * size) : Int) then cp w off size v.toNat else cp w off size (Config.outOfFormat (8 * size) v)

/-- Bits lo to lo + n − 1 of the byte at an offset. -/
def cgb (w : BitVec 512) (off lo n : Nat) : Nat := fld w.toNat (8 * off + lo) n

def cpb (w : BitVec 512) (off lo n v : Nat) : BitVec 512 := BitVec.ofNat 512 (setFld w.toNat (8 * off + lo) n v)

/-- A bit of STATUS. -/
def stBit (w : BitVec 512) (b : Nat) : Bool := tb w.toNat (16 + b)

def setSt (w : BitVec 512) (b : Nat) (v : Bool) : BitVec 512 := cpb w 2 b 1 (bit v)

/-- A word from (offset, size, value) fields. -/
def csOf (l : List (Nat × Nat × Nat)) : BitVec 512 := l.foldl (fun w f => cp w f.1 f.2.1 f.2.2) 0

/-- Default SENSOR (R148). -/
def defaultSensor (i : Nat) : Nat := (i - 4608) * 32 / 5632

/-- The channel state of a present channel before anything is configured (R148 to R151; codes of R51). (DEDUCED, log 31) -/
def State.csInit (s : State) (i : Nat) : BitVec 512 :=
  match dkind i with
  | .eo c =>
    csOf [(0, 2, 12), (0x10, 2, s.barCode c), (0x12, 2, s.crossCode c), (0x14, 2, s.barCode c), (0x16, 2, s.crossCode c),
      (0x30, 2, match s.calCell c with | some v => fld v 64 16 | none => 1024), (0x32, 2, 8), (0x34, 2, 16),
      (0x36, 2, 1024), (0x38, 2, 64), (0x3C, 2, 782), (0x3E, 2, 229)]
  | .heater c =>
    csOf [(0, 2, 13), (0x0D, 1, defaultSensor i), (0x10, 2, s.heaterCode c),
      (0x16, 2, match s.calCell c with | some v => fld v 48 10 | none => 0), (0x30, 2, 82), (0x32, 2, 655),
      (0x34, 1, 8 + 16 * 5), (0x38, 2, 16), (0x3A, 2, 320), (0x3C, 2, 168), (0x3E, 2, 4096)]
  | .voa p =>
    let v := (s.calVoa p).getD (0x0A00 * 2 ^ 16)
    csOf [(0, 2, 14), (0x0D, 1, defaultSensor i), (0x10, 2, fld v 0 16), (0x16, 2, 0x7FFF), (0x18, 2, fld v 32 16),
      (0x1A, 2, fld v 16 16), (0x26, 1, fld v 48 1), (0x1C, 2, 412), (0x1E, 2, 256),
      (0x20, 2, 320), (0x24, 2, 10)]

/-- The channel state of an idle channel (R63, R148). -/
def csIdle : BitVec 512 := 3

/-- The reserved bits of a channel state, which read as 0 (R6, R148 to R151). -/
def csReserved (i : Nat) : BitVec 512 :=
  let common := csOf [(0, 2, 0xFFF0), (2, 2, 0xF000), (0x0D, 1, 0xE0), (0x0F, 1, 0xC0)]
  match dkind i with
  | .eo _ => common ||| csOf [(0x10, 2, 0xC000), (0x12, 2, 0xC000)]
  | .heater _ => common ||| csOf [(0x16, 2, 0xFC00)]
  | .voa _ => common ||| csOf [(0x26, 1, 0x80), (0x27, 25, 2 ^ 200 - 1)]

/-- The channel state RAM word of a drive channel. An idle channel shows the state of R148's KIND 3, also where a descriptor of 512
ports counts as 256 in Legacy (R65); what it held stands for the end of Legacy (R63). -/
def State.cs (s : State) (i : Nat) : BitVec 512 :=
  if s.drivePresent i then (find? s.loops.cs i).getD (s.csInit i) else csIdle

/-- Writes the channel state of a present channel. -/
def State.setCs (s : State) (i : Nat) (w : BitVec 512) : State :=
  { s with loops := { s.loops with cs := if s.drivePresent i then wr s.loops.cs i w else s.loops.cs } }

/-- OUT_CODE (R148): the code last written to the channel's queue, before the ceiling. -/
def State.outCode (s : State) (i code : Nat) : State := s.setCs i (cp (s.cs i) 6 2 code)

end Sys2Proof.Machine
end

