-- ==== Sys2Proof/Machine/Events.lean ====
section
/-! DEFINITION. Raising an event (R390 to R394, R472 to R475, R593): the fault log record, the functions in the source's
scope, EV_STATUS, event rings and the vector 1 message. -/

namespace Sys2Proof.Machine

/-- The scopes of R390, with what they range over. -/
inductive EvScope where
  | m
  | a
  | d (dom : Nat)
  | p (port : Nat)
  | c (cells : List Nat) (ports : List Nat)
  deriving DecidableEq, Repr

/-- The scopes of units (R390 scope C): the cell or the port of a drive or sense channel. -/
def unitScope (kind index : Nat) : EvScope :=
  if kind = 1 then
    match dkind index with
    | .eo c => .c [c] []
    | .heater c => .c [c] []
    | .voa p => .c [] [p]
  else if kind = 2 then (if index < 4608 then .c [index] [] else .c [] [index - 4608])
  else if kind = 3 then .c [index] []
  else .m

/-- The domains that have a circuit in the applied plate whose ingress lies in their mask and whose trace passes one of
the cells, or whose ingress or egress is one of the ports (R390). -/
def State.circuitDomains (s : State) (cells ports : List Nat) : List Nat :=
  match s.imp.applied with
  | none => []
  | some img =>
    let g := s.geo
    let hit := (g.circuits img).filter (fun c =>
      ((g.trace img.cells c.1).1.any cells.contains) || ports.contains c.1 || ports.contains (512 + c.2))
    (List.range 128).filter (fun d => s.present d && hit.any (fun c => s.inMask d c.1))

/-- The functions in a scope (R390); a function counts as enabled when it is present (R463). -/
def State.scopeFns (s : State) : EvScope → List Nat
  | .m => [0]
  | .a => (List.range 128).filter s.present
  | .d n => if n = 0 then [0] else if s.present n then [0, n] else [0]
  | .p q => (List.range 128).filter (fun d => decide (d = 0) || (s.present d && s.inMask d (q % 512)))
  | .c cells ports => (0 :: s.circuitDomains cells ports).dedup

/-- A source is gated (R391, R392). -/
def evGated (n : Nat) : Bool :=
  [20, 21, 22, 27, 28, 29, 35, 36, 37, 38, 39, 40, 44, 45, 46, 47, 48, 49].contains n ||
    (decide (72 ≤ n) && decide (n ≤ 239))

/-- What an event carries beside its source (R394): unit kind, unit, FLAGS, COUNT, REASON, DATA, frame. -/
structure Ev where
  kind : Nat := 0
  unit : Nat := 0
  flags : Nat := 0
  count : Nat := 0
  reason : Nat := 0
  data : Nat := 0
  /-- The frame of the failure, where it is not the frame in force. -/
  date : Option Nat := none
  deriving DecidableEq, Repr

/-- The fabric time of the tick of a frame (R17): the tick comes as fabric time reaches 2,000 ns times the frame number. -/
def State.timeOfFrame (s : State) (f : Nat) : Nat := if f = s.clk.frame then s.clk.tickTime else 2000 * f

/-- The 32 bytes of a fault log record (R394): FRAME and TIME are those of the failure. (DEDUCED, log 61) -/
def State.logRecord (s : State) (n : Nat) (e : Ev) (delivered : Bool) : BitVec 256 :=
  let fl := e.flags % 64 + 64 * bit s.pair.held + 128 * bit delivered
  let frame := e.date.getD s.clk.frame
  BitVec.ofNat 256 (pack [(32, s.faults.logNext), (32, frame), (64, s.timeOfFrame frame), (16, n), (8, e.kind),
    (8, fl), (16, e.unit), (8, e.count), (8, e.reason), (64, e.data)])

/-- Appends a record to the fault log (R393). (DEDUCED, log 61) -/
def State.appendLog (s : State) (r : BitVec 256) : State :=
  { s with faults := { s.faults with log := ((r, false) :: s.faults.log).take 4096,
                                     logNext := (s.faults.logNext + 1) % 2 ^ 32 } }

/-- Delivers a record to one function: EV_STATUS, the ring record, and the message of the frame (R473 to R475). (DEDUCED, log 60; DEDUCED, log 61) -/
def State.deliver (s : State) (src : Nat) (r : BitVec 256) (n : Nat) : State :=
  let f := s.fn n
  if !tb f.evEnable.toNat src then s
  else
    let f1 := { f with evStatus := f.evStatus ||| BitVec.ofNat 320 (2 ^ src), evMsg := true }
    if f.ringK = 0 then s.setFn n f1
    else
      let size := 2 ^ f.ringK
      let waiting := (s.host.xfers.filter (fun x => decide (x.use = .event n))).length
      if (f.ringTail + waiting + 1) % size = f.ringHead % size then s.setFn n { f1 with ringLost := true }
      else
        (s.setFn n f1).newXfer n (.event n) false true (f.ringBase + 32 * ((f.ringTail + waiting) % size)) 32
          (bytesLE 32 r.toNat)

/-- Logs an event and delivers it, or keeps it for the end of a hot restart (R390, R452). -/
def State.raiseTo (s : State) (n : Nat) (e : Ev) (fns : List Nat) : State :=
  let open_ := !evGated n || s.pair.held
  let dest := if open_ then fns.filter (fun f => tb (s.fn f).evEnable.toNat n) else []
  let r := s.logRecord n e (!dest.isEmpty)
  let s1 := s.appendLog r
  if s.sys.restarting then
    { s1 with faults := { s1.faults with late := s1.faults.late ++ [(r, dest)] } }
  else dest.foldl (fun t f => t.deliver n r f) s1

/-- The next record overwrites one that no FAULT_LOG_READ has returned, and FAULT_LOG_WRAP has not been raised since the
last read (R393). (DEDUCED, log 61) -/
def State.wraps (s : State) : Bool :=
  !s.faults.wrapRaised &&
    match s.faults.log[4095]? with
    | some r => !r.2
    | none => false

/-- Raises FAULT_LOG_WRAP when it is due. -/
def State.wrapped (s : State) (due : Bool) : State :=
  if due then
    let s2 := s.raiseTo 18 {} [0]
    { s2 with faults := { s2.faults with wrapRaised := true } }
  else s

/-- Raises an event. HEALTH_REPORT writes no log record (R393). (DEDUCED, log 61) -/
def State.raise (s : State) (n : Nat) (sc : EvScope) (e : Ev := {}) : State :=
  if n = 12 then
    let dest := (s.scopeFns sc).filter (fun f => tb (s.fn f).evEnable.toNat n)
    dest.foldl (fun t f => t.deliver n (s.logRecord n e true) f) s
  else
    (s.raiseTo n e (s.scopeFns sc)).wrapped s.wraps

/-- Raises an event of a unit in the scope of the unit; SRAM_ECC_UNCORR is the module's own (R391). (DEDUCED, log 61) -/
def State.raiseUnit (s : State) (n kind index : Nat) (e : Ev := {}) : State :=
  s.raise n (if n = 9 then .m else unitScope kind index) { e with kind := kind, unit := index }

/-- MODE_CHANGED with its data (R593). -/
def State.raiseMode (s : State) (old new : Mode) : State :=
  s.raise 3 .a { data := old.num + 256 * new.num }

/-- Enters a mode and raises MODE_CHANGED (R391). -/
def State.enterMode (s : State) (m : Mode) : State :=
  if s.sys.mode = m then s
  else ({ s with sys := { s.sys with mode := m } } : State).raiseMode s.sys.mode m

/-- A read of a register or window returns a value. -/
def State.returns (s : State) (v : Nat) : State := s.emit (.regRead v)

end Sys2Proof.Machine
end

