-- ==== Sys2Proof/Machine/Clock.lean ====
section
/-! DEFINITION. The loop clock, fabric time and the frame grid (R13, R17 to R23, R297, R298, R307). -/

namespace Sys2Proof.Machine

/-- INC_NOM (R298). -/
def incNom : Nat := 0x555555555555

/-- INC of a rate q in units of 2⁻¹⁰ ppb (R298). -/
def incOf (q : Int) : Nat := ((incNom : Int) + roundDiv ((incNom : Int) * q) (1024 * 1000000000)).toNat

/-- The sequencer runs: RST_N high, core supplied, LPLL locked (R14, R21). (DEDUCED, log 63) -/
def State.runs (s : State) : Bool := s.clk.rstN && s.clk.coreUp && s.clk.lpll

/-- What INC adds per cycle beyond the INC that FREQ alone would give (R307), in 2⁻⁴⁸ ns. -/
def State.slewInc (s : State) : Int := (s.ft.inc : Int) - (incOf s.ft.freq : Int)

/-- The counter events that count loop cycles (R560). (DESIGN CHOICE, log 1; DESIGN CHOICE, log 64) -/
def State.tallyCycles (s : State) (n : Nat) : State :=
  let ready := (s.imp.armed.filter (fun a => a.snap.isSome || a.read.isSome)).length + bit s.imp.retry.isSome
  let s1 := ((s.tally 1 n).tallyIf 0x10 (fun k => decide (k < ready)) n).tallyIf 0x201 (fun k => decide (k < s.burin.queue.length)) n
  let s2 := if s.burin.running.isSome then s1.tally 0x200 n else s1
  (List.range 7).foldl (fun t r => if s.host.portWaits.any (fun w => decide (w.requester = r)) then t.tally (0x300 + r) n else t) s2

/-- n loop cycles pass: fabric time, the remaining correction, which HOLDOVER has cleared and leaves at 0 (R318), the position in the
frame, PC_CYCLE. (DESIGN CHOICE, log 1; DEDUCED, log 43) -/
def State.advance (s0 : State) (n : Nat) : State :=
  let s := s0.tallyCycles n
  { s with
    ft := { s.ft with t := (s.ft.t + n * s.ft.inc) % 2 ^ 112, rem := if s.ft.state = .holdover then s.ft.rem else s.ft.rem - (n : Int) * s.slewInc },
    clk := { s.clk with cycle := s.clk.cycle + n, cycles := s.clk.cycles + n, pcCycle := s.clk.pcCycle + BitVec.ofNat 64 n } }

/-- The loop cycles from now to the first cycle at which fabric time has reached a time in ns. -/
def State.cyclesTo (s : State) (ns : Nat) : Nat := ceilDiv (ns * 2 ^ 48 - s.ft.t) s.ft.inc

/-- The loop cycles from now to the next tick: the first cycle of frame k + 1, at least 5,990 cycles after the last tick
(R17, R19); after a step, the first boundary of the stepped time from there on (R20). (DESIGN CHOICE, log 23) -/
def State.toTick (s : State) : Nat :=
  let floor := 5990 - s.clk.cycle
  if s.clk.stepped then
    let t := s.ft.t + (floor - 1) * s.ft.inc
    (s.cyclesTo ((t / 2 ^ 48 / 2000 + 1) * 2000)).max floor
  else (s.cyclesTo ((s.clk.frame + 1) * 2000)).max floor

/-- T: the length of the frame in progress, as the sequencer predicts it (R22). -/
def State.frameLen (s : State) : Nat := s.clk.cycle + s.toTick

/-- The step on an empty queue: one loop cycle passes. The clock waits at the last cycle of a frame for FRAME_TICK. (DESIGN CHOICE, log 1) -/
def State.idle (s : State) : State :=
  if s.runs && decide (2 ≤ s.toTick) then s.advance 1 else s

/-- The clock is carried to a position of the frame; a position that has passed leaves it (R22). (DESIGN CHOICE, log 23) -/
def State.atCycle (s : State) (c : Nat) : State :=
  if s.clk.cycle < c then s.advance (c - s.clk.cycle) else s

/-- The clock is carried to the tick: position 0 of the next frame (R17, R18). (DESIGN CHOICE, log 23) -/
def State.toNextFrame (s : State) : State :=
  let len := s.frameLen
  let t := ((s.advance s.toTick).tally 2 1).tallyIf 3 (fun n => decide (len < n)) 1
  { t with clk := { t.clk with frame := t.ns / 2000, cycle := 0, ticks := t.clk.ticks + 1, lastLen := len, tickTime := t.ns, committed := false,
                               stepped := false, refilled := false, reported := false } }

/-- SLEW of a remaining correction in 2⁻⁴⁸ ns (R307): round(d × 7,812.5) for d in 2⁻¹⁶ ns. -/
def slewOf (rem : Int) (slewMax : Nat) : Int :=
  clampInt (-(1024 * slewMax : Nat)) (1024 * slewMax : Nat) (roundDiv (rem * 15625) (2 ^ 33))

/-- SLEW and INC take their values at a tick (R298, R307). -/
def State.setRate (s : State) : State :=
  let slew := slewOf s.ft.rem s.ft.slewMax
  { s with ft := { s.ft with slew := slew, inc := incOf (s.ft.freq + slew) } }

end Sys2Proof.Machine
end

