-- ==== Sys2Proof/Machine/Faults.lean ====
section
/-! DEFINITION. Failure counting, the fault queue and swap requests (chapter 11; R346). -/

namespace Sys2Proof.Machine

/-! ## Planned swaps asked for by the module (R346, R380) -/

/-- The module is one of a pair: ENABLE is set, or it keeps a lease that it held when ENABLE was cleared (R531); a solo module is not. -/
def State.paired (s : State) : Bool := (s.pair.enable || s.pair.held) && !s.pair.solo

/-- The partner reports READY and ARMED (R346): its last STANDBY_STATUS says so and is at most 2 ticks old. (DEDUCED, log 51) -/
def State.partnerReady (s : State) : Bool :=
  match s.mirror.status with
  | some m => m.ready && m.armed && decide (s.clk.ticks ≤ s.mirror.statusTick + 2)
  | none => false

/-- The holder takes up a request for a planned swap (R346); `standby` marks a SET_MODE to Standby (R432). (DEDUCED, log 51) -/
def State.startSwap (s : State) (c : Option CmdRef) (standby : Bool) : State :=
  if s.pair.swap.isSome then
    match c with
    | some c => s.answer c stBusy []
    | none => s
  else if s.partnerReady then { s with pair := { s.pair with swap := some (s.clk.frame, c, standby), swapDeferred := false } }
  else
    match c with
    | some c => s.answer c stNotPermitted []
    | none => ({ s with pair := { s.pair with swapDeferred := true } } : State).raise 66 .m

/-- A lease holder's own request (R380): SWAP_REQUESTED is raised once while it stands. (DEDUCED, log 51) -/
def State.requestSwap (s : State) : State :=
  if s.paired && s.pair.held && !s.pair.swapRequested then
    (({ s with pair := { s.pair with swapRequested := true } } : State).raise 71 .m).startSwap none false
  else s

/-! ## The fault queue (R381 to R383) -/

/-- HEALTHY is cleared; HEALTH_DEGRADED is raised when it was set (R388). -/
def State.unhealthy (s : State) : State :=
  if s.faults.healthy then ({ s with faults := { s.faults with healthy := false } } : State).raise 13 .m else s

/-- What a fault queue overflow does (R383): a paired holder asks for a swap, a solo holder is due to enter Hold, a
module without a lease clears HEALTHY. -/
def State.overflowAct (s : State) : State :=
  if s.pair.held then
    if s.paired then s.requestSwap
    else if [Mode.active, .dark, .characterize, .service, .legacy].contains s.sys.mode then s.due .overflowHold
    else s
  else s.unhealthy

/-- Posts an entry, or meets a full queue (R383). -/
def State.postEntry (s : State) (e : FEntry) : State :=
  if s.faults.queue.length < 64 then
    let q := s.faults.queue ++ [e]
    { s with faults := { s.faults with queue := q, queueMax := max s.faults.queueMax q.length } }
  else
    let s1 : State := { s with faults := { s.faults with missed := wr s.faults.missed (unitKey e.kind e.index) e.reason } }
    if s1.faults.overflow then s1
    else
      (({ s1 with faults := { s1.faults with overflow := true, overflowPeriod := true } } : State).raise 16 .m).overflowAct

/-- The failures of a unit that lie within the 500 frames that end with a date. (DEDUCED, log 36) -/
def recent (dates : List (Nat × Bool)) (f : Nat) : List (Nat × Bool) := dates.filter (fun d => decide (f < d.1 + 500))

/-- A failure dated f makes the unit permanent: its two earlier counted failures lie less than 500 frames back (R366),
and not all three come from rule 4 of R248 (R368). (DEDUCED, log 36) -/
def makesPermanent (dates : List (Nat × Bool)) (f : Nat) (rule4 : Bool) : Bool :=
  match dates with
  | d2 :: d1 :: _ => decide (f < d1.1 + 500) && !(rule4 && d2.2 && d1.2)
  | _ => false

/-- Updates the fault queue for a counted failure (R381, R382). (DEDUCED, log 36) -/
def State.queueFailure (s : State) (kind index reason date count : Nat) (fresh permanent : Bool) : State :=
  match s.faults.queue.find? (fun e => decide (e.kind = kind ∧ e.index = index)) with
  | some e =>
    let esc := permanent && !e.permanent
    let e' : FEntry := { e with count := count, permanent := e.permanent || permanent, escalated := e.escalated || esc,
                                reason := if esc then reason else e.reason }
    let s1 : State := { s with faults := { s.faults with
      queue := s.faults.queue.map (fun x => if x.kind = kind ∧ x.index = index then e' else x) } }
    if esc && !e.escalated then
      s1.raise 17 .m { kind := kind, unit := index, flags := 2 + 16, count := count, reason := reason, date := some date }
    else s1
  | none =>
    if fresh || permanent then
      s.postEntry { kind := kind, index := index, reason := reason, frame := date, count := count,
                    permanent := permanent, escalated := false }
    else s

/-- A failure of a unit (R366 to R368): dated, counted unless withdrawn, the events given raised with its flags and
count, and the fault queue updated. The Burin engine's third failure raises INTERNAL_ERROR and asks for a swap (R374). (DEDUCED, log 36) -/
def State.fail (s : State) (kind index reason date : Nat) (events : List Nat) (counted rule4 : Bool) : State :=
  let u := s.funit kind index
  let perm := counted && !u.permanent && makesPermanent u.dates date rule4
  let fresh := (recent u.dates date).isEmpty
  let all := (date, rule4) :: u.dates
  let dates := if counted then (all.take 2) ++ recent (all.drop 2) date else u.dates
  let count := min 255 (recent dates date).length
  let flags := (if counted then (if perm || u.permanent then 2 else 1) else 32) + 4 * bit u.retired.isSome
  let s1 := s.setFunit kind index { u with dates := dates, permanent := u.permanent || perm }
  let s2 : State := { s1 with faults := { s1.faults with
    transient := s1.faults.transient + bit (!perm), permanents := s1.faults.permanents + bit perm } }
  let s3 := events.foldl (fun t n => t.raiseUnit n kind index { flags := flags, count := count, reason := reason, date := some date }) s2
  let s4 := if counted then s3.queueFailure kind index reason date count (fresh && !u.permanent) perm else s3
  if perm && decide (kind = 6) then (s4.raise 7 .m).requestSwap else s4

/-- The count that a unit has is withdrawn (R368): its dates are cleared, and it is not made permanent by them. (DEDUCED, log 36) -/
def State.withdraw (s : State) (kind index : Nat) : State :=
  let u := s.funit kind index
  if u.dates.isEmpty || u.retired.isSome then s
  else
    let s1 := s.setFunit kind index { u with dates := [], permanent := false }
    { s1 with faults := { s1.faults with
      queue := s1.faults.queue.map (fun e =>
        if e.kind = kind ∧ e.index = index then { e with permanent := false, count := 0 } else e) } }

/-- The fault queue's overflow ends when fewer than 16 entries remain: the units whose entries were not queued post them
again, in order of kind and index (R383). -/
def State.endOverflow (s : State) : State :=
  if s.faults.overflow && decide (s.faults.queue.length < 16) then
    let m := s.faults.missed
    let s1 : State := { s with faults := { s.faults with overflow := false, missed := [] } }
    m.foldl (fun t e =>
      let u := t.funit (e.1 / 16384) (e.1 % 16384)
      if u.retired.isSome then t
      else t.postEntry { kind := e.1 / 16384, index := e.1 % 16384, reason := e.2, frame := t.clk.frame,
                         count := min 255 u.dates.length, permanent := u.permanent, escalated := false }) s1
  else s

/-- Firmware handles the head of the fault queue (R370, R381): it logs the entry with its frame and decides the retirement of a unit
that is permanent, from the next tick. Nothing is handled during a hot restart (R384). -/
def execFaultEntryHandled (s : State) : Host.Outcome State Fault Refusal :=
  if s.sys.restarting then .next s
  else match s.faults.queue with
  | [] => .next s
  | e :: q =>
    let ret := e.permanent && !s.retired e.kind e.index && [1, 2, 3, 4, 5].contains e.kind
    let fl := (if e.permanent then 2 else 1) + 16 * bit e.escalated
    let s1 : State := { s with faults := { s.faults with queue := q } }
    let r := s1.logRecord 0xFFFF { kind := e.kind, unit := e.index, flags := fl, count := e.count, reason := e.reason, date := some e.frame } false
    let s2 := (s1.appendLog r).wrapped s1.wraps
    let s3 := when ret (fun t => t.due (.retire e.kind e.index e.reason)) s2
    .next s3.endOverflow

end Sys2Proof.Machine
end

