-- ==== Sys2Proof/Machine/Drive.lean ====
section
/-! DEFINITION. Drive channels (chapter 3): code queue, output computation at a tick, slew limiter, tone, range change,
isolation, and the read-back sweep. -/

namespace Sys2Proof.Machine

/-! ## Code queue (R80, R81) -/

/-- The order of writers (R81): a smaller rank stands. -/
def Writer.rank : Writer → Nat
  | .force => 0 | .impression => 1 | .image => 2 | .loop => 3

/-- A code enters a queue entry: it replaces what stands there unless a writer higher in the order wrote that in the same
frame (R81). The result carries whether a code was replaced; none where the code does not enter. -/
def enterCode (e : Option QCode) (q : QCode) : Option (QCode × Bool) :=
  match e with
  | none => some (q, false)
  | some x => if x.frame = q.frame ∧ x.writer.rank < q.writer.rank then none else some (q, true)

/-- A code as its channel takes it, limited to the ceiling (R59), and whether it was limited. Bits [15:14] of an EO code are
ignored (R73). -/
def State.limited (s : State) (i code : Nat) : Nat × Bool :=
  let v := if i < 4608 then code % 16384 else code
  (min v (s.ceiling i), decide (s.ceiling i < v))

/-- The channel is in a range-change hold in a frame (R77). -/
def DriveCh.held (c : DriveCh) (frame : Nat) : Bool := match c.hold with | some h => decide (frame < h.release) | none => false

/-- A force ends (R523), also one that waits for the release of a range change. -/
def DriveCh.letGo (c : DriveCh) : DriveCh := { c with forced := none, hold := c.hold.map (fun h => { h with force := none }) }

/-- A code is written to an entry of a channel's queue, due at a tick (R80), limited to the ceiling (R59, R82). Codes for the ticks
of a range-change hold are discarded (R77), and a forced channel takes no code from another writer (R523). -/
def State.putIn (s : State) (follow : Bool) (tick i : Nat) (w : Writer) (code : Nat) : State :=
  let c := s.dch i
  let lim := s.limited i code
  match enterCode (if follow then c.follow else c.next) { code := lim.1, writer := w, frame := s.clk.frame } with
  | none => s
  | some r =>
    let held := match c.hold with | some h => decide (tick ≤ h.release) | none => false
    if held || (c.forced.isSome && w != .force) then s
    else
      (s.setDch i { c with
        next := if follow then c.next else some r.1,
        follow := if follow then some r.1 else c.follow,
        replaced := c.replaced + bit r.2,
        sticky := c.sticky ||| (32 * bit r.2) ||| (4 * bit lim.2) }).outCode i code

/-- A code is written now: to NEXT until the commit point and to FOLLOW after it (R80). -/
def State.putCode (s : State) (i : Nat) (w : Writer) (code : Nat) : State :=
  s.putIn s.clk.committed (s.clk.frame + (if s.clk.committed then 2 else 1)) i w code

/-! ## Output (R71 to R73, R82, R83, R85, R90 to R92) -/

/-- Full scale of a DAC (R71). -/
def dacTop (i : Nat) : Nat := if i < 4608 then 16383 else 65535

/-- The coarse segment that a code selects (R71). -/
def coarse (i code : Nat) : Nat := if i < 4608 then fld code 4 10 else fld code 6 10

/-- The fine tap that a code selects (R71): an EO channel uses every fourth one. -/
def fineTap (i code : Nat) : Nat := if i < 4608 then 4 * fld code 0 4 else fld code 0 6

/-- The output that a code selects, in 1/65,536 of full scale (R71, R73, R75). -/
def tapValue (i code : Nat) : Nat := 64 * coarse i code + fineTap i code

/-- A change of code is major (R72). -/
def majorChange (i old new : Nat) : Bool := coarse i old != coarse i new

/-- Loop cycles from the tick to the release of a track-and-hold (R83). -/
def holdCycles (i : Nat) : Nat := if i < 4608 then 24 else 48

/-- The tone value of a channel in frame k (R91, R92). -/
def DriveCh.tone (c : DriveCh) (k : Nat) : Int := if c.a = 0 then 0 else toneAt c.a ((k * c.m + c.phi) % 1024)

/-- The tone step ⌈2π × A × m ÷ 1,024⌉ (R101). -/
def DriveCh.toneStep (c : DriveCh) : Nat :=
  if c.a = 0 then 0 else 2 * piFixed * c.a * c.m / (1024 * 2 ^ 64) + 1

/-- The position after a tick (R82, R85): `hold` while a range change holds the output. -/
def DriveCh.move (c : DriveCh) (k : Nat) (slew hold : Bool) (target : Nat) : Nat :=
  if hold then c.position
  else if !slew then target
  else if k % c.rate ≠ 0 then c.position
  else if c.position ≤ target then min target (c.position + c.step)
  else max target (c.position - c.step)

/-- Sets the DAC code of a position with the tone of frame k and the clamp, and notes changes (R82, R92, R100, R101). With the
deglitcher (`deg`) a major change, and a refresh (R243), goes through a track-and-hold at the output before (R83). -/
def DriveCh.drive (c : DriveCh) (i k : Nat) (deg : Bool) (position target : Nat) : DriveCh :=
  let sum : Int := (position : Int) + (if i < 4608 then 0 else c.tone k)
  let d := (clampInt 0 (dacTop i) sum).toNat
  let clip := decide (4608 ≤ i ∧ sum ≠ (d : Int))
  let moved : Nat := ((d : Int) - (c.dac : Int)).natAbs
  { c with
    target := target, position := position, dac := d, refresh := false,
    trackHold := if deg && (c.refresh || majorChange i c.dac d) then some (k, c.dac) else none,
    toneClip := clip, sticky := c.sticky ||| (8 * bit clip),
    transition := c.transition || decide (i < 4608 ∧ 4096 ≤ moved),
    changed := if (if i < 4608 then 0 else c.toneStep) < moved then some k else c.changed }

/-- The deglitcher serves a channel (R60, R84). -/
def deglitched (i : Nat) (slew : Bool) : Bool := decide (i < 4608) || !slew

/-- The output computation of a tick (R80, R82): NEXT applies, FOLLOW moves up, the position moves, the tone is added. A range-change
hold keeps the position up to its release, where the output is the rescaled code (R77); a force given during the hold applies at
the release tick (R523). -/
def DriveCh.tick (c : DriveCh) (i k : Nat) (slew : Bool) : DriveCh :=
  let force := match c.hold with | some h => if k = h.release then h.force else none | none => none
  let hold := match c.hold with | some h => decide (k ≤ h.release) && force.isNone | none => false
  let target := match c.next with
    | some q => q.code
    | none => force.getD c.target
  let c1 : DriveCh := { c with next := c.follow, follow := none, toneClipPrev := c.toneClip }
  c1.drive i k (deglitched i slew) (c1.move k (slew && decide (4608 ≤ i)) hold target) target

/-- Target, position and code set at once, with no slewing (R88). The tone value is the tick's. The codes that stood in the queue
are replaced (R81). (DEDUCED, log 30) -/
def DriveCh.setNow (c : DriveCh) (i k code : Nat) (deg : Bool) : DriveCh :=
  let n := bit c.next.isSome + bit c.follow.isSome
  { ({ c with next := none, follow := none, replaced := c.replaced + n, sticky := c.sticky ||| (32 * bit (n != 0)) }
      : DriveCh).drive i k deg code code with toneClip := c.toneClip }

/-- A code of an image is applied at once (R52, R54, R88), limited to the ceiling (R59). A forced channel keeps its force (R523).
(DEDUCED, log 30) -/
def State.setNow (s : State) (i code : Nat) : State :=
  let c := s.dch i
  if c.forced.isSome then s
  else
    let lim := s.limited i code
    (s.setDch i (({ c with sticky := c.sticky ||| (4 * bit lim.2) } : DriveCh).setNow i s.clk.frame lim.1
      (deglitched i s.slew))).outCode i code

/-- The applied DAC code of a bank (R406): gain and offset of the bank correction, clamped to the DAC. -/
def State.dacOut (s : State) (i : Nat) : Nat :=
  match find? s.cal.bank (i / 64) with
  | none => (s.dch i).dac
  | some (g, o) => (clampInt 0 (dacTop i) (roundDiv ((s.dch i).dac * g : Nat) 32768 + o)).toNat

/-- A drive channel retired for OPEN, SHORT or HOST is isolated (R98). (DEDUCED, log 30; DEDUCED, log 35) -/
def State.cutOff (s : State) (i : Nat) : Bool :=
  match (s.funit 1 i).retired with
  | some r => [1, 2, 11].contains r
  | none => false

/-- A channel isolated by retirement is not driving and carries no tone (R93, R98). -/
def DriveCh.quiet (c : DriveCh) (cut : Bool) (f : DriveCh → DriveCh) : DriveCh :=
  if cut then { f { c with a := 0 } with a := c.a } else f c

/-- A fixed code into the dummy load, without tone (R95): the position and the target are kept. -/
def DriveCh.idle (c : DriveCh) (i k code : Nat) : DriveCh :=
  let moved : Nat := ((code : Int) - (c.dac : Int)).natAbs
  { c with next := none, follow := none, dac := code, toneClipPrev := c.toneClip, toneClip := false, trackHold := none,
           transition := c.transition || decide (i < 4608 ∧ 4096 ≤ moved),
           changed := if (if i < 4608 then 0 else c.toneStep) < moved then some k else c.changed }

/-- Every listed channel makes its output computation of frame k; an idle channel, and one that is not listed, holds code 0 (R95).
(DEDUCED, log 30) -/
def State.driveTick (s : State) : State :=
  let k := s.clk.frame
  let slew := s.slew
  { s with drive := { s.drive with
    ch := s.drive.ch.map (fun e => (e.1, if s.drivePresent e.1 then e.2.quiet (s.cutOff e.1) (fun c => c.tick e.1 k slew)
                                         else e.2.idle e.1 k 0)) } }

/-- The position is driven as it stands, with tone (R88, R344). -/
def DriveCh.stand (c : DriveCh) (i k : Nat) : DriveCh := c.setNow i k c.position false

/-- Every listed channel drives its position: a takeover (R344), or the mirrored image in Standby (R95). (DEDUCED, log 30) -/
def State.driveStand (s : State) : State :=
  { s with drive := { s.drive with ch := s.drive.ch.map (fun e =>
      (e.1, if s.drivePresent e.1 then e.2.stand e.1 s.clk.frame else e.2.idle e.1 s.clk.frame 0)) } }

/-- The partner holds a lease, as far as the module knows (R95): a mirrored image stands, and the referee has armed the module or
a FRAME message came for one of the last two ticks. (DEDUCED, log 30) -/
def State.partnerLease (s : State) : Bool :=
  s.mirror.imageAt.isSome && (s.pair.armed.isSome || s.mirror.framesSeen.any (fun f => decide (s.clk.frame ≤ f + 2)))

/-- The bank calibration code of a channel in Start-up Calibration (R95, R406): x_hi once the 256 conversions at x_lo are done.
(DEDUCED, log 30) -/
def State.calCode (s : State) (i : Nat) : Nat :=
  let high := match (s.scope (0x100 + i / 64)).running with | some f => decide (f + 26 ≤ s.clk.frame) | none => false
  if i < 4608 then (if high then 15360 else 1024) else (if high then 61440 else 4096)

/-- The outputs of a tick without a lease (R95): in Standby with a partner lease the mirrored codes, in Service the code
queues, in Start-up Calibration the bank calibration codes, else code 0. (DEDUCED, log 30) -/
def State.driveIdle (s : State) : State :=
  if s.sys.mode == .service then s.driveTick
  else if s.sys.mode == .standby && s.partnerLease then s.driveStand
  else if s.sys.mode == .startupCal then s.drives.foldl (fun t i => t.modDch i (fun c => c.idle i t.clk.frame (s.calCode i))) s
  else { s with drive := { s.drive with ch := s.drive.ch.map (fun e => (e.1, e.2.idle e.1 s.clk.frame 0)) } }

/-- LOAD_SEEN of the EO drivers (R100): the charge of a transition of at least 1.60 V, in aC, exceeds 0.10 pF × |ΔV|, with ΔV in
steps of 390.625 µV. `old` is the state before the codes of the tick. -/
def State.latchLoads (s old : State) (charge : List (Nat × Nat)) : State :=
  charge.foldl (fun t e =>
    let moved : Nat := (((t.dch e.1).dac : Int) - ((old.dch e.1).dac : Int)).natAbs
    if e.1 < 4608 ∧ 4096 ≤ moved ∧ 625 * moved < 16 * e.2 then t.modDch e.1 (fun c => { c with loadSeen := true }) else t) s

/-- The code that the output of a channel shows now: during a track-and-hold the code before (R83). -/
def State.outNow (s : State) (i : Nat) : Nat :=
  match (s.dch i).trackHold with
  | some (f, old) => if f = s.clk.frame ∧ s.clk.cycle < holdCycles i then old else (s.dch i).dac
  | none => (s.dch i).dac

/-! ## Isolation (R94, R98, R371) -/

/-- The line of a channel is driven: switches closed, the channel present and not isolated by retirement (R94). (DEDUCED, log 30) -/
def State.driven (s : State) (i : Nat) : Bool := s.drive.closed && s.drivePresent i && !s.cutOff i

/-! ## Range changes (R77 to R79) -/

/-- The rescaled code of R78 and whether it was clipped. (DEDUCED, log 29) -/
def rescale (code fsOld fsNew : Nat) : Nat × Bool :=
  let x := roundHalfUp (code * fsOld) fsNew
  if 65535 < x then (65535, true) else (x, false)

/-- The range that a request names (R518): 3 selects the descriptor's default when the change starts. -/
def State.rangeOf (s : State) (i r : Nat) : Nat := if r = 3 then s.rangeDefault i else r

/-- Position and target in another range (R78). (DEDUCED, log 29) -/
def DriveCh.rescaled (c : DriveCh) (range : Nat) : DriveCh :=
  let p := rescale c.position (fullScale c.range) (fullScale range)
  let t := rescale c.target (fullScale c.range) (fullScale range)
  { c with range := range, position := p.1, target := t.1, sticky := c.sticky ||| (16 * bit (p.2 || t.2)) }

/-- The hold of a range change begins at tick k, after the code due there has applied (R77, R78). (DEDUCED, log 29) -/
def DriveCh.beginRange (c : DriveCh) (i k range : Nat) : DriveCh :=
  let c1 : DriveCh := { c.rescaled range with
    hold := some { release := k + 4, range := range, waiting := none, force := none }, next := none, follow := none }
  c1.drive i k false c1.position c1.target

/-- The DAC of a channel takes its position in the mode (R95): under a lease, in Service, or with the mirrored image. -/
def State.outputs (s : State) (i : Nat) : Bool :=
  s.drivePresent i && (s.pair.held || s.sys.mode == .service || (s.sys.mode == .standby && s.partnerLease))

/-- A range request takes effect at a tick: with a hold while the channel drives, at once otherwise (R77, R79); while a
hold is in progress it waits for the release, the last request standing. A request for the range in force changes nothing. (DEDUCED, log 29) -/
def State.rangeAt (s : State) (i range : Nat) : State :=
  let c := s.dch i
  let r := s.rangeOf i range
  match c.hold with
  | some h => s.setDch i { c with hold := some { h with waiting := some range } }
  | none =>
    if r = c.range then s
    else if s.driven i then s.setDch i (c.beginRange i s.clk.frame r)
    else
      let c1 := c.rescaled r
      s.setDch i (if s.outputs i then c1.quiet (s.cutOff i) (fun d => d.drive i s.clk.frame false d.position d.target) else c1)

/-- The commands whose range changes are all released are answered (R518). (DEDUCED, log 29) -/
def State.rangeDone (s : State) (cmds : List CmdRef) : State :=
  cmds.foldl (fun t c =>
    if t.drive.ch.any (fun e => e.2.rangeCmds.contains c || e.2.rangeWait.contains c) then t else t.answer c stOk []) s

/-- The release of a range change: its commands are done, and a request that waited starts (R77, R79). (DEDUCED, log 29) -/
def State.rangeRelease (s : State) (i : Nat) : State :=
  let c := s.dch i
  match c.hold with
  | none => s
  | some h =>
    if s.clk.frame < h.release then s
    else
      let s1 := s.setDch i { c with hold := none, rangeCmds := [], rangeWait := [] }
      let s2 := match h.waiting with | some r => s1.rangeAt i r | none => s1
      if (s2.dch i).hold.isSome then (s2.modDch i (fun d => { d with rangeCmds := c.rangeWait })).rangeDone c.rangeCmds
      else s2.rangeDone (c.rangeCmds ++ c.rangeWait)

/-- The requests that wait for a release start at the release tick (R79). -/
def State.rangeWaits (s : State) : State :=
  s.drive.ch.foldl (fun t e =>
    if (match e.2.hold with | some h => h.waiting.isSome | none => false) then t.rangeRelease e.1 else t) s

/-- Release at tick t + 4 (R77): the output runs again at the rescaled code, and the commands of the change are done.
(DESIGN CHOICE, log 3; DESIGN CHOICE, log 17; DEDUCED, log 29) -/
def execRangeChangeRelease (channel : Nat) (s : State) : Host.Outcome State Fault Refusal :=
  if 10240 ≤ channel then .fault .noSuchUnit else .next (s.rangeRelease channel)

/-! ## Read-back sweep (R99 to R104) -/

/-- The VHTR group of a thermal channel (R70). -/
def vhtrGroup (i : Nat) : Nat := (i / 64 - 72) / 11

/-- VHTR of a thermal channel in mV: the last sample of its group's rail (R386), VHTR_NOMINAL of the group until there is one.
(DEDUCED, log 36) -/
def State.vhtr (s : State) (i : Nat) : Nat :=
  if s.faults.voltSampled then (s.faults.volts[11 + vhtrGroup i]?).getD 0 else rd s.faults.vhtrNominal (vhtrGroup i) 5000

/-- A conversion with the correction in force of its path (R407): voltage 2r, current 2r + 1, limited to 12 bits. (DEDUCED, log 52) -/
def State.rbCorrect (s : State) (path raw : Nat) : Nat :=
  let c := rd s.cal.rb path (32768, 0)
  (clampInt 0 4095 (roundDiv (raw * c.1 : Nat) 32768 + c.2)).toNat

/-- The class of a judged EO conversion (R102): 0 passes, 1 OPEN, 2 SHORT, 3 MISMATCH. The expected voltage is 6.4 V × code ÷ 16,384
(R73), the measured one 7.0 V × v ÷ 4,096 (R108). -/
def classEo (code : Nat) (transition loadSeen : Bool) (v : Nat) : Nat :=
  let e : Nat := 6400000 * code
  let m : Nat := 4 * (7000000 * v)
  if transition && !loadSeen then 1
  else if 16384 * 500000 ≤ e ∧ m < 16384 * 50000 then 2
  else if 16384 * 40000 < ((m : Int) - (e : Int)).natAbs then 3
  else 0

/-- The class of a judged thermal conversion (R102), in 1/65,536 of FS: the expected current is the code (R75), the measured one
1.125 × 16 × i (R108); the contact voltage is 7.0 V × v ÷ 4,096, VHTR in mV. -/
def classThermal (code vhtr v i : Nat) : Nat :=
  let m : Nat := 18 * i
  if 65536 ≤ 100 * code ∧ (4 * m < code ∨ (vhtr - 300) * 1000 * 4096 ≤ 7000000 * v) then 1
  else if 65536 ≤ 10 * code ∧ 7000000 * v < 30000 * 4096 then 2
  else if 4 * code + 65536 < 200 * ((m : Int) - (code : Int)).natAbs then 3
  else 0

/-- A conversion is not judged (R101). -/
def State.unjudged (s : State) (i : Nat) : Bool :=
  let c := s.dch i
  !s.drivePresent i || s.retired 1 i || c.held s.clk.frame ||
    (decide (c.changed = some s.clk.frame) && decide (s.clk.cycle < if i < 4608 then 270 else 3000))

/-- The channels of a bank have their counts withdrawn (R368). (DEDUCED, log 36) -/
def State.withdrawAll (s : State) (l : List Nat) : State := l.foldl (fun t i => t.withdraw 1 i) s

/-- DRV_BANK_FAULT and RB_CONVERTER_FAULT when the eighth channel of a bank fails in a sweep (R104, R368). -/
def State.bankCheck (s : State) (b : Nat) : State :=
  if 8 ≤ (rd s.drive.bankFails b []).length ∧ !rd s.drive.bankFault b false then
    let chans := (List.range 64).map (fun k => 64 * b + k)
    let s1 : State := { s with drive := { s.drive with bankFault := wr s.drive.bankFault b true } }
    let cells := (chans.filter (fun i => decide (i < 9216))).map (fun i => i % 4608)
    let ports := (chans.filter (fun i => decide (9216 ≤ i))).map (fun i => i - 9216)
    let s2 := (s1.raise (72 + b) (.c cells ports) {}).withdrawAll chans
    let r := b / 20
    let standing := ((List.range 20).filter (fun k => rd s2.drive.bankFault (20 * r + k) false)).length
    if 4 ≤ standing ∧ !rd s2.drive.convSuspect r false then
      let s3 : State := { s2 with drive := { s2.drive with convSuspect := wr s2.drive.convSuspect r true } }
      (s3.raise 30 .m { kind := 7, unit := r }).withdrawAll ((List.range 1280).map (fun k => 1280 * r + k))
    else s2
  else s

/-- VHTR_FAULT when the sixteenth channel of a group is classified OPEN in an interval (R104). (DEDUCED, log 36) -/
def State.vhtrCheck (s : State) (g : Nat) : State :=
  if 16 ≤ (rd s.drive.vhtrOpen g []).length ∧ !rd s.drive.vhtrFault g false then
    let chans := (List.range 704).map (fun k => 4608 + 704 * g + k)
    let s1 : State := { s with drive := { s.drive with vhtrFault := wr s.drive.vhtrFault g true } }
    let cells := (chans.filter (fun i => decide (i < 9216))).map (fun i => i - 4608)
    let ports := (chans.filter (fun i => decide (9216 ≤ i))).map (fun i => i - 9216)
    (s1.raise (232 + g) (.c cells ports) {}).withdrawAll chans
  else s

/-- The failures of drive channel i are logged but not counted (R368): DRV_BANK_FAULT or VHTR_FAULT stands, or its read-back
converter is suspect. -/
def State.uncounted (s : State) (i : Nat) : Bool :=
  rd s.drive.bankFault (i / 64) false || (decide (4608 ≤ i) && rd s.drive.vhtrFault (vhtrGroup i) false) ||
    rd s.drive.convSuspect (i / 1280) false

/-- A failed judgement (R103, R104): the sticky bit, the sets of the bank and the group, the failure and its event. -/
def State.readbackFail (s : State) (i cls : Nat) : State :=
  let b := i / 64
  let s1 := s.modDch i (fun c => { c with sticky := c.sticky ||| (if cls = 1 then 64 else if cls = 2 then 128 else 256) })
  let bank := rd s1.drive.bankFails b []
  let s2 : State := { s1 with
    drive := { s1.drive with bankFails := wr s1.drive.bankFails b (if bank.contains i then bank else i :: bank) },
    faults := { s1.faults with rbFailed := s1.faults.rbFailed + 1 } }
  let s3 := s2.bankCheck b
  let s4 :=
    if 4608 ≤ i ∧ cls = 1 then
      let g := vhtrGroup i
      let l := rd s3.drive.vhtrOpen g []
      ({ s3 with drive := { s3.drive with vhtrOpen := wr s3.drive.vhtrOpen g (if l.contains i then l else i :: l) } }
        : State).vhtrCheck g
    else s3
  s4.fail 1 i cls s4.clk.frame [26 + cls] (!s4.uncounted i) false

/-- The converter moves on past an index: a bank's sweep and the converter's sweep end here (R99, R104, R368). -/
def State.readbackNext (s : State) (r i : Nat) : State :=
  let s1 : State := { s with drive := { s.drive with rbPos := wr s.drive.rbPos r ((i % 1280 + 1) % 1280),
                                                     rbRetry := wr s.drive.rbRetry r false } }
  let s2 : State :=
    if i % 64 = 63 then
      let b := i / 64
      { s1 with drive := { s1.drive with
        bankFault := wr s1.drive.bankFault b (rd s1.drive.bankFault b false && decide (8 ≤ (rd s1.drive.bankFails b []).length)),
        bankFails := wr s1.drive.bankFails b [] } }
    else s1
  if i % 1280 = 1279 then
    let standing := ((List.range 20).filter (fun k => rd s2.drive.bankFault (20 * r + k) false)).length
    let s3 : State := { s2 with drive := { s2.drive with
      convSuspect := wr s2.drive.convSuspect r (rd s2.drive.convSuspect r false && decide (4 ≤ standing)) } }
    (List.range 8).foldl (fun t g =>
      if (4608 + 704 * g + 703) / 1280 = r then
        { t with drive := { t.drive with
          vhtrFault := wr t.drive.vhtrFault g (rd t.drive.vhtrFault g false && decide (16 ≤ (rd t.drive.vhtrOpen g []).length)),
          vhtrOpen := wr t.drive.vhtrOpen g [] } }
      else t) s3
  else s2

/-- One read-back conversion (R99 to R104, R108): it clears LOAD_SEEN. The converters run in every mode except Reset and Boot.
(DESIGN CHOICE, log 3; DEDUCED, log 52) -/
def execReadbackConversion (conv : Nat) (r : Readback) (s : State) : Host.Outcome State Fault Refusal :=
  if 8 ≤ conv then .fault .noSuchUnit
  else if !s.runs || s.sys.mode == .reset || s.sys.mode == .boot then .next s
  else
    let i := 1280 * conv + rd s.drive.rbPos conv 0
    let c := s.dch i
    let skip := s.unjudged i
    let s1 := s.setDch i { c with rbV := r.rawV.toNat, rbI := if i < 4608 then 0 else r.rawI.toNat,
                                  rbFrame := s.clk.frame, transition := false, loadSeen := false, unjudged := skip }
    if skip then .next (s1.readbackNext conv i)
    else
      let s2 : State := { s1 with faults := { s1.faults with rbJudged := s1.faults.rbJudged + 1 } }
      let v := s.rbCorrect (2 * conv) r.rawV.toNat
      let cls := if i < 4608 then classEo c.dac c.transition c.loadSeen v
        else classThermal c.dac (s.vhtr i) v (s.rbCorrect (2 * conv + 1) r.rawI.toNat)
      if cls = 0 then .next (s2.readbackNext conv i)
      else
        let s3 := s2.readbackFail i cls
        if rd s.drive.rbRetry conv false then .next (s3.readbackNext conv i)
        else .next { s3 with drive := { s3.drive with rbRetry := wr s3.drive.rbRetry conv true } }

end Sys2Proof.Machine
end

