-- ==== Sys2Proof/Machine/Flags.lean ====
section
/-! DEFINITION. The status and flag words that the manual lays out: sample word (R123), drive status word (R105),
TM_STATUS (R303), MB_STATUS (R469), EV_RING_STATUS (R474). -/

namespace Sys2Proof.Machine

/-! ## Sample word (R123) -/

def wCode (w : W32) : Nat := fld w.toNat 0 14
def wOvr (w : W32) : Bool := tb w.toNat 14
def wFilter (w : W32) : Bool := tb w.toNat 15
def wRange (w : W32) : Nat := fld w.toNat 16 2
def wUrgent (w : W32) : Bool := tb w.toNat 18
def wMissing (w : W32) : Bool := tb w.toNat 19
def wTest (w : W32) : Bool := tb w.toNat 20
def wSpare (w : W32) : Bool := tb w.toNat 21
def wSettling (w : W32) : Bool := tb w.toNat 22
def wCheck (w : W32) : Bool := tb w.toNat 23
def wEpoch (w : W32) : Nat := fld w.toNat 24 4

/-- A sample word from its fields. -/
def sampleWord (code : Nat) (ovr filter : Bool) (range : Nat) (urgent missing test spare settling check : Bool)
    (epoch : Nat) : W32 :=
  BitVec.ofNat 32 (pack [(14, code), (1, bit ovr), (1, bit filter), (2, range), (1, bit urgent), (1, bit missing),
    (1, bit test), (1, bit spare), (1, bit settling), (1, bit check), (4, epoch)])

/-- The MISSING word of a channel at the start of a frame (R124). -/
def State.missingWord (s : State) (x : Nat) : W32 :=
  sampleWord 0 false false (s.sch x).range false true false false false false (s.sch x).epoch

/-- The sample word that engines read in this frame: the bank of the frame before (R11, R124). -/
def State.sample (s : State) (x : Nat) : W32 := rd s.sense.bankPrev x (s.missingWord x)

/-- Upper limit over-range (R126). -/
def wHigh (w : W32) : Bool := wOvr w && decide (wCode w = 0x3FFF)

/-- The remaining correction d in 2⁻¹⁶ ns (R307): the visible part of the model's finer value, rounded (R591). -/
def State.remaining (s : State) : Int := roundDiv s.ft.rem (2 ^ 32)

/-- y of a sample in units of 31.25 pA (R152). -/
def yOf (w : W32) : Int := ((wCode w : Int) - 256) * (10 ^ (3 - wRange w) : Nat)

/-! ## Drive status word (R105) -/

def State.driveStatus (s : State) (i : Nat) : Nat :=
  let c := s.dch i
  let slewed := decide (4608 ≤ i) && s.slew
  let smoothing := if c.held s.clk.frame then 2 else if slewed then 1 else 0
  pack [(1, bit c.forced.isSome), (1, bit (slewed && c.position != c.target)), (7, c.sticky / 4),
    (1, bit c.unjudged), (1, bit (s.retired 1 i)), (1, bit (!s.driven i)), (2, if i < 4608 then 0 else c.range),
    (2, smoothing)]

/-! ## TM_STATUS (R303) -/

def ServoState.num : ServoState → Nat
  | .freerun => 0 | .acquiring => 1 | .locked => 2 | .holdover => 3 | .frozen => 4

def TimeSource.num : TimeSource → Nat
  | .none => 0 | .ptp => 1 | .pps => 2 | .host => 3

def State.tmStatus (s : State) : Nat :=
  pack [(3, s.ft.state.num), (1, 0), (1, bit s.ft.step.isSome), (2, s.ft.source.num), (1, bit s.ft.selected),
    (1, bit (s.remaining != 0)), (1, bit s.ft.ppsValid), (1, bit s.ft.port0.hasMaster), (1, bit s.ft.port1.hasMaster)]

end Sys2Proof.Machine
end

