-- ==== Sys2Proof/Machine/Loops.lean ====
section
/-! DEFINITION. Holding loops (chapter 5): channel state, engine placement, feedforward, the update of each loop kind, sense
range stepping, tone assignment. -/

namespace Sys2Proof.Machine

/-! ## Cell states -/

/-- The state of cell c in force, from the applied plate (R202). -/
def State.cellState (s : State) (c : Nat) : Bool :=
  match s.imp.applied with
  | some p => p.cell c
  | none => false

/-! ## Engine placement (R33, R34, R187) -/

/-- The loop engines that are not retired. -/
def State.healthyEngines (s : State) : List Nat := (List.range 18).filter (fun e => !s.retired 5 e)

/-- The engine that serves the list of active engine e while at most two engines are lost: e itself, or the spare that
took its list. -/
def State.listServer (s : State) (e : Nat) : Nat := rd s.loops.engine e e

/-- r of R34. -/
def rateDiv (h : Nat) : Nat := ceilDiv 10240 (732 * h)

/-- A of R34: the slow channels are drive indices 0 to A − 1. -/
def slowCount (h : Nat) : Nat :=
  let u := 732 * h
  let r := rateDiv h
  if 14 ≤ h then 0 else min 10240 (r * ceilDiv (10240 - u) (r - 1))

/-- The position of a drive index in the update slots (R34, R187). -/
def slotOf (h i : Nat) : Nat :=
  let a := slowCount h
  if i < a then i / rateDiv h else ceilDiv a (rateDiv h) + (i - a)

/-- The engine of a drive index and its position in that engine's list (R33, R34, R187); none without a healthy engine. -/
def State.engineOf (s : State) (i : Nat) : Option (Nat × Nat) :=
  let l := s.healthyEngines
  let h := l.length
  if 16 ≤ h then some (s.listServer (i / 640), i % 640)
  else if h = 0 then none
  else
    let b := if 14 ≤ h then ceilDiv 10240 h else 732
    let p := slotOf h i
    (l[min (p / b) (h - 1)]?).map (fun e => (e, p - b * min (p / b) (h - 1)))

/-- A channel is updated in frame n (R34). -/
def State.updatedIn (s : State) (i n : Nat) : Bool :=
  let h := s.healthyEngines.length
  if 14 ≤ h then true
  else if h = 0 then false
  else decide (slowCount h ≤ i ∨ n % rateDiv h = i % rateDiv h)

/-- A channel is a slow channel (ALT_FRAME). -/
def State.slowChannel (s : State) (i : Nat) : Bool := decide (i < slowCount s.healthyEngines.length)

/-- The update of this frame is the one that the channel skips because it changed engine (R142, R188): the update in the frame of the
move, for a slow channel its first one from there on. (DESIGN CHOICE, log 34) -/
def State.movedNow (s : State) (i : Nat) : Bool :=
  match find? s.loops.moved i with
  | some f =>
    let span := if s.slowChannel i then rateDiv s.healthyEngines.length else 1
    decide (f ≤ s.clk.frame ∧ s.clk.frame < f + span)
  | none => false

/-- The present word of a sense channel in the bank of the frame before is kept as it stood, before its epoch or range
changes (R124). -/
def State.keepWord (s : State) (x : Nat) : State :=
  { s with sense := { s.sense with bankPrev := wr s.sense.bankPrev x (s.sample x) } }

/-- The placement epoch of a sense channel advances (R125). (DEDUCED, log 34) -/
def State.advanceEpoch (s : State) (x : Nat) : State :=
  (s.keepWord x).modSch x (fun c => { c with epoch := (c.epoch + 1) % 16 })

/-- The channel moved to another engine at this tick (R33, R188): it skips one update, and its EPOCH advances. (DEDUCED, log 34) -/
def State.moveEngine (s : State) (i : Nat) : State :=
  let s1 : State := { s with loops := { s.loops with moved := wr s.loops.moved i s.clk.frame } }
  if i < 4608 then s1.setCs i (cpb (s1.cs i) 0x0C 0 4 (cgb (s1.cs i) 0x0C 0 4 + 1))
  else s1.advanceEpoch (senseOf i)

/-- Applies a change of placement: every channel whose engine differs moves (R187). -/
def State.replace (old new : State) : State :=
  ((List.range 10240).filter (fun i => (old.engineOf i).map Prod.fst != (new.engineOf i).map Prod.fst)).foldl
    State.moveEngine new

/-! ## Feedforward (R163 to R165) -/

def State.hatchRow (s : State) (t : Nat) : Nat := (rd s.loops.hatch t 0).toNat

/-- Σ COEFF × P² of the entries of a row, entries from j on (R164). -/
def State.hatchSum (s : State) (t row : Nat) : Nat → Int
  | 0 => 0
  | j + 1 =>
    let e := fld row (32 * j) 32
    let nb := fld e 19 13
    let p : Nat := if 5632 ≤ nb ∨ nb = t ∨ !s.driven (4608 + nb) then 0 else (s.dch (4608 + nb)).position
    s.hatchSum t row j + signed 16 e * (p * p : Nat)

/-- ff_hatch of thermal channel t (R164); off during a fabric run (R411, R415). -/
def State.ffHatch (s : State) (t : Nat) : Int :=
  if s.cal.fabric.isSome then 0 else roundDiv (s.hatchSum t (s.hatchRow t) 8) (2 ^ 30)

/-- ff_temp of a channel state (R165). -/
def State.ffTemp (s : State) (w : BitVec 512) : Int :=
  roundDiv (cgs w 0x12 2 * ((s.loops.temps.getD (cgb w 0x0D 0 5) 0) - cgs w 0x14 2)) 4096

/-! ## Outcomes (R142, R184) -/

inductive Outcome3 where
  | skip | freeze | use
  deriving DecidableEq, Repr

/-- A loop kind makes updates in the mode (R184): 0 EO trim, 1 cell bias, 2 port power. -/
def State.loopRuns (s : State) (kind : Nat) : Bool :=
  s.pair.held && s.pair.swapFrame.isNone &&
    match s.sys.mode with
    | .active | .legacy | .characterize | .service => true
    | .dark => kind != 2
    | _ => false

/-- Frames since the fabric run in progress started. -/
def State.fabElapsed (s : State) : Option Nat :=
  match s.cal.fabric, (s.scope 0x300).running with
  | some _, some f => some (s.clk.frame - f)
  | _, _ => none

/-- Frames of a fabric run before its hatch step (R413). -/
def State.fabLength (s : State) : Nat := 4096 + 8488 * s.geo.stages + 4096 + 64

/-- A channel is driven by the sweep of a fabric run (R411, R413, R415): every VOA, the cells of a stage until its steps end,
the members of the current set of the hatch step. -/
def State.swept (s : State) (i : Nat) : Bool :=
  match s.fabElapsed with
  | none => false
  | some e =>
    if 9216 ≤ i then true
    else if e < 4096 + 8488 * (i % 4608 / 256 + 1) then true
    else if s.fabLength ≤ e ∧ 4608 ≤ i then ((s.cal.hatchSets[(e - s.fabLength) / 2000]?).getD []).contains (i - 4608)
    else false

/-- The outcome of a thermal update by R142, and what MISS_RUN does by R171: +1 (1), cleared (0) or unchanged (2). -/
def State.outcome (s : State) (i : Nat) (w : BitVec 512) (smp : W32) : Outcome3 × Nat :=
  let n := s.clk.frame
  let c := s.dch i
  let x := senseOf i
  let kind := kindCode i
  if !s.loopRuns kind || c.forced.isSome || s.swept i then (.skip, 2)
  else if c.held n then (.skip, 2)
  else if wEpoch smp ≠ (s.sch x).epoch then (.skip, 1)
  else if s.movedNow i then (.skip, 2)
  else if wTest smp then (.skip, 1)
  else if kind = 1 ∧ find? s.loops.changedAt (i - 4608) = some n then (.skip, 2)
  else if !tb w.toNat 2 then (.freeze, 2)
  else if wMissing smp || wOvr smp || wSettling smp || wCheck smp || wFilter smp || s.retired 2 x then (.freeze, 1)
  else if kind = 1 && c.toneClipPrev then (.freeze, 2)
  else if (match find? s.loops.window i with | some e => decide (e.1 < n ∧ n ≤ e.2 + 1) | none => false) then (.freeze, 2)
  else if kind = 2 ∧ cg w 0x16 2 = 0x7FFF then (.freeze, 2)
  else (.use, 0)

/-! ## Cell bias loop (R152 to R159, R167 to R169) -/

/-- Field offsets of a state x (false bar, true cross): YDC, H1, H2, FILL. -/
def oYdc (x : Bool) : Nat := if x then 0x1C else 0x18
def oH1 (x : Bool) : Nat := if x then 0x28 else 0x20
def oH2 (x : Bool) : Nat := if x then 0x2C else 0x24
def oFill (x : Bool) : Nat := if x then 0x36 else 0x35

def demodShift (w : BitVec 512) : Nat := if stBit w 3 then cgb w 0x34 4 4 else cgb w 0x34 0 4

/-- A restart of state x (R156). LOCK_RUN, which R156 does not name, goes to 0 with LOCKED. (DEDUCED, log 32) -/
def restartX (w : BitVec 512) (x : Bool) : BitVec 512 :=
  let w1 := cp (cp (cp w (oH1 x) 4 0) (oH2 x) 4 0) (oYdc x) 4 0
  let w2 := cp w1 (oFill x) 1 (2 ^ cgb w 0x34 4 4)
  cpb (setSt (setSt w2 3 true) 0 false) 0x37 0 6 0

def restartBoth (w : BitVec 512) : BitVec 512 := restartX (restartX w false) true

/-- The curvature test of R154. -/
def curvature (w : BitVec 512) (x : Bool) : Bool :=
  decide (cgs w (oH2 x) 4 ≠ 0 ∧ cg w 0x3C 2 * cg w (oYdc x) 4 ≤ (cgs w (oH2 x) 4).natAbs * 2 ^ 20)

/-- The detuning estimate d_x (R154): tone amplitude a, MON_ARM of the cell. -/
def detune (w : BitVec 512) (x : Bool) (a : Nat) (monArm : Bool) : Int :=
  let h1 := cgs w (oH1 x) 4
  let h2 := cgs w (oH2 x) 4
  let dmax : Int := cg w 0x3E 2
  let d :=
    if a = 0 ∨ h1 = 0 then 0
    else if curvature w x then roundDiv (a * h1) (4 * h2)
    else roundDiv (sgnInt h1 * (if x = monArm then 1 else -1) * dmax) 4
  clampInt (-dmax) dmax d

/-- The lock-in filters of state x take a sample y of frame k (R153). -/
def filters (w : BitVec 512) (x : Bool) (y : Int) (k : Nat) (c : DriveCh) : BitVec 512 :=
  let y8 : Int := 256 * y
  if cg w (oYdc x) 4 = 0 then cpu w (oYdc x) 4 y8
  else
    let sh := demodShift w
    let psi := cg w 0x16 2 % 1024
    let ref1 := toneAt 32767 (k * c.m + c.phi + 1024 - psi)
    let ref2 := toneAt 32767 (k * (2 * c.m) + 2 * (c.phi + 1024 - psi) + 256)
    let ydc := roundDiv ((cg w (oYdc x) 4 : Int) * (2 ^ sh - 1) + y8) (2 ^ sh)
    let dev := (y8 - ydc) * 16
    let h (o : Nat) (ref : Int) : Int := roundDiv (cgs w o 4 * (2 ^ sh - 1) * 32768 + dev * ref) (32768 * 2 ^ sh)
    let h1 := h (oH1 x) ref1
    let h2 := h (oH2 x) ref2
    cps (cps (cpu w (oYdc x) 4 ydc) (oH1 x) 4 h1) (oH2 x) 4 h2

/-- The lock test of R156: `small` is |d| ≤ tolerance, `large` is |d| > 4 × tolerance; LOCK_RUN at a bit position, 0 again at the
update that sets or clears LOCKED. (DEDUCED, log 32) -/
def lockTest (w : BitVec 512) (off lo : Nat) (small large : Bool) : BitVec 512 :=
  let locked := stBit w 0
  let run := if (if locked then large else small) then cgb w off lo 6 + 1 else 0
  if run < 32 then cpb w off lo 6 run
  else setSt (setSt (cpb w off lo 6 0) 0 (!locked)) 3 locked

/-- Integration and lock test of a usable sample (R155, R156): the new state, and INTEG exactly. -/
def integrate (w : BitVec 512) (x : Bool) (a : Nat) (monArm : Bool) : BitVec 512 × Int :=
  if 0 < cg w (oFill x) 1 then (cp w (oFill x) 1 (cg w (oFill x) 1 - 1), cgs w 8 4)
  else
    let d := detune w x a monArm
    let gain : Int := if stBit w 3 then cg w 0x32 2 else cg w 0x30 2
    let tol := cg w 0x38 2
    (lockTest w 0x37 0 (decide (d.natAbs ≤ tol) && a != 0) (decide (4 * tol < d.natAbs)), cgs w 8 4 + roundDiv (gain * d) 2)

/-- DARK_RUN and BRIGHT_RUN (R148). -/
def darkRun (w : BitVec 512) : Nat := cgb w 0x0F 0 3
def brightRun (w : BitVec 512) : Nat := cgb w 0x0F 3 3
def setDark (w : BitVec 512) (v : Nat) : BitVec 512 := cpb w 0x0F 0 3 (min v 4)
def setBright (w : BitVec 512) (v : Nat) : BitVec 512 := cpb w 0x0F 3 3 (min v 4)

/-- What a usable sample makes of a thermal loop: its channel state, INTEG exactly (the limit of R144 is applied before it is
stored), whether the update used the sample, whether the light-step test froze it, and whether a state restarted. -/
structure Used where
  cs : BitVec 512
  integ : Int
  used : Bool
  lightStep : Bool
  restarted : Bool
  deriving DecidableEq, Repr

/-- A sample that freezes the update. -/
def Used.frozen (w : BitVec 512) : Used := { cs := w, integ := cgs w 8 4, used := false, lightStep := false, restarted := false }

/-- DARK_RUN, BRIGHT_RUN and DARK_HOLD take a usable sample of a cell (R167, R169): the new state, whether the sample freezes the
update, and whether it ends the hold. -/
def cellLight (w : BitVec 512) (y : Int) : BitVec 512 × Bool × Bool :=
  let dl : Int := cg w 0x3A 2
  let w1 := setDark w (if y < dl then darkRun w + 1 else 0)
  if stBit w 1 then
    if y < 2 * dl then (setBright w1 0, true, false)
    else if brightRun w + 1 < 4 then (setBright w1 (brightRun w + 1), true, false)
    else (setDark (setBright (setSt w1 1 false) 0) 0, true, true)
  else if y < dl then
    if darkRun w + 1 < 4 then (w1, true, false) else (setBright (setSt w1 1 true) 0, true, false)
  else (w1, false, false)

/-- A usable sample in the cell bias loop (R153 to R157, R167 to R169, R183). A sample that seeds (R183) is not tested for a light
step, leaves FILL and STEP_RUN, counts as dark or bright as any sample, and freezes the update. (DEDUCED, log 32) -/
def biasUse (w : BitVec 512) (x : Bool) (y : Int) (k : Nat) (c : DriveCh) (monArm seed : Bool) : Used :=
  let l := cellLight w y
  let ydc : Int := cg w (oYdc x) 4
  if l.2.2 then { Used.frozen (cpu (restartBoth l.1) (oYdc x) 4 (256 * y)) with restarted := true }
  else if seed then Used.frozen (cpu l.1 (oYdc x) 4 (256 * y))
  else if l.2.1 then Used.frozen l.1
  else if ydc ≠ 0 ∧ ydc + 1024 * cg w 0x3A 2 < 4 * ((256 * y - ydc).natAbs : Int) then
    if 1 ≤ cgb l.1 0x37 6 2 then
      { Used.frozen (cpb (restartX l.1 x) 0x37 6 2 0) with lightStep := true, restarted := true }
    else { Used.frozen (cpb l.1 0x37 6 2 (cgb l.1 0x37 6 2 + 1)) with lightStep := true }
  else
    let r := integrate (filters (cpb l.1 0x37 6 2 0) x y k c) x c.a monArm
    { cs := r.1, integ := r.2, used := true, lightStep := false, restarted := false }

/-! ## Port power loop (R176 to R178) -/

/-- A usable sample that regulates (R176). -/
def portRegulate (w : BitVec 512) (y : Int) : Used :=
  let level := lvl y + cgs w 0x18 2
  let e := cgs w 0x16 2 - level
  let top : Int := cg w 0x1E 2 * 2 ^ 15
  let step := clampInt (-top) top (roundDiv (e * cg w 0x1A 2 * cg w 0x1C 2) (2 ^ 9))
  let sgn : Int := if tb w.toNat (8 * 0x26) then 1 else -1
  let w1 := cps w 0x22 2 level
  let tol := cg w 0x24 2
  let acq := stBit w1 3
  { cs := setSt (lockTest w1 0x26 1 (decide (e.natAbs ≤ tol)) (decide (4 * tol < e.natAbs))) 3 acq,
    integ := cgs w 8 4 + sgn * step, used := true, lightStep := false, restarted := false }

/-- DARK_RUN, BRIGHT_RUN and PORT_DARK take a usable sample of a port (R178): the new state and whether the sample regulates. -/
def portLight (w : BitVec 512) (y : Int) : BitVec 512 × Bool :=
  let pd : Int := cg w 0x20 2
  if stBit w 1 then
    if y < 2 * pd then (setBright w 0, false)
    else if brightRun w + 1 < 4 then (setBright w (brightRun w + 1), false)
    else (setDark (setBright (setSt w 1 false) 0) 0, true)
  else if y < pd then
    let r := darkRun w + 1
    if r < 4 then (setDark w r, false) else (setBright (setSt (setDark w r) 1 true) 0, false)
  else (setDark w 0, true)

/-- A usable sample in the port power loop (R176, R178). -/
def portUse (w : BitVec 512) (y : Int) : Used :=
  let l := portLight w y
  if l.2 then portRegulate l.1 y else Used.frozen l.1

/-! ## The thermal update (R142 to R145) -/

/-- MISS_RUN and NO_SAMPLE (R171): the new state and whether a usable sample ended NO_SAMPLE. (DEDUCED, log 32) -/
def missRun (w : BitVec 512) (m : Nat) : BitVec 512 × Bool :=
  if m = 2 then (w, false)
  else if m = 0 then (setSt (cp w 0x0E 1 0) 2 false, stBit w 2)
  else
    let r := min 64 (cg w 0x0E 1 + 1)
    (setSt (cp w 0x0E 1 r) 2 (stBit w 2 || decide (r = 64)), false)

/-- Writes the code of R143 for an exact INTEG: INTEG is limited under R144, or aligned under R145; the event LOOP_LIMIT once per
entry. -/
def State.writeLoop (s : State) (i : Nat) (w : BitVec 512) (exact : Int) : State :=
  let c := s.dch i
  let ff := s.ffHatch (i - 4608) + s.ffTemp w
  let base : Int := cg w 0x10 2
  let integ := if c.bumpless then ((c.position : Int) - base - ff) * 2 ^ 15 else exact
  let code := base + roundDiv integ (2 ^ 15) + ff
  let top : Int := s.ceiling i
  let out := code < 0 ∨ top < code
  let integ' := if out then (clampInt 0 top code - base - ff) * 2 ^ 15 else integ
  let w1 := setSt (cps w 8 4 integ') 6 (decide out)
  let s1 := (s.setCs i w1).modDch i (fun c => { c with bumpless := false })
  let s2 := s1.putCode i .loop (clampInt 0 65535 code).toNat
  if out ∧ !stBit w 6 then s2.raiseUnit 38 1 i else s2

/-- The port's block code is written and INTEG is left (R177). (DEDUCED, log 34) -/
def State.writeBlock (s : State) (i : Nat) (w : BitVec 512) : State := (s.setCs i w).putCode i .loop (s.blockCode (i - 9216))

/-- TARGET takes the target of the plate in force; leaving BLOCK restarts the loop without a bump (R177). (DEDUCED, log 34) -/
def State.takeTarget (s : State) (i : Nat) (w : BitVec 512) : State × BitVec 512 :=
  match s.imp.applied with
  | none => (s, w)
  | some p =>
    let t := p.target (i - 9216) % 65536
    let s1 := when (decide (cg w 0x16 2 = 0x8000 ∧ t ≠ 0x8000)) (fun s => s.modDch i (fun c => { c with bumpless := true })) s
    (s1, cp w 0x16 2 t)

/-- The loop of thermal channel i makes no updates because its line is cut off by retirement (R371). (DEDUCED, log 34) -/
def State.noUpdates (s : State) (i : Nat) : Bool := s.cutOff i

/-- Both states of a cell restart at this tick (R156); the frames of R159 are counted from here. -/
def State.restartCell (s : State) (i : Nat) : State :=
  let s1 := s.setCs i (restartBoth (s.cs i))
  { s1 with loops := { s1.loops with unlocked := wr s1.loops.unlocked i s1.clk.frame } }

/-- The frames without LOCKED are counted afresh after a restart or a loss of lock; LOCKED ends the count and the event (R159). -/
def State.lockNote (s : State) (i : Nat) (old new : BitVec 512) (restarted : Bool) : State :=
  if stBit new 0 then
    { s with loops := { s.loops with unlocked := del s.loops.unlocked i, unlockedRaised := del s.loops.unlockedRaised i } }
  else if restarted || stBit old 0 then { s with loops := { s.loops with unlocked := wr s.loops.unlocked i s.clk.frame } }
  else s

/-- LOOP_UNLOCKED (R159, R180): 5,000 frames since the last restart or loss of lock without LOCKED, with light, outside dark-cell
hold. A cell that has no count begins one. (DEDUCED, log 34) -/
def State.unlockedTick (s : State) (i : Nat) : State :=
  let w := s.cs i
  match find? s.loops.unlocked i with
  | none => if stBit w 0 then s else { s with loops := { s.loops with unlocked := wr s.loops.unlocked i s.clk.frame } }
  | some f =>
    let windowed := match find? s.loops.window i with | some e => decide (s.clk.frame ≤ e.2 + 1) | none => false
    let lit := !stBit w 1 && !stBit w 2 && decide (darkRun w = 0)
    if f + 5000 ≤ s.clk.frame ∧ lit ∧ !stBit w 0 ∧ !windowed ∧ !rd s.loops.unlockedRaised i false then
      ({ s with loops := { s.loops with unlockedRaised := wr s.loops.unlockedRaised i true } } : State).raiseUnit 39 1 i
    else s

/-- One update of a thermal loop in the frame that began at this tick (R142, R143, R152 to R157, R167 to R171, R176 to
R178). `k` is the frame of the sample. With a target of BLOCK a usable sample counts as R171 and R178 say, and the block code is
written (R177). (DEDUCED, log 34) -/
def State.thermalUpdate (s : State) (i k : Nat) : State :=
  let kind := kindCode i
  let x := senseOf i
  let smp := s.sample x
  let old := s.cs i
  let t := if kind = 2 && s.loopRuns 2 then s.takeTarget i old else (s, old)
  let w0 := t.2
  let s0 := t.1
  let o := s0.outcome i w0 smp
  let m := missRun w0 o.2
  let back := m.2 && decide (kind = 1)
  let wA := if back then restartBoth m.1 else m.1
  let block := decide (kind = 2 ∧ cg wA 0x16 2 = 0x8000)
  let seed := kind = 1 && o.1 == .use &&
    (match (s0.sch x).calFrame with | some f => decide (f ≤ k) | none => false)
  let s1 := when seed (fun s => s.modSch x (fun c => { c with calFrame := none })) s0
  match o.1 with
  | .skip => s1.setCs i (setSt (setSt wA 4 true) 5 false)
  | .freeze =>
    let w1 := setSt (setSt wA 4 false) 5 true
    if block then s1.writeBlock i w1 else s1.writeLoop i w1 (cgs w1 8 4)
  | .use =>
    if kind = 1 then
      let cell := i - 4608
      let r := biasUse wA (tb s.loops.prevState cell) (yOf smp) k (s.dch i) (s.monArm cell) seed
      let w1 := setSt (setSt r.cs 4 false) 5 (!r.used)
      let w2 := if r.lightStep then cp w1 0x0E 1 (cg old 0x0E 1) else w1
      (s1.lockNote i old w2 (r.restarted || back)).writeLoop i w2 r.integ
    else if block then s1.writeBlock i (setSt (setSt (portLight wA (yOf smp)).1 4 false) 5 true)
    else
      let r := portUse wA (yOf smp)
      s1.writeLoop i (setSt (setSt r.cs 4 false) 5 (!r.used)) r.integ

/-! ## Sense ranges (R128, R181) -/

/-- The run counters of R128 and R181 take the sample of the frame before; a range step is due at the next tick. The samples of a
retired channel (R592) and of another placement (R125) count as MISSING; a frame without an update (R25, R34, R189) leaves the runs as
they are. LOW_RUN is 0 while RANGE_AUTO is 0, and ranges step in Hold as in the other modes of a lease. (DEDUCED, log 32) -/
def State.rangeStep (s : State) (i : Nat) : State :=
  let x := senseOf i
  let c := s.sch x
  let w0 := s.sample x
  let w := if s.retired 2 x || wEpoch w0 != c.epoch then s.missingWord x else w0
  let cs := s.cs i
  let setLow (t : State) (v : Nat) : State := t.setCs i (cpb (t.cs i) 0x0C 4 4 v)
  if !wMissing w && decide (wRange w ≠ c.range) then setLow s 0
  else if !wMissing w && wHigh w then
    let run := c.ovrRun + 1
    let s1 := setLow s 0
    if run < 2 then s1.setSch x { c with ovrRun := run }
    else if c.range = 0 then
      let s2 := s1.setSch x { c with ovrRun := 2, inStay := true }
      if c.inStay then s2 else s2.raiseUnit 37 2 x
    else (s1.setSch x { c with ovrRun := 0 }).due (.tiaRange x (c.range - 1))
  else
    let stay := c.inStay && wMissing w
    let s1 := s.setSch x { c with ovrRun := 0, inStay := stay }
    if tb cs.toNat 3 && !wMissing w && decide (c.range < 3) && decide (wCode w < 1456) && !wOvr w && !wSettling w then
      let run := cgb cs 0x0C 4 4 + 1
      if run < 16 then setLow s1 run else (setLow s1 0).due (.tiaRange x (c.range + 1))
    else setLow s1 0

/-! ## EO trim loop (R172 to R175) -/

/-- The dwell of state x that ended at tick n is judged and recorded (R172); `h` is the heater's channel state. -/
def trimRecord (w h : BitVec 512) (x : Bool) (n a : Nat) (monArm : Bool) : BitVec 512 × Bool :=
  let since := (n + 2 ^ 32 - cg w 0x2C 4) % 2 ^ 32
  let ok := decide (cg w 0x38 2 ≤ since) && stBit h 0 && !stBit h 1 && !stBit h 2 && decide (cg h (oFill x) 1 = 0) &&
    curvature h x
  let w1 := cp w 0x2C 4 n
  if ok then
    let b := cgs h 8 4 + detune h x a monArm * 2 ^ 15
    (cp (cps w1 (if x then 0x1C else 0x18) 4 b) (if x then 0x24 else 0x20) 4 n, true)
  else (w1, false)

/-- The adjustment of R173 and its limits (R174): the new state and whether TRIM_LIMIT is raised. -/
def trimAdjust (w : BitVec 512) (x sign : Bool) (n top : Nat) : BitVec 512 × Bool :=
  let fb := cg w 0x20 4
  let fc := cg w 0x24 4
  let ft := cg w 0x28 4
  let age (f : Nat) : Nat := (n + 2 ^ 32 - f) % 2 ^ 32
  let diff := cgs w 0x1C 4 - cgs w 0x18 4
  if later fb ft && later fc ft && decide (age fb ≤ cg w 0x3E 2 * 65536) && decide (age fc ≤ cg w 0x3E 2 * 65536) &&
      decide (cg w 0x3C 2 * 64 ≤ age ft) && decide (cg w 0x32 2 * 2 ^ 15 < diff.natAbs) then
    let stepMax : Int := cg w 0x34 2
    let step := clampInt (-stepMax) stepMax (roundDiv ((cg w 0x30 2 : Int) * diff) (4096 * 2 ^ 15))
    let sgn : Int := if sign then 1 else -1
    let o := if x then 0x12 else 0x10
    let cal : Int := cg w (if x then 0x16 else 0x14) 2
    let span : Int := cg w 0x36 2
    let want : Int := (cg w o 2 : Int) + (if x then sgn * step else -(sgn * step))
    let got := clampInt 0 top (clampInt (cal - span) (cal + span) want)
    let limited := decide (got ≠ want)
    let w1 := cp (cp (cp w o 2 got.toNat) 0x28 4 n) 0x3A 2 (cg w 0x3A 2 + 1)
    (setSt w1 11 limited, limited && !stBit w 11)
  else (w, false)

/-- A dwell that ended at tick n makes no record: DWELL_START becomes n (R172, R175). When the state changes again before the update,
the dwell of the last change thus begins at the first. (DEDUCED, log 32) -/
def State.endDwell (s : State) (c : Nat) : State :=
  match find? s.loops.dwell c with
  | none => s
  | some (f, _) => ({ s with loops := { s.loops with dwell := del s.loops.dwell c } } : State).setCs c (cp (s.cs c) 0x2C 4 f)

/-- The state of cell c changes at this tick: its dwell in state x ends, to be handled by the update of R172. -/
def State.beginDwell (s : State) (c : Nat) (x : Bool) : State :=
  let s1 := s.endDwell c
  { s1 with loops := { s1.loops with dwell := wr s1.loops.dwell c (s1.clk.frame, x) } }

/-- The EO trim update of cell c in frame n (R172 to R175); `t0` is the state at the tick, from which the heater is read. -/
def State.trimUpdate (s t0 : State) (c : Nat) : State :=
  let n := s.clk.frame
  let w0 := s.cs c
  let dc := s.dch c
  let skip := !s.loopRuns 0 || dc.forced.isSome || s.swept c || s.movedNow c
  let w := setSt (setSt w0 4 skip) 5 false
  match find? s.loops.dwell c with
  | none => s.setCs c w
  | some (f, x) =>
    let s1 : State := { s with loops := { s.loops with dwell := del s.loops.dwell c } }
    if skip || decide ((if s.slowChannel c then f + 4 else f) < n) || s.retired 1 c then s1.setCs c (cp w 0x2C 4 f)
    else
      let r := trimRecord w (t0.cs (4608 + c)) x (f % 2 ^ 32) (t0.dch (4608 + c)).a (s.monArm c)
      if r.2 then
        let q := trimAdjust r.1 x (s.eoSign c == s.htrArm c) (f % 2 ^ 32) (s.ceiling c)
        let s2 := s1.setCs c q.1
        if q.2 then s2.raiseUnit 40 1 c else s2
      else s1.setCs c r.1

/-! ## The frame's updates (R25, R189) -/

/-- STATUS and APPLIED as they stand at a tick (R148). (DEDUCED, log 34) -/
def State.tickStatus (s : State) (i : Nat) : State :=
  let w := s.cs i
  let c := s.dch i
  let w1 := setSt (setSt (cp w 4 2 c.position) 7 c.forced.isSome) 10 (s.slowChannel i)
  let cell := i % 4608
  let w2 := if i < 9216 then setSt (setSt w1 8 (s.pin cell).isSome) 9 (s.cellState cell) else w1
  s.setCs i (if i < 4608 then w2 else cpb w2 0x0C 0 4 (s.sch (senseOf i)).epoch)

/-- The update of channel i in this frame: none when its engine does not reach it (R25) or when it is not its turn (R34);
discarded when its residue check fails (R189). An EO update that is not made ends its dwell as a skip does (R172). (DESIGN CHOICE, log 19; DEDUCED, log 32) -/
def State.updateLoop (s t0 : State) (inp : TickIn) (k i : Nat) : State :=
  if !s.updatedIn i s.clk.frame then s
  else match s.engineOf i with
  | none => s
  | some (e, pos) =>
    if inp.unfinished.any (fun u => decide (u.1 = e ∧ u.2 ≤ pos)) then s.endDwell i
    else if inp.residue.contains i then (s.endDwell i).fail 5 e 8 s.clk.frame [24] true false
    else if i < 4608 then s.trimUpdate t0 i
    else
      let s1 := when s.pair.held (fun s => s.rangeStep i) s
      if s1.noUpdates i then s1 else s1.thermalUpdate i k

/-- The number of entries in the list of an engine (R33, R34, R187); none for an engine without a list. -/
def State.listLength (s : State) (e : Nat) : Option Nat :=
  let l := s.healthyEngines
  let h := l.length
  if 16 ≤ h then (if (List.range 16).any (fun k => decide (s.listServer k = e)) then some 640 else none)
  else
    let b := if 14 ≤ h then ceilDiv 10240 h else 732
    let j := l.findIdx (fun x => decide (x = e))
    if j < h then some (min b (slotOf h 10239 + 1 - b * j)) else none

/-- The cycle at which an engine ends its channel list (R22, R34, R187): 16 + 8 per channel; none for an engine without a
list. (DESIGN CHOICE, log 19) -/
def State.engineEnd (s : State) (e : Nat) : Option Nat := (s.listLength e).map (fun n => 16 + 8 * n)

/-- LOOP_OVERRUN of every engine that has not finished its list by the commit point (R25): a failure of the engine (R189, R365). -/
def State.overruns (s : State) : State :=
  let late (e : Nat) : Bool := match s.listLength e with
    | some n => s.loops.unfinished.any (fun u => decide (u.1 = e ∧ u.2 < n))
    | none => false
  (s.healthyEngines.filter late).foldl (fun t e => t.fail 5 e 9 t.clk.frame [25] true false)
    { s with loops := { s.loops with unfinished := [] } }

/-- ENGINE_BUDGET (R560): an engine that does not finish ends later than any threshold. -/
def State.engineBudget (s : State) (inp : TickIn) : State :=
  let late (e n : Nat) : Bool := inp.unfinished.any (fun u => decide (u.1 = e)) ||
    (match s.engineEnd e with | some c => decide (n < c) | none => false)
  let s1 := s.healthyEngines.foldl (fun t e => t.tallyIf (0x100 + e) (late e) 1) s
  s1.tallyIf 0x120 (fun n => s.healthyEngines.any (fun e => late e n)) 1

/-- Every present channel's loop runs once (R141, R146). (DESIGN CHOICE, log 19) -/
def State.loopFrame (s : State) (inp : TickIn) (k : Nat) : State :=
  if !s.pair.held then s
  else
    let l := s.drives
    let t0 := l.foldl State.tickStatus s
    let s1 := l.foldl (fun t i => t.updateLoop t0 inp k i) t0
    let s2 := when (s1.loopRuns 1) (fun t =>
      (l.filter (fun i => decide (4608 ≤ i ∧ i < 9216) && !t.noUpdates i)).foldl State.unlockedTick t) s1
    { s2 with loops := { s2.loops with unfinished := inp.unfinished } }

/-- Every loop restarts without a bump, and the cell bias loops restart both states (R145, R185, R186). -/
def State.restartLoops (s : State) : State :=
  s.drives.foldl (fun t i =>
    if i < 4608 then t
    else
      let t1 := t.modDch i (fun c => { c with bumpless := true })
      if i < 9216 then t1.restartCell i else t1) s

/-- The first tick of a lease (R186): DWELL_START of every EO channel, and F_TRIM at a first-ever lease. No dwell of an earlier lease
is left to be handled. -/
def State.leaseLoops (s : State) (first : Bool) : State :=
  let s1 := s.restartLoops
  (s.drives.filter (fun i => decide (i < 4608))).foldl (fun t i =>
    let w := cp (t.cs i) 0x2C 4 t.clk.frame
    t.setCs i (if first then cp w 0x28 4 t.clk.frame else w)) { s1 with loops := { s1.loops with dwell := [] } }

/-! ## Tones (R160 to R162) -/

/-- A tone setting takes effect: a change of m or φ of a heater restarts both states (R162). Settings of idle channels are kept for
them, and an amplitude for a cell in the steps of a fabric run is kept until those end (R411, R421). -/
def State.setTone (s : State) (i m a phi : Nat) : State :=
  let c := s.dch i
  let swept := (find? s.cal.toneBack i).isSome
  let s0 : State := if swept then { s with cal := { s.cal with toneBack := wr s.cal.toneBack i a } } else s
  let s1 := s0.setDch i { c with m := m, a := if swept then c.a else a, phi := phi }
  if 4608 ≤ i ∧ i < 9216 ∧ s.drivePresent i ∧ (c.m ≠ m ∨ c.phi ≠ phi) then s1.restartCell i else s1

/-- The feeding cells of a cell (R160). -/
def Geo.feeding (g : Geo) (c : Nat) : List Nat :=
  let st := c / 256
  if st = 0 then []
  else
    (((List.range g.ports).filter (fun x => decide (g.next (st - 1) x / 2 = c % 256))).map
      (fun x => 256 * (st - 1) + x / 2)).dedup

/-- The cells whose heaters a hatch row names (R160). -/
def State.hatchCells (s : State) (c : Nat) : List Nat :=
  let row := s.hatchRow c
  (List.range 8).filterMap (fun j =>
    let e := fld row (32 * j) 32
    if e ≠ 0 ∧ fld e 19 13 < 4608 then some (fld e 19 13) else none)

/-- The values of m that a visited cell with multiple m excludes for cell c (R160, R161). -/
def State.excludes (s : State) (g : Geo) (feed : List Nat) (c v m : Nat) : List Nat :=
  let near := decide (v + 1 = c ∨ c + 1 = v) && decide (v / 256 = c / 256)
  let hatch := (s.hatchCells c).contains v || (s.hatchCells v).contains c
  let l1 := if near || hatch || feed.contains v || (g.feeding v).contains c then [m] else []
  let l2 := if feed.contains v || (g.feeding v).contains c then [2 * m] ++ (if m % 2 = 0 then [m / 2] else []) else []
  l1 ++ l2

/-- The lowest m that is excluded by the fewest visited cells (R161). -/
def bestTone (ex : List Nat) : Nat :=
  ((List.range 48).foldl (fun (b : Nat × Nat) j =>
    let n := (ex.filter (fun v => decide (v = 16 + j))).length
    if n < b.2 then (16 + j, n) else b) (16, ex.length + 1)).1

/-- The default tone assignment (R161). -/
def State.defaultTones (s : State) : State :=
  let g := s.geo
  let cells := if s.desc.loaded then g.cells else []
  let as := cells.foldl (fun (l : List (Nat × Nat)) c =>
    let feed := g.feeding c
    let ex := l.flatMap (fun v => (s.excludes g feed c v.1 v.2).dedup)
    (c, bestTone ex) :: l) []
  let s1 := as.foldl (fun t e => t.setTone (4608 + e.1) e.2 120 0) s
  let s2 := (s1.drives.filter (fun i => decide (9216 ≤ i))).foldl (fun t i => t.modDch i (fun c => { c with a := 0 })) s1
  { s2 with loops := { s2.loops with toneAssigned := true } }

end Sys2Proof.Machine
end

