-- ==== Sys2Proof/Machine/Sense.lean ====
section
/-! DEFINITION. Sense channels and conversion (chapter 4): placement on ADC cores, the choice and the correction of a
conversion, anomalies, spare takeover, path tests, captures. -/

namespace Sys2Proof.Machine

/-! ## Placement (R114 to R116, R129, R130, R132) -/

/-- The physical core of active slot q (R114). -/
def slotCore (q : Nat) : Nat := 17 * (q / 16) + q % 16

/-- The home core of a sense channel and its scan entry (R116). -/
def homeCore (x : Nat) : Nat := slotCore (x % 128)
def homeEntry (x : Nat) : Nat := x / 128

/-- The ADC group of a sense channel. -/
def senseGroup (x : Nat) : Nat := x % 128 / 16

/-- The sense channel of an entry of a core's home table. -/
def homeChannel (core e : Nat) : Nat := 128 * e + 16 * (core / 17) + core % 17

/-- The other core of the interleave pair (R114). -/
def pairMate (core : Nat) : Nat := let a := core % 17; core - a + (if a % 2 = 0 then a + 1 else a - 1)

/-- The interleave pair of a core: 8g + h. -/
def pairOf (core : Nat) : Nat := 8 * (core / 17) + core % 17 / 2

/-- The home tables (R116, R117): 44 valid entries on the 200 kHz path; a group spare has none. -/
def homeTable (core : Nat) : List W16 :=
  if core % 17 = 16 then []
  else (List.range 44).map (fun e => BitVec.ofNat 16 (0x8000 + homeChannel core e))

/-- What converts the channels of core p (R129, R130): p itself, the spare, or nothing. -/
def State.converter (s : State) (p : Nat) : Option Nat :=
  let sp := 17 * (p / 17) + 16
  match find? s.sense.spare (p / 17) with
  | some (q, _) =>
    if q = p then (if s.retired 4 sp then none else some sp)
    else if s.retired 4 p then none else some p
  | none => if s.retired 4 p then none else some p

/-- The core that converts a sense channel, and whether its pair shares one converter (R129 to R132). -/
def State.serving (s : State) (x : Nat) : Option (Nat × Bool) :=
  let p := homeCore x
  match s.converter p, s.converter (pairMate p) with
  | some c, some _ => some (c, false)
  | some c, none => some (c, true)
  | none, some c => some (c, true)
  | none, none => none

/-- The tables that a core runs for its placement: EVEN and ODD. -/
def State.placedTables (s : State) (core : Nat) : List W16 × List W16 :=
  let own := (List.range 16).map (fun a => 17 * (core / 17) + a)
  match own.find? (fun p => s.converter p == some core) with
  | none => ([], [])
  | some p =>
    let mate := pairMate p
    if (s.converter mate).isSome then (homeTable p, homeTable p)
    else (homeTable (min p mate), homeTable (max p mate))

def AdcCore.init (core : Nat) : AdcCore :=
  { even := homeTable core, odd := homeTable core, shadow := none, pending := List.range (homeTable core).length, used := 0,
    checkDone := false, boundary := 0, urgent := [], checkFail := false }

def State.core (s : State) (c : Nat) : AdcCore := rd s.sense.cores c (.init c)

def State.setCore (s : State) (c : Nat) (x : AdcCore) : State :=
  { s with sense := { s.sense with cores := wr s.sense.cores c x } }

/-- The 704 sense channels of a group, in sense index order. -/
def groupChannels (g : Nat) : List Nat := (List.range 704).map (fun j => 128 * (j / 16) + 16 * g + j % 16)

/-- A group's tables follow a change of placement: firmware writes them to the shadows, from which the cores take them at the tick
(R118), and every channel whose core changes advances its epoch (R125, R129, R130). -/
def State.placeGroup (old new : State) (g : Nat) : State :=
  let s1 := (List.range 17).foldl (fun t a =>
    let c := 17 * g + a
    let tb := t.placedTables c
    let k := t.core c
    if k.shadow.getD (k.even, k.odd) = tb then t else t.setCore c { k with shadow := some tb }) new
  ((groupChannels g).filter (fun x => old.serving x != new.serving x)).foldl State.advanceEpoch s1

/-- ADC_DEGRADED and ADC_UNSAMPLED of a pair (R130, R132). (DESIGN CHOICE, log 33) -/
def State.pairEvents (old new : State) (p : Nat) : State :=
  let before := ((old.converter p).isSome, (old.converter (pairMate p)).isSome)
  let after := ((new.converter p).isSome, (new.converter (pairMate p)).isSome)
  if before = after then new
  else if after = (false, false) then (new.raise 33 .m { unit := pairOf p }).requestSwap
  else if after = (true, true) then new
  else new.raise 32 .m { unit := pairOf p }

/-- Sets the core for which a group spare stands in, and places the group. -/
def State.setSpare (s : State) (g : Nat) (v : Option (Nat × Bool)) : State :=
  let new : State := { s with sense := { s.sense with
    spare := match v with | some x => wr s.sense.spare g x | none => del s.sense.spare g } }
  s.placeGroup new g

/-- Retirement of an ADC core at a tick (R129, R130, R132, R376): `s` has the core marked retired, `old` had not. -/
def State.retireCore (old s : State) (p : Nat) : State :=
  let g := p / 17
  let sp := 17 * g + 16
  let idle := match find? s.sense.spare g with | some (_, r) => !r | none => true
  let new : State :=
    if p = sp then
      (match find? s.sense.spare g with
       | some (_, false) => { s with sense := { s.sense with spare := del s.sense.spare g } }
       | _ => s)
    else if idle && !s.retired 4 sp then { s with sense := { s.sense with spare := wr s.sense.spare g (p, true) } }
    else s
  let placed := old.placeGroup new g
  let pairs := ((List.range 16).filter (fun a => decide (a % 2 = 0))).map (fun a => 17 * g + a)
  pairs.foldl (fun t q =>
    if ((old.converter q).isSome, (old.converter (pairMate q)).isSome) =
        ((t.converter q).isSome, (t.converter (pairMate q)).isSome) then t
    else State.pairEvents old t q) placed

/-- A restored ADC core takes back its tables at the tick (R377). -/
def State.restoreCore (old s : State) (p : Nat) : State :=
  let g := p / 17
  let new : State :=
    match find? s.sense.spare g with
    | some (q, _) => if q = p then { s with sense := { s.sense with spare := del s.sense.spare g } } else s
    | none => s
  old.placeGroup new g

/-! ## Correction (R402, R126) -/

/-- The corrected code of a raw conversion, before the clamp (R402). -/
def State.correct (s : State) (core x range : Nat) (raw : Int) : Int :=
  let a := rd s.cal.adc core (16384, 0)
  let t := rd s.cal.tia (4 * x + range) (16384, 0)
  256 + roundDiv (((raw - a.2) * a.1 - (256 + t.2) * 2 ^ 14) * t.1) (2 ^ 28)

/-- A check conversion's result: ADC gain and offset only (R122). -/
def State.correctCheck (s : State) (core : Nat) (raw : Int) : Int :=
  let a := rd s.cal.adc core (16384, 0)
  roundDiv ((raw - a.2) * a.1) (2 ^ 14)

/-- The sample word of a conversion of a channel (R123, R126). -/
def State.sampleOf (s : State) (core x : Nat) (raw : Int) (filter urgent : Bool) : W32 :=
  let c := s.sch x
  let v := s.correct core x c.range raw
  let settling := match c.changed with | some f => decide (s.clk.frame < f + 4) | none => false
  let test := s.sense.inject.any (fun e => decide (e.2.1 = x))
  sampleWord (clampInt 0 16383 v).toNat (decide (v < 0 ∨ 16383 < v)) filter c.range urgent false test
    (decide (core % 17 = 16)) settling (s.core core).checkFail c.epoch

/-! ## Urgent requests (R120) and anomalies (R369) -/

def UrgentSource.rank : UrgentSource → Nat
  | .proof => 0 | .diagnosis => 1 | .sweep => 2

/-- Queues an urgent request on a core that holds fewer than 16 (R120). A request beyond the 16, of which the manual does not speak,
is dropped. (DESIGN CHOICE, log 33) -/
def State.askUrgent (s : State) (core : Nat) (u : Urgent) : State :=
  let k := s.core core
  if k.urgent.length < 16 then s.setCore core { k with urgent := k.urgent ++ [u] } else s

/-- A request is eligible at boundary b of this frame (R120). -/
def Urgent.eligible (u : Urgent) (frame b : Nat) : Bool := decide (u.frame < frame) || decide (u.cycle ≤ b)

/-- The eligible request that is served first (R120): those of an earlier frame before those of a later one, within a frame by source,
then by arrival. The characterisation sweeps of chapter 12 take the samples of the scan and post none. (DEDUCED, log 33) -/
def nextUrgent (l : List Urgent) (frame b : Nat) : Option Urgent :=
  let e := l.filter (fun u => u.eligible frame b)
  let key (u : Urgent) : Nat := 3 * min u.frame frame + u.source.rank
  e.foldl (fun best u => match best with
    | none => some u
    | some v => if key u < key v then some u else some v) none

/-- The position of a boundary for a request that may only start in the next frame. -/
def nextFrameOnly : Nat := 1000000

/-- An ADC anomaly: ADC_ANOMALY is raised, and a check of the same core is queued for the next frame (R369). -/
def State.anomaly (s : State) (core : Nat) (retry : Nat × Nat) : State :=
  (s.raise 31 .m { kind := 4, unit := core, reason := if retry.1 = 1 then 5 else 6 }).askUrgent core
    { source := .diagnosis, sense := none, cycle := nextFrameOnly, frame := s.clk.frame, filter := false,
      retry := some retry }

/-- A check conversion (R122) and what its result charges (R369). A retry that fails is a further failure with its own event (R367). -/
def State.check (s : State) (core : Nat) (raw : Int) (retry : Option (Nat × Nat)) (posted : Nat) : State :=
  let v := s.correctCheck core raw
  let ok := decide (7976 ≤ v ∧ v ≤ 8024)
  let s1 := s.setCore core { s.core core with checkFail := !ok }
  let n := s.clk.frame
  match retry with
  | none => if ok then s1 else (s1.fail 4 core 5 n [] true false).anomaly core (1, 0)
  | some (k, x) =>
    if k = 1 then (if ok then s1 else s1.fail 4 core 5 n [31] true false)
    else if ok then s1.fail 2 x 6 posted [36] (!rd s1.sense.dacSuspect (senseGroup x) false) false
    else (s1.fail 4 core 6 posted [] true false).fail 4 core 5 n [31] true false

/-- A sample is delivered to the proof items that wait for its tap (R238): input tap 4,608 + i, output tap 5,120 + e. -/
def State.proofSample (s : State) (x : Nat) (w : W32) : State :=
  { s with imp := { s.imp with items := s.imp.items.map (fun it =>
      if it.frame = s.clk.frame ∧ 4608 + it.ingress = x then { it with yIn := some w }
      else if it.frame = s.clk.frame ∧ 5120 + it.egress = x then { it with yOut := some w }
      else it) } }

/-- A conversion of a channel: its word is stored as the frame's sample when it is a scan conversion or replaces one, and
delivered to the proof when it is asked for by it (R121, R124). The word that CHANNEL_READ returns is that of the last conversion, not
the MISSING word with which a frame begins (DEDUCED, log 33). A sample at the lower limit is an anomaly (R369), of a retired channel
too, which is converted as before (R592). -/
def State.convert (s : State) (core x : Nat) (raw : Int) (filter urgent store proof : Bool) : State :=
  let w := s.sampleOf core x raw filter urgent
  let s1 : State :=
    if store then
      ({ s with sense := { s.sense with bankNow := wr s.sense.bankNow x w } } : State).modSch x (fun c => { c with last := w })
    else s
  let s2 := if proof then s1.proofSample x w else s1
  if wOvr w && decide (wCode w = 0) && s.sensePresent x then s2.anomaly core (2, x) else s2

/-! ## The choice at a boundary (R119) -/

/-- The table of this frame (R117). -/
def AdcCore.table (k : AdcCore) (frame : Nat) : List W16 := if frame % 2 = 0 then k.even else k.odd

/-- The pending entries at the tick: the valid ones (R117, R119). -/
def validEntries (t : List W16) : List Nat :=
  (List.range t.length).filter (fun e => match t[e]? with | some w => tb w.toNat 15 | none => false)

/-- The channel and the filter of an entry. -/
def entryOf (t : List W16) (e : Nat) : Option (Nat × Bool) := (t[e]?).map (fun w => (fld w.toNat 0 13, tb w.toNat 13))

/-- A channel is under a path test or a calibration step (R135, R327). -/
def State.injected (s : State) (x : Nat) : Bool := s.sense.inject.any (fun e => decide (e.2.1 = x))

/-- An entry of a table is converted: under a lease every one, without one those under test or calibration (R327). -/
def State.mayConvert (s : State) (t : List W16) (e : Nat) : Bool :=
  match entryOf t e with
  | some (x, _) => s.pair.held || s.injected x
  | none => false

/-- ⌊(T − 5,280) ÷ 120⌋ (R27). -/
def urgentCapacity (t : Nat) : Nat := (t - 5280) / 120

/-- A core makes no conversion of its own: it measures itself in a calibration step (R403), or is retired. -/
def State.coreOff (s : State) (core : Nat) : Bool :=
  s.retired 4 core ||
    (match s.scope (core / 17) with
     | sc =>
       match sc.running with
       | none => false
       | some f =>
         let d := s.clk.frame - f
         if !s.pair.held then decide (d < 8)
         else if core % 17 = 16 then decide (d < 8) && (find? s.sense.spare (core / 17)).isNone
         else (match find? s.sense.spare (core / 17) with | some (q, r) => !r && decide (q = core) | none => false))

/-- A core is changed in place. -/
def State.modCore (s : State) (core : Nat) (f : AdcCore → AdcCore) : State := s.setCore core (f (s.core core))

/-- The pending entry of a table that a proof request replaces (R120). -/
def AdcCore.replaces (k : AdcCore) (t : List W16) (u : Urgent) : Option Nat :=
  match u.source, u.sense with
  | .proof, some x => k.pending.find? (fun e => decide ((entryOf t e).map Prod.fst = some x))
  | _, _ => none

/-- A proof request is converted in place of a pending entry (R120). -/
def State.serveProof (s : State) (core : Nat) (raw : Int) (t : List W16) (u : Urgent) (e : Nat) : State :=
  ((s.tally 0x400 1).modCore core (fun k => { k with pending := k.pending.erase e, urgent := k.urgent.erase u })).convert
    core (((entryOf t e).map Prod.fst).getD 0) raw true true true true

/-- An urgent request takes a boundary of the urgent capacity (R120). -/
def State.serveUrgent (s : State) (core : Nat) (raw : Int) (u : Urgent) : State :=
  let s1 := (s.tally 0x400 1).modCore core (fun k => { k with used := k.used + 1, urgent := k.urgent.erase u })
  match u.sense with
  | some x => s1.convert core x raw u.filter true false (u.source == .proof)
  | none => s1.check core raw u.retry u.frame

/-- The next pending entry that may be converted, and after the last the check reference (R119, R122, R327). -/
def State.serveEntry (s : State) (core : Nat) (raw : Int) (t : List W16) (k : AdcCore) : State :=
  match k.pending.find? (s.mayConvert t) with
  | some e =>
    let s1 := s.modCore core (fun k => { k with pending := k.pending.erase e })
    match entryOf t e with
    | some (x, filter) => s1.convert core x raw filter false true false
    | none => s1
  | none => if k.checkDone then s else (s.modCore core (fun k => { k with checkDone := true })).check core raw none s.clk.frame

/-- One boundary of a core (R119): a proof request whose entry is pending, an urgent request within the capacity, the
first pending entry, the check, or nothing. (DESIGN CHOICE, log 23) -/
def State.boundary (s : State) (core : Nat) (raw : Int) (len : Nat) : State :=
  let k := s.core core
  let b := k.boundary
  let n := s.clk.frame
  let t := k.table n
  let s0 := s.setCore core { k with boundary := b + 120 }
  match k.urgent.filter (fun u => u.eligible n b && (k.replaces t u).isSome) with
  | u :: _ => s0.serveProof core raw t u ((k.replaces t u).getD 0)
  | [] =>
    match (if k.used < urgentCapacity len then nextUrgent k.urgent n b else none) with
    | some u => s0.serveUrgent core raw u
    | none => s0.serveEntry core raw t k

/-- A conversion boundary of one core (R119). The clock is carried to the boundary. A pair that interleaves converts the
captured channel (R133, R134). (DESIGN CHOICE, log 3) -/
def execConversionBoundary (core : Nat) (raw : Int) (s : State) : Host.Outcome State Fault Refusal :=
  if 136 ≤ core then .fault .noSuchUnit
  else if !s.runs || s.sys.mode == .reset then .next s
  else
    let len := s.frameLen
    let k := s.core core
    if len < k.boundary + 120 || s.coreOff core then .next s
    else
      let s1 := s.atCycle k.boundary
      match s1.sense.capture with
      | some cap =>
        if pairOf core = cap.pair ∧ core % 17 ≠ 16 then
          let w := s1.sampleOf core cap.sense raw cap.filter false
          let s2 := s1.setCore core { k with boundary := k.boundary + 120 }
          .next (if cap.words.length < 16384 then
            { s2 with sense := { s2.sense with capture := some { cap with words := cap.words ++ [w] } } } else s2)
        else .next (s1.boundary core raw len)
      | none => .next (s1.boundary core raw len)

/-! ## The tick (R22, R118, R124) -/

/-- The banks swap at a tick (R22, R124). -/
def State.swapBanks (s : State) : State := { s with sense := { s.sense with bankPrev := s.sense.bankNow, bankNow := [] } }

/-- The first boundary of a core in a frame: the grid of the second core of a pair that interleaves is offset by 60 cycles (R133). -/
def State.firstBoundary (s : State) (core : Nat) : Nat :=
  match s.sense.capture with
  | some cap => if pairOf core = cap.pair ∧ core % 17 % 2 = 1 then 60 else 0
  | none => 0

/-- Every core begins the frame with its shadow tables and the entries of the frame's table (R117 to R120). -/
def State.startCores (s : State) : State :=
  let n := s.clk.frame
  let deferred := (s.sense.cores.flatMap (fun e => e.2.urgent.filter (fun u => decide (u.cycle < nextFrameOnly)))).length
  let s := s.tally 0x401 deferred
  { s with sense := { s.sense with
      cores := s.sense.cores.map (fun e =>
        let k := e.2
        let tabs := k.shadow.getD (k.even, k.odd)
        let k1 : AdcCore :=
          { k with even := tabs.1, odd := tabs.2, shadow := none, used := 0, checkDone := false, boundary := s.firstBoundary e.1 }
        (e.1, { k1 with pending := validEntries (k1.table n) })) } }

/-- The channel is captured: its TIA range is held (R134). -/
def State.captured (s : State) (x : Nat) : Bool := match s.sense.capture with | some cap => decide (cap.sense = x) | none => false

/-- A TIA range takes effect at this tick (R113); the range of a captured channel is held (R134). (DEDUCED, log 32) -/
def State.setTia (s : State) (x range : Nat) : State :=
  if (s.sch x).range = range ∨ s.captured x then s
  else (s.keepWord x).modSch x (fun c => { c with range := range, changed := some s.clk.frame })

/-- A channel takes a range for a test or a calibration step, and the range that it returns to is kept (R138). -/
def State.borrowTia (s : State) (x range : Nat) : State :=
  let s1 : State := match find? s.sense.rangeBack x with
    | some _ => s
    | none => { s with sense := { s.sense with rangeBack := wr s.sense.rangeBack x (s.sch x).range } }
  s1.setTia x range

/-- A channel returns to its range (R138); a captured one at the end of the capture (R134). -/
def State.returnTia (s : State) (x : Nat) : State :=
  match find? s.sense.rangeBack x with
  | none => s
  | some r =>
    if s.captured x then s
    else ({ s with sense := { s.sense with rangeBack := del s.sense.rangeBack x } } : State).setTia x r

/-- A new TIA range of a channel (R181, R352, R518): while the channel is under test, calibration or capture, the range that it
returns to. -/
def State.writeTia (s : State) (x range : Nat) : State :=
  if (find? s.sense.rangeBack x).isSome || s.captured x then
    { s with sense := { s.sense with rangeBack := wr s.sense.rangeBack x range } }
  else s.setTia x range

/-- Every channel that satisfies p returns to its range. -/
def State.returnTias (s : State) (p : Nat → Bool) : State :=
  (s.sense.rangeBack.filter (fun e => p e.1)).foldl (fun t e => t.returnTia e.1) s

/-! ## Path tests (R135 to R138, R368) -/

def PathTest.init : PathTest := { pos := 0, phase := 0, range := 0, base := 0 }

/-- The sense channel of a position in a group's sweep. -/
def testChannel (g pos : Nat) : Nat := 128 * (pos / 16) + 16 * g + pos % 16

/-- A path test is judged (R136): baseline 256 ± 64, difference 12,000 ± 120. A failure is counted against the channel
unless the group's test DAC is suspect (R368). (DESIGN CHOICE, log 33) -/
def State.judgeTest (s : State) (g x : Nat) (base second : W32) : State :=
  let d : Int := (wCode second : Int) - wCode base
  let ok := decide (192 ≤ wCode base ∧ wCode base ≤ 320 ∧ 11880 ≤ d ∧ d ≤ 12120) && !wOvr second && !wOvr base
  let s1 : State := { s with faults := { s.faults with pathTests := s.faults.pathTests + 1 } }
  if ok then
    { s1 with sense := { s1.sense with testFails := wr s1.sense.testFails g 0, dacSuspect := wr s1.sense.dacSuspect g false } }
  else
    let fails := rd s1.sense.testFails g 0 + 1
    let s2 : State := { s1 with
      faults := { s1.faults with pathFailed := s1.faults.pathFailed + 1 },
      sense := { s1.sense with testFails := wr s1.sense.testFails g (fails % 8) } }
    let s3 : State :=
      if fails < 8 then s2
      else
        let s3 : State := { s2 with sense := { s2.sense with
          testStop := wr s2.sense.testStop g (s2.clk.frame + 1408), dacSuspect := wr s2.sense.dacSuspect g true } }
        if rd s2.sense.dacSuspect g false then s3
        else (groupChannels g).foldl (fun t y => t.withdraw 2 y) (s3.raise 34 .m { kind := 8, unit := g })
    s3.fail 2 x 4 (s3.clk.frame - 1) [35] (!rd s3.sense.dacSuspect g false) false

/-- The path test of one group at a tick in Standby (R138): a baseline frame, an injection frame, the judgement on samples of the
channel's present placement (R125). Every channel of the sweep has its two frames; the test of an idle or retired channel, and one
whose channel was not converted in both frames, is neither judged nor counted. (DESIGN CHOICE, log 33) -/
def State.testTick (s : State) (g : Nat) : State :=
  let t := rd s.sense.test g .init
  let x := testChannel g t.pos
  let put (s : State) (t : PathTest) (inj : Option (Nat × Nat × Nat)) : State :=
    { s with sense := { s.sense with test := wr s.sense.test g t,
                                     inject := match inj with | some i => wr s.sense.inject g i | none => del s.sense.inject g } }
  let s1 :=
    if t.phase = 2 then
      let w := s.sample x
      let fresh (w : W32) : Bool := !wMissing w && decide (wEpoch w = (s.sch x).epoch)
      let s1 := if fresh w && fresh t.base && s.sensePresent x && !s.retired 2 x then s.judgeTest g x t.base w else s
      let pos := (t.pos + 1) % 704
      put (s1.returnTia x) { t with pos := pos, phase := 0, range := if pos = 0 then (t.range + 1) % 4 else t.range } none
    else s
  let t1 := rd s1.sense.test g .init
  if t1.phase = 1 then put s1 { t1 with phase := 2, base := s1.sample x } (some (x, 3072, t1.range))
  else if rd s1.sense.testStop g 0 ≤ s1.clk.frame ∧ (s1.scope g).running.isNone then
    let y := testChannel g t1.pos
    put (s1.borrowTia y t1.range) { t1 with phase := 1 } (some (y, 0, t1.range))
  else s1

/-- The self-test stops: the channels in test take their ranges back (R138). -/
def State.stopTests (s : State) : State :=
  (List.range 8).foldl (fun s g =>
    let t := rd s.sense.test g .init
    if t.phase = 0 then s
    else
      let s1 := s.returnTia (testChannel g t.pos)
      { s1 with sense := { s1.sense with test := wr s1.sense.test g { t with phase := 0 },
                                         inject := del s1.sense.inject g } }) s

/-- The path tests of every group at a tick: they run in Standby only (R138). -/
def State.pathTests (s : State) : State :=
  if s.sys.mode = .standby then (List.range 8).foldl State.testTick s else s

/-! ## Captures (R133, R134) -/

/-- The epochs of the channels of a pair advance. -/
def State.pairEpochs (s : State) (p : Nat) : State :=
  let c := 17 * (p / 8) + 2 * (p % 8)
  ((List.range 44).flatMap (fun e => [homeChannel c e, homeChannel (c + 1) e])).foldl State.advanceEpoch s

/-- A core is listed, so that the frame's first boundary is its own. -/
def State.listCore (s : State) (c : Nat) : State := s.setCore c (s.core c)

/-- A capture starts at this tick (R133). Its permission was judged when the command was accepted and is not judged again.
(DESIGN CHOICE, log 33) -/
def State.startCapture (s : State) (c : CmdRef) (iova pair index filter range : Nat) : State :=
  let s1 := if range < 4 then s.setTia index range else s
  let s2 := s1.pairEpochs pair
  let core := 17 * (pair / 8) + 2 * (pair % 8)
  let cap : Capture := { cmd := c, iova := iova, pair := pair, sense := index, filter := decide (filter = 1),
                         startFrame := s.clk.frame, words := [] }
  (({ s2 with sense := { s2.sense with capture := some cap } } : State).listCore core).listCore (core + 1)

/-- A capture stops at this tick (R133): the epochs advance, the channel takes a range that was written meanwhile (R134), and the
words go to the buffer (R522). -/
def State.stopCapture (s : State) : State :=
  match s.sense.capture with
  | none => s
  | some cap =>
    let s1 : State := (({ s with sense := { s.sense with capture := none } } : State).pairEpochs cap.pair).returnTia cap.sense
    s1.newXfer (srcDom cap.cmd.src)
      (.write cap.cmd stOk [(0, cap.startFrame % 2 ^ 32), (4, cap.pair)]) false true cap.iova 65536
      (cap.words.flatMap (fun w => bytesLE 4 w.toNat))

/-- The capture ends at the first tick after its 16,384 conversions are made (R133, R522). (DESIGN CHOICE, log 33) -/
def execCaptureEnd (s : State) : Host.Outcome State Fault Refusal :=
  match s.sense.capture with
  | none => .next s
  | some cap =>
    if cap.words.length < 16384 || s.atTick.contains .captureEnd then .next s else .next (s.atTickNow .captureEnd State.stopCapture)

end Sys2Proof.Machine
end

