-- ==== Sys2Proof/Machine/Burin.lean ====
section
/-! DEFINITION. The Burin engine's routing model (R205 to R218): changes, connections, the looping algorithm with pins and
base, disturbance, and the bytes of the plate that a job writes. -/

namespace Sys2Proof.Machine

/-! ## Changes of a delta route (R205) -/

/-- The working permutation (512 entries, 0x3FF for none), the working targets (1,024), and the refused ingresses. -/
structure Working where
  perm : List Nat
  targets : List Nat
  refused : List Nat
  deriving DecidableEq, Repr

/-- The circuit of an ingress in a working permutation. -/
def Working.egress (w : Working) (i : Nat) : Option Nat :=
  match w.perm[i]? with
  | some e => if e < 512 then some e else none
  | none => none

/-- The ingresses that carry a circuit to an egress: more than one only where a base, whose content nothing checks (R199), says so. -/
def Working.ingresses (w : Working) (e : Nat) : List Nat := (List.range 512).filter (fun i => w.egress i == some e)

/-- Removes the circuit of an ingress: its egress goes to BLOCK (R205). -/
def Working.remove (w : Working) (i : Nat) : Working :=
  match w.egress i with
  | some e => { w with perm := w.perm.set i 0x3FF, targets := w.targets.set (512 + e) 0x8000 }
  | none => w

/-- The target of an egress is set from P; 0x7FFF leaves it (R205). -/
def Working.aim (w : Working) (e p : Nat) : Working :=
  if p = 0x7FFF then w else { w with targets := w.targets.set (512 + e) p }

def Working.add (w : Working) (i e p : Nat) : Working :=
  ({ w with perm := w.perm.set i e } : Working).aim e p

/-- One change (R205): action 0 CONNECT, 1 DISCONNECT, 2 REPLACE. -/
def Working.change (w : Working) (c : Change) : Working :=
  if c.action = 0 then
    if w.egress c.ingress = some c.egress then w.aim c.egress c.target
    else if (w.egress c.ingress).isSome || !(w.ingresses c.egress).isEmpty then
      { w with refused := if w.refused.contains c.ingress then w.refused else c.ingress :: w.refused }
    else w.add c.ingress c.egress c.target
  else if c.action = 1 then w.remove c.ingress
  else
    let w1 := w.remove c.ingress
    let w2 := (w1.ingresses c.egress).foldl Working.remove w1
    w2.add c.ingress c.egress c.target

/-! ## Connections (R206) -/

/-- A connection at a node (R207): local input, local output, ingress port. -/
structure Conn where
  a : Nat
  e : Nat
  i : Nat
  deriving DecidableEq, Repr

/-- What the engine routes against: geometry, base cells, pins, carrying cells. -/
structure RouteEnv where
  g : Geo
  base : Option Nat
  pinned : Nat
  pinState : Nat
  carrying : Nat
  deriving DecidableEq, Repr

/-- The connection list and the ingresses left unrealised with IDLE_PORT (1) and EGRESS_TAKEN (2) (R206). -/
def connections (bytes : List Byte) (g : Geo) (perm : List Nat) : List Conn × List (Nat × Nat) :=
  (List.range 512).foldl (fun (r : List Conn × List (Nat × Nat)) i =>
    match perm[i]? with
    | none => r
    | some e =>
      if 512 ≤ e then r
      else if !portIn bytes g i || !portIn bytes g (512 + e) then (r.1, r.2 ++ [(i, 1)])
      else if r.1.any (fun c => decide (c.e = e)) then (r.1, r.2 ++ [(i, 2)])
      else (r.1 ++ [{ a := i, e := e, i := i }], r.2)) ([], [])

/-! ## Components and sides (R208 to R210) -/

/-- Two connections are linked: they share a left or a right cell. -/
def Conn.linked (x y : Conn) : Bool := decide (x.a / 2 = y.a / 2 ∨ x.e / 2 = y.e / 2)

/-- The component that grows from a coloured frontier, and the connections left. -/
def growComponent : Nat → List (Conn × Bool) → List (Conn × Bool) → List Conn → List (Conn × Bool) × List Conn
  | 0, front, done, rest => (done ++ front, rest)
  | f + 1, front, done, rest =>
    if front.isEmpty then (done, rest)
    else
      let new := rest.filterMap (fun c => (front.find? (fun x => x.1.linked c)).map (fun x => (c, !x.2)))
      growComponent f new (done ++ front) (rest.filter (fun c => !front.any (fun x => x.1.linked c)))

/-- The components of a node in order of their lowest local input, each coloured as candidate A; `l` is in order of local
input. -/
def components : Nat → List Conn → List (List (Conn × Bool))
  | 0, _ => []
  | f + 1, l =>
    match l with
    | [] => []
    | c :: rest =>
      let r := growComponent (rest.length + 1) [(c, false)] [] rest
      r.1 :: components f r.2

/-- The cells of a component and their states under a colouring; `flip` takes candidate B. -/
def compCells (g : Geo) (d b : Nat) (comp : List (Conn × Bool)) (flip : Bool) : List (Nat × Bool) :=
  (comp.flatMap (fun x =>
    let t := x.2 != flip
    [(256 * d + b / 2 + x.1.a / 2, decide (x.1.a % 2 = 1) != t),
     (256 * (g.stages - 1 - d) + b / 2 + x.1.e / 2, decide (x.1.e % 2 = 1) != t)])).dedup

/-- A candidate breaks no pin (R208). -/
def pinsOk (env : RouteEnv) (cells : List (Nat × Bool)) : Bool :=
  cells.all (fun c => !tb env.pinned c.1 || tb env.pinState c.1 == c.2)

/-- Carrying cells, and cells, that a candidate changes against the base (R210). -/
def changes (env : RouteEnv) (base : Nat) (cells : List (Nat × Bool)) : Nat × Nat :=
  let ch := cells.filter (fun c => tb base c.1 != c.2)
  ((ch.filter (fun c => tb env.carrying c.1)).length, ch.length)

/-- The candidate that rules 1 and 2 prefer: true for the second, none where they do not separate them (R210). -/
def preferred (env : RouteEnv) (x y : List (Nat × Bool)) : Option Bool :=
  match env.base with
  | none => none
  | some b =>
    let p := changes env b x
    let q := changes env b y
    if p.1 ≠ q.1 then some (decide (q.1 < p.1))
    else if p.2 ≠ q.2 then some (decide (q.2 < p.2))
    else none

/-- The pin rule (R209): while a component has no candidate, its connection with the highest ingress is dropped. -/
def pinRule (env : RouteEnv) (d b : Nat) : Nat → List Conn → List Nat → List Conn × List Nat
  | 0, l, dropped => (l, dropped)
  | f + 1, l, dropped =>
    let bad := (components l.length l).find? (fun comp =>
      !pinsOk env (compCells env.g d b comp false) && !pinsOk env (compCells env.g d b comp true))
    match bad with
    | none => (l, dropped)
    | some comp =>
      let top := comp.foldl (fun m x => max m x.1.i) 0
      pinRule env d b f (l.filter (fun c => decide (c.i ≠ top))) (dropped ++ [top])

/-- The side of every connection of a component under the choice rule (R210). -/
def chooseSide (env : RouteEnv) (d b : Nat) (comp : List (Conn × Bool)) : List (Conn × Bool) :=
  let ca := compCells env.g d b comp false
  let cb := compCells env.g d b comp true
  let flip :=
    if !pinsOk env ca then true
    else if !pinsOk env cb then false
    else (preferred env ca cb).getD false
  comp.map (fun x => (x.1, x.2 != flip))

/-! ## The middle (R212) -/

/-- The candidate states of the middle cells of a two-line node for the function f. -/
def middleCandidates (g : Geo) (b : Nat) (f : Bool) : List (List (Nat × Bool)) :=
  if g.plus then
    [[(256 * (g.mid - 1) + b / 2, false), (256 * g.mid + b / 2, f)],
     [(256 * (g.mid - 1) + b / 2, true), (256 * g.mid + b / 2, !f)]]
  else [[(256 * g.mid + b / 2, f)]]

/-- The states of the middle cells and the dropped ingresses (R212). -/
def routeMiddle (env : RouteEnv) (b : Nat) : Nat → List Conn → List Nat → List (Nat × Bool) × List Nat
  | 0, _, dropped => ([], dropped)
  | fuel + 1, l, dropped =>
    match l with
    | [] => ([], dropped)
    | c :: _ =>
      let cands := (middleCandidates env.g b (decide (c.a ≠ c.e))).filter (pinsOk env)
      match cands with
      | [] =>
        let top := l.foldl (fun m x => max m x.i) 0
        routeMiddle env b fuel (l.filter (fun c => decide (c.i ≠ top))) (dropped ++ [top])
      | [x] => (x, dropped)
      | x :: y :: _ =>
        match preferred env x y with
        | some second => (if second then y else x, dropped)
        | none =>
          let keep := match env.base with | some m => tb m (256 * (env.g.mid - 1) + b / 2) | none => false
          (if keep then y else x, dropped)

/-! ## The recursion (R207) -/

/-- The cell states that connections set, and the ingresses dropped with PIN_CONFLICT, of a node of 2^w lines. -/
def routeNode (env : RouteEnv) : Nat → Nat → Nat → List Conn → List (Nat × Bool) × List Nat
  | 0, _, _, _ => ([], [])
  | w + 1, d, b, conns =>
    if w = 0 then routeMiddle env b (conns.length + 1) conns []
    else
      let p := pinRule env d b conns.length conns []
      let sides := (components p.1.length p.1).flatMap (chooseSide env d b)
      let cells := compCells env.g d b sides false
      let side (t : Bool) : List Conn :=
        (p.1.filter (fun c => sides.any (fun x => decide (x.1 = c) && x.2 == t))).map
          (fun c => { a := c.a / 2, e := c.e / 2, i := c.i })
      let up := routeNode env w (d + 1) b (side false)
      let low := routeNode env w (d + 1) (b + 2 ^ w) (side true)
      (cells ++ up.1 ++ low.1, p.2 ++ up.2 ++ low.2)

/-- The result of a job: the cell map, the realised connections, the REASON of each unrealised ingress. -/
structure Routed where
  cells : Nat
  realised : List (Nat × Nat)
  unrealised : List (Nat × Nat)
  deriving DecidableEq, Repr

/-- The state of a cell that no connection reaches (R211). -/
def restState (env : RouteEnv) (c : Nat) : Bool :=
  if tb env.pinned c then tb env.pinState c
  else match env.base with
    | some b => tb b c
    | none => false

/-- A job's result from the permutation, the base image, the descriptor bytes and the pins read at its start (R206 to
R213, R215). -/
def routeJob (bytes : List Byte) (g : Geo) (perm : List Nat) (base : Option PlateImg) (pinned pinState : Nat) : Routed :=
  let cl := connections bytes g perm
  let carrying := match base with
    | none => 0
    | some b =>
      (cl.1.filter (fun c => b.egress c.i == some c.e)).foldl
        (fun m c => (g.trace b.cells c.i).1.foldl (fun m x => m ||| 2 ^ x) m) 0
  let env : RouteEnv := { g := g, base := base.map PlateImg.cells, pinned := pinned, pinState := pinState, carrying := carrying }
  let r := routeNode env g.n 0 0 cl.1
  let rest := g.cells.foldl (fun m c => if restState env c then m ||| 2 ^ c else m) 0
  let cells := r.1.foldl (fun m c => setFld m c.1 1 (bit c.2)) rest
  { cells := cells,
    realised := (cl.1.filter (fun c => !r.2.contains c.i)).map (fun c => (c.i, c.e)),
    unrealised := cl.2 ++ r.2.map (fun i => (i, 3)) }

/-- The trace check of R220. -/
def traceOk (g : Geo) (r : Routed) (pinned pinState : Nat) : Bool :=
  r.realised.all (fun c =>
    let t := g.trace r.cells c.1
    decide (t.2 = c.2) && t.1.all (fun x => !tb pinned x || tb r.cells x == tb pinState x))

/-- The disturbed ingresses (R214). -/
def disturbed (g : Geo) (base : Option PlateImg) (r : Routed) : List Nat :=
  match base with
  | none => []
  | some b =>
    (r.realised.filter (fun c => b.egress c.1 == some c.2 &&
      (g.trace b.cells c.1).1.any (fun x => tb b.cells x != tb r.cells x))).map Prod.fst

/-- The present cells whose state differs from the base (R194). -/
def cellsChanged (g : Geo) (base : Option PlateImg) (r : Routed) : Nat :=
  match base with
  | none => 0
  | some b => (g.cells.filter (fun c => tb b.cells c != tb r.cells c)).length

/-! ## The plate that a job writes (R194, R197, R218) -/

/-- The four counts that a completion returns (R219), and PARTIAL. -/
structure RouteCounts where
  circuits : Nat
  unrealised : Nat
  disturbed : Nat
  changed : Nat
  partialPlate : Bool
  deriving DecidableEq, Repr

def bitmap (l : List Nat) : Nat := l.foldl (fun m i => m ||| 2 ^ i) 0

/-- REASON of an ingress (R197). -/
def reasonOf (r : Routed) (refused : List Nat) (i : Nat) : Nat :=
  match r.unrealised.find? (fun u => decide (u.1 = i)) with
  | some u => u.2
  | none => if refused.contains i then 4 else 0

def routeCounts (g : Geo) (base : Option PlateImg) (r : Routed) (refused : List Nat) : RouteCounts :=
  { circuits := r.realised.length, unrealised := r.unrealised.length, disturbed := (disturbed g base r).length,
    changed := cellsChanged g base r, partialPlate := !r.unrealised.isEmpty || !refused.isEmpty }

/-- The writes of a job into its plate, as (offset, bytes) (R218): the header, PERM, CELLS, the report, and for a delta
route the targets. `old` is the plate before, whose reserved bytes and bits stand. -/
def plateWrites (r : Running) (res : Routed) (g : Geo) (old : List Byte) (time epoch cycles : Nat) :
    List (Nat × List Byte) :=
  let delta := r.job.delta.isSome
  let cts := routeCounts g r.base res r.refused
  let flags := fieldB old 4 2 / 8 * 8 + 1 + 2 * bit cts.partialPlate + 4 * bit r.base.isSome
  let head := bytesLE 2 flags ++ bytesLE 2 r.basePlate ++ bytesLE 2 cts.circuits ++ bytesLE 2 cts.unrealised ++
    bytesLE 2 cts.disturbed ++ bytesLE 2 cts.changed ++ bytesLE 8 time ++ bytesLE 4 epoch ++
    bytesLE 1 (fieldB old 0x1C 1 / 8 * 8 + g.code) ++ bytesLE 1 (if delta then 2 else 1) ++
    bytesLE 2 (min 65535 cycles)
  let perm := (List.range 512).map (fun i => match res.realised.find? (fun c => decide (c.1 = i)) with
    | some c => c.2
    | none => 0x3FF)
  let reasons := bytesLE 256 (pack ((List.range 512).map (fun i => (4, reasonOf res r.refused i))))
  (if delta then [(0, bytesLE 4 r.tag)] else []) ++
  [(4, head), (0x40, bytesLE 640 (pack (perm.map (fun e => (10, e))))), (0x2C0, bytesLE 576 res.cells)] ++
  (if delta then [(0x500, r.targets.flatMap (fun t => bytesLE 2 t))] else []) ++
  [(0xD00, bytesLE 64 (bitmap (disturbed g r.base res))), (0xD40, bytesLE 64 (bitmap (res.unrealised.map Prod.fst))),
   (0xD80, reasons)]

/-! ## The plate store (R190, R192, R199) -/

/-- Bytes are written into a plate slot; a word that is wholly written is good again (R192). -/
def State.writePlate (s : State) (p off : Nat) (l : List Byte) : State :=
  let a := 4096 * p + off
  { s with burin := { s.burin with
      store := Mem.store plateDefault s.burin.store a l,
      badWords := s.burin.badWords.filter (fun w => !decide (a ≤ 8 * w ∧ 8 * w + 8 ≤ a + l.length)),
      softWords := s.burin.softWords.filter (fun w => !decide (a ≤ 8 * w ∧ 8 * w + 8 ≤ a + l.length)) } }

/-- A read of bytes of a plate meets a word with an uncorrectable error (R192). -/
def State.badIn (s : State) (p off len : Nat) : Bool :=
  let a := 4096 * p + off
  s.burin.badWords.any (fun w => decide (a < 8 * w + 8 ∧ 8 * w < a + len))

/-- A read of bytes of a plate corrects the single-bit errors that it meets, and raises PLATE_ECC_CORR (R192): once for the read. -/
def State.eccCorrect (s : State) (p off len : Nat) : State :=
  let a := 4096 * p + off
  let met (w : Nat) : Bool := decide (a < 8 * w + 8 ∧ 8 * w < a + len)
  if s.burin.softWords.any met then
    ({ s with burin := { s.burin with softWords := s.burin.softWords.filter (fun w => !met w) } } : State).raise 10 .m { unit := p }
  else s

/-- The image of a plate slot as the impression unit reads it (R198, R229). -/
def State.plateImg (s : State) (p : Nat) : PlateImg := imgOfBytes (s.plateBytes p 0x40 3264)

/-! ## Job start (R203, R204) -/

/-- The pins in force as bitmaps of pinned cells and of their states. -/
def State.pinMaps (s : State) : Nat × Nat :=
  s.geo.cells.foldl (fun (m : Nat × Nat) c => match s.pin c with
    | some st => (m.1 ||| 2 ^ c, if st then m.2 ||| 2 ^ c else m.2)
    | none => m) (0, 0)

/-- The parts of the plate store that a job reads, as (plate, offset, length): its base slot, of a delta route with the tag
(R194), and the permutation of a full route (R201, R203). -/
def Job.reads (j : Job) : List (Nat × Nat × Nat) :=
  (if j.base < 512 then (if j.delta.isSome then [(j.base, 0, 4)] else []) ++ [(j.base, 0x40, 3264)] else []) ++
    (if j.delta.isNone then [(j.dest, 0x40, 640)] else [])

/-- What a job reads at its start (R201 to R203, R205). -/
def State.readJob (s : State) (j : Job) : Running :=
  let base : Option PlateImg :=
    if j.base < 512 then some (s.plateImg j.base) else if j.base = 0xFFFE then s.imp.applied else none
  let code := if j.base = 0xFFFE ∧ s.imp.applied.isNone then 0xFFFF else j.base
  let pins := s.pinMaps
  let blank : Working :=
    { perm := match base with
        | some b => b.perm.map (fun e => if e < 512 then e else 0x3FF)
        | none => List.replicate 512 0x3FF,
      targets := match base with | some b => b.targets | none => List.replicate 1024 0x8000, refused := [] }
  let w : Working := match j.delta with
    | some l => l.foldl Working.change blank
    | none => { perm := (s.plateImg j.dest).perm, targets := [], refused := [] }
  { job := j, base := base, basePlate := code, tag := if j.base < 512 then fieldB (s.plateBytes j.base 0 4) 0 4 else 0,
    perm := w.perm, targets := w.targets, refused := w.refused, bytes := s.desc.bytes, legacy := s.legacyGeo,
    pinned := pins.1, pinState := pins.2,
    bad := (j.reads).any (fun r => s.badIn r.1 r.2.1 r.2.2), startTime := s.ns, startCycle := s.clk.cycles }

/-- The ECC events of a job's reads (R192): PLATE_ECC_CORR for each read that corrects, PLATE_ECC_UNCORR for each plate that holds a
bad word, the base first. (DEDUCED, log 38) -/
def State.readEvents (s : State) (j : Job) : State :=
  let l := j.reads
  let s1 := l.foldl (fun t r => t.eccCorrect r.1 r.2.1 r.2.2) s
  (((l.filter (fun r => s.badIn r.1 r.2.1 r.2.2)).map Prod.fst).dedup).foldl (fun t p => t.raise 11 .m { unit := p }) s1

/-- The Burin engine starts the next queued job (R203, R204). (DEDUCED, log 38) -/
def execRouteJobStart (s : State) : Host.Outcome State Fault Refusal :=
  match s.burin.running, s.burin.queue with
  | none, j :: q =>
    if !s.desc.loaded then .next s
    else .next (({ s with burin := { s.burin with running := some (s.readJob j), queue := q } } : State).readEvents j)
  | _, _ => .next s

end Sys2Proof.Machine
end

