-- ==== Sys2Proof/Machine/Bus.lean ====
section
/-! DEFINITION. The bus matrix (R544 to R552): what R545 permits, transaction IDs and the order of responses, the leaf and root arbiters
with their parking, and the read port of the plate store. -/

namespace Sys2Proof.Machine

/-! ## Masters, targets and leaves (R544, R545, R547) -/

/-- The accesses of R545: CPU0 to CPU3, HDMA 4, BURIN 5, LCFG 6, EDMA 7, MIRR 8, DBG 9. -/
def busPermits (m : Nat) (write : Bool) (t : BusTarget) : Bool :=
  let cpu := decide (m < 4)
  let among (l : List Nat) : Bool := cpu || l.contains m
  match t, write with
  | .plateStore, false => among [4, 5, 8, 9]
  | .plateStore, true => among [4, 5, 8]
  | .queueState, false => among [4, 8, 9]
  | .queueState, true => among [4, 8]
  | .channelState, false | .hatch, false => among [4, 6, 8, 9]
  | .channelState, true | .hatch, true => among [4, 6, 8]
  | .tcm, _ => among [4, 7, 8, 9]
  | .slotTable, false => among [9]
  | .slotTable, true => cpu
  | .config, false => decide (m < 10)
  | .config, true => among [4, 6, 9]
  | .flash, false | .fuse, false => among [9]
  | .flash, true | .fuse, true => cpu
  | .none, _ => false

/-- The port of a target at the root: the hatch RAM stands behind the channel state RAM (R545). -/
def portOf : BusTarget → Nat
  | .plateStore => 0 | .queueState => 1 | .channelState | .hatch => 2 | .tcm => 3 | .slotTable => 4 | .config => 5 | .flash => 6 | .fuse => 7
  | .none => 8

/-- The leaf of a master (R547): C is 0, D is 1, L is 2; and the master on which an idle leaf parks (R551). -/
def leafOf (m : Nat) : Nat := if m < 4 then 0 else if m = 5 ∨ m = 6 then 2 else 1

def leafDefault (l : Nat) : Nat := if l = 0 then 0 else if l = 1 then 4 else 5

/-! ## Arbiters (R547, R550, R551) -/

/-- The requester that comes first after the one granted last, of n in a ring. -/
def afterLast (n last : Nat) (reqs : List Nat) : Option Nat := ((List.range n).map (fun k => (last + 1 + k) % n)).find? reqs.contains

/-- The grant of a leaf for its path to a port (R551). Before the first grant the ring starts at the lowest. (DESIGN CHOICE, log 67) -/
def Bus.leafGrant (b : Bus) (l port : Nat) (reqs : List Nat) : Option Nat :=
  afterLast 10 (rd b.leafLast (16 * l + port) 9) (reqs.filter (fun m => decide (leafOf m = l)))

/-- The leaf on which an idle root arbiter parks: the one granted last (R551); leaf C before the first grant. (DESIGN CHOICE, log 67) -/
def Bus.rootPark (b : Bus) (port : Nat) : Nat := rd b.rootLast port 0

/-- A request that starts on an idle path without a decision cycle (R551): leaf and root are parked on it. -/
def Bus.direct (b : Bus) (m port : Nat) : Bool := decide (m = leafDefault (leafOf m)) && decide (leafOf m = b.rootPark port)

/-- One decision for a port among the masters that request it: each leaf chooses one of its own, the root one of the leaves (R551). -/
def Bus.choose (b : Bus) (port : Nat) (reqs : List Nat) : Option Nat :=
  match afterLast 3 (rd b.rootLast port 2) ([0, 1, 2].filter (fun l => (b.leafGrant l port reqs).isSome)) with
  | some l => b.leafGrant l port reqs
  | none => none

/-- A decision at the read port of the plate store (R547): BURIN first, then CPU0 to CPU3, HDMA and MIRR in turn, DBG last. -/
def Bus.chooseRead (b : Bus) (reqs : List Nat) : Option Nat :=
  if reqs.contains 5 then some 5
  else (afterLast 10 b.readLast (reqs.filter (fun m => decide (m ≠ 9)))).orElse (fun _ => if reqs.contains 9 then some 9 else none)

/-- The arbiters after a master has been granted at a port. -/
def Bus.granted (b : Bus) (m : Nat) (write : Bool) (t : BusTarget) : Bus :=
  if t = .plateStore ∧ write then b
  else { b with leafLast := wr b.leafLast (16 * leafOf m + (portOf t)) m, rootLast := wr b.rootLast (portOf t) (leafOf m),
                readLast := if t = .plateStore ∧ m ≠ 5 ∧ m ≠ 9 then m else b.readLast }

/-! ## Transactions (R549, R552) -/

/-- The ID of a transaction that a master may issue now: the lowest free tag; none while 16 are outstanding (R549). (DESIGN CHOICE, log 67) -/
def Bus.freeId (b : Bus) (m : Nat) : Option Nat :=
  ((List.range 16).map (fun k => 16 * m + k)).find? (fun id => !b.txns.any (fun x => decide (x.id = id)))

/-- A master issues a transaction. -/
def Bus.issue (b : Bus) (id : Nat) (t : BusTarget) (write : Bool) : Bus :=
  { b with txns := b.txns ++ [{ id := id, target := t, write := write, served := false }] }

/-- Responses that may return: those of served transactions with no earlier transaction of the same master to the same target that is
not served (R549). They free their tags. -/
def dropServed (l : List BusTxn) : List BusTxn :=
  let behind (x : BusTxn) : Bool :=
    (l.takeWhile (fun y => decide (y ≠ x))).any (fun y => !y.served && decide (y.id / 16 = x.id / 16) && decide (y.target = x.target))
  l.filter (fun x => !x.served || behind x)

/-- A target has served a transaction. -/
def Bus.respond (b : Bus) (id : Nat) : Bus :=
  { b with txns := dropServed (b.txns.map (fun x => if x.id = id then { x with served := true } else x)) }

/-- Outstanding IDs are flushed (R552). -/
def Bus.flush (b : Bus) (p : Nat → Bool) : Bus := { b with txns := b.txns.filter (fun x => !p x.id) }

/-- A transaction that its target serves within the command: issued, granted on its leaf and at the root, answered. A command is one
step, so no other request meets it (R550). (DESIGN CHOICE, log 67) -/
def State.busAccess (s : State) (m : Nat) (write : Bool) (t : BusTarget) : State :=
  match s.host.bus.freeId m with
  | none => s
  | some id => { s with host := { s.host with bus := ((s.host.bus.issue id t write).granted m write t).respond id } }

end Sys2Proof.Machine
end

