-- ==== Sys2Proof/Machine/Sched.lean ====
section
/-! DEFINITION. Circuit requests (chapter 8): queues, descriptor fetch, checks, policing, arbitration, completions; the
occurrences of the slot table and their gate windows; the sending side of the mirror link that they use. -/

namespace Sys2Proof.Machine

/-! ## Sending on the mirror link (R350, R351) -/

/-- A mirror lane is up. -/
def State.mirrorUp (s : State) : Bool := s.mirror.lane0 || s.mirror.lane1

/-- Sends a message of a type (R350): header, payload, CHECK. (DESIGN CHOICE, log 48) -/
def State.mirrorTx (s : State) (type : Nat) (payload : List Byte) : State :=
  if s.paired && s.mirrorUp then
    let m := bytesLE 1 type ++ bytesLE 1 0 ++ bytesLE 2 payload.length ++ bytesLE 4 s.mirror.seqTx.toNat ++
      bytesLE 4 s.frame32 ++ bytesLE 4 s.pair.epoch ++ payload
    ({ s with mirror := { s.mirror with seqTx := s.mirror.seqTx + 1, txBytes := s.mirror.txBytes + m.length + 4 } } : State).emit (.mirrorTx type (m ++ bytesLE 4 (crc32 m)))
  else s

/-- Sends a message of the holder (R351). -/
def State.mirrorSend (s : State) (type : Nat) (payload : List Byte) : State :=
  if s.pair.held then s.mirrorTx type payload else s

/-! ## Queue state (R254) -/

def Queue.get (q : Queue) (lo w : Nat) : Nat := fld q.word.toNat lo w
def Queue.put (q : Queue) (lo w v : Nat) : Queue := { q with word := BitVec.ofNat 128 (setFld q.word.toNat lo w v) }
def Queue.on (q : Queue) : Bool := tb q.word.toNat 4
def Queue.size (q : Queue) : Nat := 2 ^ q.get 0 4
def Queue.base (q : Queue) : Nat := q.get 12 36 * 4096
def Queue.tail (q : Queue) : Nat := q.get 64 12
def Queue.head (q : Queue) : Nat := q.get 80 12
def Queue.inFlight (q : Queue) : Bool := tb q.word.toNat 104
def Queue.setFlight (q : Queue) (b : Bool) : Queue := q.put 104 1 (bit b)
def Queue.setTimed (q : Queue) (b : Bool) : Queue := q.put 105 1 (bit b)

/-- The descriptors held, with FETCHED. -/
def Queue.setDescs (q : Queue) (l : List (BitVec 256)) : Queue := { q.put 96 3 l.length with descs := l }

/-- The head descriptor leaves the queue: HEAD advances (R257). -/
def Queue.pop (q : Queue) : Queue :=
  let q1 := (q.setDescs (q.descs.drop 1)).put 80 12 ((q.head + 1) % q.size)
  { q1.setTimed false with checked := false, late := false, due := none }

/-! ## Descriptor fields (R260) -/

def dTag (d : BitVec 256) : Nat := fld d.toNat 0 32
def dIngress (d : BitVec 256) : Nat := fld d.toNat 32 10
def dEgress (d : BitVec 256) : Nat := fld d.toNat 48 10
def dAction (d : BitVec 256) : Nat := fld d.toNat 64 8
def dWhen (d : BitVec 256) : Nat := fld d.toNat 72 8
def dStrict (d : BitVec 256) : Bool := tb d.toNat 80
def dUrgent (d : BitVec 256) : Bool := tb d.toNat 81
def dTarget (d : BitVec 256) : Nat := fld d.toNat 96 16
def dValue (d : BitVec 256) : Nat := fld d.toNat 128 64

/-- The cost of a request (R262). -/
def dCost (d : BitVec 256) : Nat := if dAction d = 2 then 2 else 1

/-- A granted request that is STRICT and timed (R277). -/
def Req.strict (r : Req) : Bool := dStrict r.desc && r.due.isSome

/-- The due tick of a request can no longer be met in frame k (R285). -/
def Req.missed (r : Req) (k : Nat) : Bool := match r.due with | some f => decide (f ≤ k) | none => false

/-- The scheduler runs (R258). -/
def State.schedRuns (s : State) : Bool := s.pair.held && (s.sys.mode == .active || s.sys.mode == .legacy)

/-! ## The REQUEST message (R351) -/

/-- The payload of a REQUEST message: domain, queue (0xFFFF for a refill), queue state, descriptors, balances, tags, the grant with the
number of its batch. (DESIGN CHOICE, log 48) -/
def State.mirrorRequestOf (s : State) (d i : Nat) (granted : Option (BitVec 256 × Nat)) : State :=
  let q := if i < 512 then s.queue d i else .init
  let x := s.domain d
  s.mirrorSend 0x03 (bytesLE 2 d ++ bytesLE 2 i ++ bytesLE 2 q.head ++ bytesLE 1 q.descs.length ++ bytesLE 1 (q.get 104 8) ++
    bytesLE 4 (unsigned 32 x.balC) ++ bytesLE 4 (unsigned 32 x.balP) ++ bytesLE 4 x.tag ++ bytesLE 4 s.sched.v ++
    q.descs.flatMap (fun e => bytesLE 32 e.toNat) ++
    (match granted with | some (g, b) => bytesLE 1 1 ++ bytesLE 32 g.toNat ++ bytesLE 4 b | none => bytesLE 1 0))

/-! ## Completions (R264 to R267) -/

/-- The domain's completion ring has room for one more reservation (R265, R266). -/
def Domain.room (x : Domain) : Bool :=
  decide (0 < x.cK ∧ (x.cWrite + 2 ^ x.cK - x.cHead) % 2 ^ x.cK + x.cReserved < 2 ^ x.cK - 1)

/-- The record of a completion (R264), less PHASE and LEASE_EPOCH, which it takes when it is written. -/
def cplRecord (r : Req) (status proof disturbed time seq : Nat) : BitVec 256 :=
  BitVec.ofNat 256 (pack [(32, dTag r.desc), (8, status), (8, proof), (16, dIngress r.desc), (32, 0), (16, r.head),
    (16, disturbed), (64, time), (32, seq),
    (16, bit r.late + 2 * bit (decide (0 < r.rebased)) + 4 * bit r.yellow + 8 * bit (dUrgent r.desc)), (16, 0)])

/-- A request completes: its record waits to be written in the entry reserved for it (R265). -/
def State.complete (s : State) (r : Req) (status proof disturbed time seq : Nat) : State :=
  if r.dropped then s
  else { s with sched := { s.sched with
    cpls := s.sched.cpls ++ [{ dom := r.dom, record := cplRecord r status proof disturbed time seq }] } }

/-- IN_FLIGHT of a granted request's queue clears (R263). -/
def State.landed (s : State) (r : Req) : State :=
  s.setQueue r.dom r.queue ((s.queue r.dom r.queue).setFlight false)

/-- A granted request completes without an impression (R267). -/
def State.completeBare (s : State) (r : Req) (status disturbed : Nat) : State :=
  (s.landed r).complete r status 0 disturbed 0 0xFFFFFFFF

/-- The record as it is written: INGRESS with PHASE, LEASE_EPOCH (R264, R265). -/
def stampRecord (rcd : BitVec 256) (phase : Bool) (epoch : Nat) : BitVec 256 :=
  BitVec.ofNat 256 (setFld (setFld rcd.toNat 63 1 (bit phase)) 64 32 epoch)

/-- Takes the first waiting record of a domain out of the list. -/
def takeCpl (d : Nat) : List Cpl → Option (Cpl × List Cpl)
  | [] => none
  | c :: r => if c.dom = d then some (c, r) else (takeCpl d r).map (fun p => (p.1, c :: p.2))

/-- A completion record is written into the next entry of the ring (R265), under the lease (R355); it waits while the
domain is stopped, the link is down or the function is in D3hot (R482, R488, R489). -/
def execCompletionWrite (dom : BitVec 7) (s : State) : Host.Outcome State Fault Refusal :=
  let d := dom.toNat
  let x := s.domain d
  if !s.pair.held || (s.xlate d).stopped || !s.host.linkUp || (s.fn d).d3 || decide (x.cK = 0) then .next s
  else match takeCpl d s.sched.cpls with
  | none => .next s
  | some (c, rest) =>
    let rcd := stampRecord c.record x.cPhase s.pair.epoch
    let last := decide (x.cWrite + 1 = 2 ^ x.cK)
    let s1 : State := { s with sched := { s.sched with cpls := rest } }
    let s2 := s1.setDomain d { x with cWrite := if last then 0 else x.cWrite + 1, cPhase := x.cPhase != last,
                                      cReserved := x.cReserved - 1 }
    let s3 := s2.mirrorSend 0x04 (bytesLE 2 d ++ bytesLE 2 x.cWrite ++ bytesLE 32 rcd.toNat)
    let s4 := s3.newXfer d (.completion x.cWrite) false true (x.cBase + 32 * x.cWrite) 32 (bytesLE 32 rcd.toNat)
    .next s4

/-- A host write of CPL_HEAD (R265). -/
def execQdCplHead (fn : BitVec 7) (value : W32) (s : State) : Host.Outcome State Fault Refusal :=
  let d := fn.toNat
  if !s.present d || (s.fn d).d3 then .next s
  else .next (s.setDomain d { s.domain d with cHead := fld value.toNat 0 16 })

/-! ## Occurrences and gate windows (R287, R288, R293, R294) -/

def Occ.dur (o : Occ) : Nat := max 1 (fld o.word 0 16)
def Occ.plate (o : Occ) : Nat := fld o.word 16 9
def Occ.hold (o : Occ) : Bool := tb o.word 26
def Occ.last (o : Occ) : Bool := tb o.word 27
def Occ.gate (o : Occ) : Nat := fld o.word 32 16
def Occ.stop (o : Occ) : Nat := o.start + o.dur

/-- The first tick of the gate window, if there is one (R293). -/
def Occ.opens (o : Occ) : Option Nat :=
  let w := max o.start (o.stop - o.gate)
  let w1 := if w = o.start ∧ !o.hold then w + 1 else w
  if o.gate = 0 ∨ o.stop ≤ w1 then none else some w1

/-- A tick is usable in the occurrence's window (R294). -/
def Occ.usable (o : Occ) (u budget : Nat) : Bool :=
  match o.opens with
  | some w => decide (w ≤ u ∧ u + budget ≤ o.stop)
  | none => false

/-- The latched occurrences. -/
def State.occs (s : State) : List Occ := s.sched.current.toList ++ s.sched.next.toList

/-- A pending operation of SLOT_TABLE_SWAP is of a kind. -/
def State.opIs (s : State) (op : Nat) : Bool := match s.sched.op with | some o => decide (o.op = op) | none => false

/-- The slot table is stopped at tick u (R291). -/
def State.slotStopped (s : State) (u : Nat) : Bool :=
  match s.sched.current with
  | some c =>
    (match s.sched.op with
     | some o => decide (o.op = 2) && o.latched && decide (c.stop ≤ u)
     | none => false)
  | none =>
    match s.sched.next with
    | some o => decide (u < o.start)
    | none => !s.sched.running

/-- A tick that an on-demand impression may use (R294). -/
def State.usableTick (s : State) (u : Nat) : Bool :=
  if s.slotStopped u then true
  else s.occs.any (fun o => decide (o.start ≤ u ∧ u < o.stop) && o.usable u s.sched.budget)

/-- A batch may be formed in frame k (R277). (DEDUCED, log 41) -/
def State.batchWindow (s : State) (k : Nat) : Bool :=
  s.slotStopped k || s.occs.any (fun o => match o.opens with
    | some w => decide (w ≤ k + 1 ∧ k < o.stop)
    | none => false)

/-! ## Timed requests (R283, R284) -/

/-- How a timed head stands: it waits for its occurrence, it is past, or its due frame. -/
inductive Timed where
  | waits | past | due (frame : Nat)
  deriving DecidableEq, Repr

/-- The due tick in an occurrence: its first usable tick (R283); past without one (R284). -/
def Occ.dueIn (o : Occ) (budget : Nat) : Timed :=
  match o.opens with
  | some w => if w + budget ≤ o.stop then .due w else .past
  | none => .past

/-- An AT_SLOT head (R284). (DEDUCED, log 41) -/
def State.atSlot (s : State) (v : Nat) : Timed :=
  let bank := tb v 9
  let entry := fld v 0 9
  let cycle := fld v 32 32
  let named := s.occs.filter (fun o => decide (o.entry = entry) && o.bank == bank)
  if !s.sched.running && s.sched.next.isNone && !s.opIs 1 then .past
  else if cycle = 0xFFFFFFFF then
    match named.find? (fun o => match o.opens with | some w => decide (s.clk.frame < w) | none => decide (s.clk.frame < o.start)) with
    | some o => o.dueIn s.sched.budget
    | none => if (match s.sched.op with | some o => decide (o.op = 2) && o.latched | none => false) then .past else .waits
  else
    match named.find? (fun o => decide (o.cycle = cycle)) with
    | some o => o.dueIn s.sched.budget
    | none =>
      match s.sched.current with
      | none => .waits
      | some c =>
        if later c.cycle cycle then .past
        else if c.cycle = cycle ∧ (entry < c.entry ∨ c.last ∨ c.entry = 511) then .past
        else if (match s.sched.op with | some o => decide (o.op = 2) && o.latched | none => false) then .past
        else .waits

/-- A timed head when it is judged (R284): past in a frame later than the frame before its due tick. (DEDUCED, log 41) -/
def State.timed (s : State) (d : BitVec 256) : Timed :=
  let t := if dWhen d = 2 then .due (ceilDiv (dValue d) 2000) else s.atSlot (dValue d)
  match t with
  | .due f => if f ≤ s.clk.frame then .past else .due f
  | x => x

/-! ## Fetch (R257) -/

/-- The scheduler fetches descriptors of a queue: up to 4 ahead, in one burst that does not wrap the ring (R257); nothing
for a disabled domain (R513). (DESIGN CHOICE, log 12; DEDUCED, log 41) -/
def State.fetch (s : State) (d i : Nat) : State :=
  let q := s.queue d i
  if !s.schedRuns || !s.domainOn d || !q.on || decide (0 < q.fetching) || (s.sys.mode == .legacy && decide (0 < d ∨ 256 ≤ i)) then s
  else
    let at_ := (q.head + q.descs.length) % q.size
    let avail := (q.tail + 2 * q.size - q.head - q.descs.length) % q.size
    let n := min avail (min (4 - q.descs.length) (q.size - at_))
    if n = 0 then s
    else
      let f := s.fresh
      (f.2.setQueue d i { q with fetching := n }).newXfer d (.fetch i) (Config.fetchUrgent f.1) false
        (q.base + 32 * at_) (32 * n) []

/-- Every queue of every domain fetches. (DEDUCED, log 41) -/
def State.fetchAll (s : State) : State :=
  if s.schedRuns then s.sched.queues.foldl (fun t e => t.fetch (e.1 / 512) (e.1 % 512)) s else s

/-- A tail doorbell write (R256). -/
def execQdTail (fn : BitVec 7) (queue : BitVec 9) (value : W32) (s : State) : Host.Outcome State Fault Refusal :=
  let d := fn.toNat
  let i := queue.toNat
  let v := fld value.toNat 0 12
  let q := s.queue d i
  if !s.present d || (s.fn d).d3 then .next s
  else if !q.on || !s.inMask d i || decide (q.size ≤ v) then
    .next ((s.setQueue d i (q.put 106 1 1)).raise 49 (.d d) { unit := i })
  else .next ((s.setQueue d i (q.put 64 12 v)).fetch d i)

/-! ## Checks (R261) -/

/-- The head of a queue is refused: HEAD advances and its completion waits in a reserved entry (R261, R266). (DEDUCED, log 41) -/
def State.refuse (s : State) (d i status : Nat) (late : Bool) : State :=
  let q := s.queue d i
  match q.descs with
  | [] => s
  | e :: _ =>
    let x := s.domain d
    if !x.room then s
    else
      let q1 := q.pop
      let r : Req := { dom := d, queue := i, desc := e, head := q1.head, yellow := false, late := late, rebased := 0, due := none,
                       dropped := false }
      (((s.setQueue d i q1).setDomain d { x with cReserved := x.cReserved + 1 }).complete r status 0 0 0 0xFFFFFFFF
        ).mirrorRequestOf d i none |>.fetch d i

/-- The checks of a descriptor at the head of its queue (R261, R284). (DEDUCED, log 41) -/
def State.checkHead (s : State) (d i : Nat) : State :=
  let q := s.queue d i
  match q.descs with
  | [] => s
  | e :: _ =>
    if q.checked || q.inFlight || !s.domainOn d || !s.schedRuns then s
    else if dIngress e ≠ i ∨ 512 ≤ dEgress e ∨ !s.inMask d (dEgress e) then s.refuse d i stNotPermitted false
    else if 2 < dAction e ∨ 2 < dWhen e then s.refuse d i stBadOpcode false
    else if dWhen e = 0 then s.setQueue d i { q with checked := true, late := false, due := none }
    else match s.timed e with
    | .past =>
      if dStrict e then s.refuse d i stLate false
      else s.setQueue d i { q.setTimed false with checked := true, late := true, due := none }
    | .waits => s.setQueue d i (q.setTimed true)
    | .due f => s.setQueue d i { q.setTimed (decide (s.clk.frame + 1 < f)) with checked := true, late := false, due := some f }

/-- A fetched descriptor reaches the head of its queue (R261). -/
def execDescriptorCheck (dom : BitVec 7) (queue : BitVec 9) (s : State) : Host.Outcome State Fault Refusal :=
  .next (s.checkHead dom.toNat queue.toNat)

/-- Heads that wait for an occurrence are judged again (R284). (DEDUCED, log 41) -/
def State.recheckHeads (s : State) : State :=
  s.sched.queues.foldl (fun t e => if tb e.2.word.toNat 105 && !e.2.checked then t.checkHead (e.1 / 512) (e.1 % 512) else t) s

/-- At a tick, heads whose due tick is the next one stop waiting: TIMED_WAIT clears (R283). -/
def State.timedTick (s : State) : State :=
  { s with sched := { s.sched with queues := s.sched.queues.map (fun e =>
      match e.2.due with
      | some f => if e.2.checked && decide (f ≤ s.clk.frame + 1) then (e.1, e.2.setTimed false) else e
      | none => e) } }

/-! ## Refill (R269, R271) -/

def satBalance (x : Int) : Int := max (-(2 ^ 31)) x

/-- The refill of one enabled domain with the rates that come into force at it (R269, R271). -/
def Domain.refill (x : Domain) : Domain :=
  let x1 : Domain := match x.nextRates with
    | some (c, p, b, q) => { x with cir := c, pir := p, cbs := b, pbs := q, nextRates := none }
    | none => x
  { x1 with balC := min (x1.balC + x1.cir) (x1.cbs * 256 : Nat), balP := min (x1.balP + x1.pir) (x1.pbs * 256 : Nat) }

/-- The refill at the tick of a frame whose number is a multiple of 64, once (R269). (DESIGN CHOICE, log 17) -/
def execTokenRefill (s : State) : Host.Outcome State Fault Refusal :=
  if s.clk.frame % 64 ≠ 0 ∨ s.clk.refilled ∨ !s.sys.mode.ticks then .next s
  else
    let s1 : State := { s with clk := { s.clk with refilled := true } }
    .next ((List.range 128).foldl (fun t d =>
      let x := t.domain d
      if x.enable then (t.setDomain d x.refill).mirrorRequestOf d 0xFFFF none
      else if x.nextRates.isSome then
        (match x.nextRates with
         | some (c, p, b, q) => t.setDomain d { x with cir := c, pir := p, cbs := b, pbs := q, nextRates := none }
         | none => t)
      else t) s1)

/-! ## Arbitration (R263, R270, R272 to R275) -/

/-- Domain 0 in Legacy is not policed (R455). -/
def State.unpoliced (s : State) : Bool := s.sys.mode == .legacy

/-- The head of a queue can be granted (R263, R283). -/
def State.grantable (s : State) (q : Queue) : Bool :=
  q.checked && !q.inFlight && !q.descs.isEmpty &&
    (match q.due with | some f => decide (f ≤ s.clk.frame + 1) | none => true)

/-- The queues of a domain whose head can be granted, rising. -/
def State.grantQueues (s : State) (d : Nat) : List Nat :=
  (s.sched.queues.filter (fun e => decide (e.1 / 512 = d) && s.grantable e.2)).map (fun e => e.1 % 512)

/-- A domain may take part (R266, R273, R482), tokens apart. -/
def State.takesPart (s : State) (d : Nat) : Bool :=
  s.domainOn d && (s.domain d).room && (s.sys.mode != .legacy || decide (d = 0)) &&
    decide ((s.sched.cpls.filter (fun c => decide (c.dom = d))).length < 64 ∨ !(s.xlate d).stopped)

/-- The first queue after the one granted last, in round robin (R275). -/
def afterQueue (l : List Nat) (last : Nat) : Option Nat :=
  match l.find? (fun i => decide (last < i)) with
  | some i => some i
  | none => l.head?

/-- The queue that a domain grants from, and whether its head is URGENT (R275). -/
def State.pickQueue (s : State) (d : Nat) : Option (Nat × Bool) :=
  let l := s.grantQueues d
  let u := l.filter (fun i => match (s.queue d i).descs with | e :: _ => dUrgent e | [] => false)
  let x := s.domain d
  match u with
  | [] => (afterQueue l x.lastOther).map (fun i => (i, false))
  | _ => (afterQueue u x.lastUrgent).map (fun i => (i, true))

/-- The domains that are eligible at a decision (R273). -/
def State.eligible (s : State) : List Nat :=
  (List.range 128).filter (fun d =>
    s.takesPart d && (s.unpoliced || decide (0 < (s.domain d).balP)) && !(s.grantQueues d).isEmpty)

/-- F as a signed distance from V. -/
def State.startTag (s : State) (d : Nat) : Int := signed 32 ((s.domain d).tag + 2 ^ 32 - s.sched.v)

/-- The domain that a tier grants: the smallest start tag, the lower number on a tie (R273). -/
def State.smallest (s : State) (l : List Nat) : Option Nat :=
  l.foldl (fun b d => match b with
    | none => some d
    | some e => if s.startTag d < s.startTag e then some d else some e) none

/-- Requests that reach the decision without peak tokens are refused with POLICED under POLICE_ACTION 1 (R272). (DEDUCED, log 41) -/
def State.policeHeads (s : State) : State :=
  if s.unpoliced then s
  else (List.range 128).foldl (fun t d =>
    let x := t.domain d
    if x.police && decide (x.balP ≤ 0) && t.takesPart d then
      (t.grantQueues d).foldl (fun t i => t.refuse d i stPoliced (t.queue d i).late) t
    else t) s

/-- The grant of a domain (R270, R273 to R275), and the granted request. -/
def State.grant (s : State) (d : Nat) (elig : List Nat) : State × Option Req :=
  match s.pickQueue d with
  | none => (s, none)
  | some (i, urgent) =>
    let q := s.queue d i
    match q.descs with
    | [] => (s, none)
    | e :: _ =>
      let x := s.domain d
      let cost := dCost e
      let free := s.unpoliced
      let charge : Int := if free then 0 else (cost * 256 : Nat)
      let q1 := q.pop
      let r : Req := { dom := d, queue := i, desc := e, head := q1.head, yellow := !free && decide (x.balC ≤ 0), late := q.late,
                       rebased := 0, due := q.due, dropped := false }
      let v := x.tag
      let x1 : Domain := { x with
        tag := (x.tag + cost * 65536 / max 1 x.weight) % 2 ^ 32, balC := satBalance (x.balC - charge),
        balP := satBalance (x.balP - charge), cReserved := x.cReserved + 1,
        lastUrgent := if urgent then i else x.lastUrgent, lastOther := if urgent then x.lastOther else i }
      let s1 : State := { s with sched := { s.sched with v := v } }
      let s2 := (s1.setQueue d i (q1.setFlight true)).setDomain d x1
      let s3 := (List.range 128).foldl (fun t j =>
        if !elig.contains j && later v (t.domain j).tag then t.setDomain j { t.domain j with tag := v } else t) s2
      let s4 := (s3.tally 0x600 1).tally 0x601 (bit r.yellow)
      (s4.fetch d i, some r)

/-! ## Forming batches (R277, R281) -/

/-- The batch that is being formed. -/
def State.forming (s : State) : Option Batch := s.sched.batches.find? (fun b => b.state == .forming)

def State.setBatch (s : State) (b : Batch) : State :=
  { s with sched := { s.sched with batches := s.sched.batches.map (fun x => if x.id = b.id then b else x) } }

/-- A job of the scheduler. -/
def Job.onDemand (j : Job) : Bool := match j.owner with | .batch _ => true | .cmd _ => false

/-- An on-demand route runs or waits for the engine, also one whose batch has been discarded since (R277). -/
def State.routeRuns (s : State) : Bool :=
  s.burin.queue.any Job.onDemand || (match s.burin.running with | some r => r.job.onDemand | none => false)

/-- A batch may be formed now: the scheduler runs, no route of its own runs, none waits for a shared buffer, and an
impression could fall in the slot (R277, R279). -/
def State.mayForm (s : State) : Bool :=
  s.schedRuns && s.batchWindow s.clk.frame && !s.routeRuns &&
    !s.sched.batches.any (fun b => b.state == .waiting || b.state == .routing || b.state == .routed)

/-- The batch that is forming waits for its submission. (DEDUCED, log 41) -/
def State.closeBatch (s : State) : State :=
  match s.forming with
  | some b => s.setBatch { b with state := .waiting }
  | none => s

/-- A granted request joins the batch; a STRICT timed request forms its own (R277): after other requests it waits at the
front for the next batch. -/
def State.join (s : State) (r : Req) : State :=
  match s.forming with
  | none =>
    let full := r.strict || decide (s.sched.batchMax ≤ 1)
    { s with sched := { s.sched with
      batches := s.sched.batches ++ [{ id := s.sched.nextBatch, reqs := [r], dest := 0, base := 0xFFFE,
                                       state := if full then .waiting else .forming, disturbed := 0 }],
      nextBatch := s.sched.nextBatch + 1 } }
  | some b =>
    if r.strict then ({ s with sched := { s.sched with returned := r :: s.sched.returned } } : State).closeBatch
    else
      let b1 : Batch := { b with reqs := b.reqs ++ [r] }
      s.setBatch { b1 with state := if s.sched.batchMax ≤ b1.reqs.length then .waiting else .forming }

/-- A request is granted, or routed again (R281): a STRICT one whose due tick has come already has missed it and completes with
LATE (R285); any other joins the batch. (DEDUCED, log 41) -/
def State.joinOrLate (s : State) (r : Req) : State :=
  if r.strict && r.missed s.clk.frame then s.completeBare r stLate 0 else s.join r

/-- The number of the batch that a request has joined; the next batch's where it waits for it (R277). -/
def State.batchOf (s : State) (r : Req) : Nat :=
  match s.sched.batches.find? (fun (b : Batch) => b.reqs.contains r) with | some b => b.id | none => s.sched.nextBatch

/-- The REQUEST message of a grant, with its batch membership (R351), before the route is submitted. (DEDUCED, log 49) -/
def State.mirrorGrant (s : State) (r : Req) : State := s.mirrorRequestOf r.dom r.queue (some (r.desc, s.batchOf r))

/-- One arbitration decision (R273): a returned request first (R281), else a grant by weighted fair queuing; a decision
that finds no eligible domain closes the batch (R277). (DEDUCED, log 41) -/
def execArbitrationDecision (s : State) : Host.Outcome State Fault Refusal :=
  if !s.mayForm then .next s
  else match s.sched.returned with
  | r :: rest =>
    .next ((({ s with sched := { s.sched with returned := rest } } : State).joinOrLate r).mirrorGrant r)
  | [] =>
    let s0 := s.policeHeads
    let elig := s0.eligible
    let green := elig.filter (fun d => s0.unpoliced || decide (0 < (s0.domain d).balC))
    match s0.smallest (if green.isEmpty then elig else green) with
    | none => .next s0.closeBatch
    | some d =>
      match s0.grant d elig with
      | (s1, some r) => .next ((s1.joinOrLate r).mirrorGrant r)
      | (s1, none) => .next s1

/-! ## QUEUE_RESET and fetched descriptors (R257, R259) -/

/-- QUEUE_RESET of a queue (R259). -/
def State.resetQueue (s : State) (d i : Nat) : State :=
  let q := s.queue d i
  let q1 := ((q.setDescs []).put 4 1 0).put 80 12 q.tail
  let s1 := s.setQueue d i { q1.setTimed false with checked := false, late := false, due := none, fetching := 0 }
  { s1 with host := { s1.host with xfers := s1.host.xfers.filter (fun x => !(decide (x.dom = d) && decide (x.use = .fetch i))) } }

end Sys2Proof.Machine
end

