-- ==== Sys2Proof/Machine/Imp.lean ====
section
/-! DEFINITION. The impression unit and the proof unit (chapter 7): snapshot reads, arming, the choice at the commit point,
the tick of an impression or a retry, proof requests and results, retries, localisation, proof records; the batches that
an impression or a discard ends (R280, R281). -/

namespace Sys2Proof.Machine

/-! ## Plate writes and snapshot reads (R199, R229, R230) -/

/-- Bytes of the snapshot read so far: all of them after 400 cycles, before that a position that the manual bounds only
(R229; log 4). (DESIGN CHOICE, log 4) -/
def SnapRead.position (r : SnapRead) (now : Nat) : Nat :=
  let elapsed := now - r.startCycle
  if 400 ≤ elapsed then 3264 else max r.got.length (min 3264 (Config.snapshotPos r.ordinal elapsed))

/-- The read takes the bytes up to a position as they stand now. (DESIGN CHOICE, log 4) -/
def State.readTo (s : State) (r : SnapRead) (pos : Nat) : SnapRead :=
  let l := r.got.length
  { r with got := r.got ++ s.plateBytes r.plate (0x40 + l) (pos - l), bad := r.bad || s.badIn r.plate (0x40 + l) (pos - l) }

/-- Every snapshot read of a plate takes the bytes that it has passed, before a write changes the plate (R230). -/
def State.latchReads (s : State) (p : Nat) : State :=
  { s with imp := { s.imp with armed := s.imp.armed.map (fun a =>
      match a.read, a.snap with
      | some r, none => if r.plate = p then { a with read := some (s.readTo r (r.position s.clk.cycles)) } else a
      | _, _ => a) } }

/-- PLATE messages of up to 256 bytes (R351). (DESIGN CHOICE, log 48) -/
def State.mirrorPlateOf (s : State) (p : Nat) : Nat → Nat → List Byte → State
  | 0, _, _ => s
  | f + 1, off, l =>
    if l.isEmpty then s
    else (s.mirrorSend 0x09 (bytesLE 2 p ++ bytesLE 2 off ++ l.take 256)).mirrorPlateOf p f (off + 256) (l.drop 256)

/-- Bytes are written into a plate slot by HDMA, the engine, the mirror port or a control core (R199, R351). -/
def State.storePlate (s : State) (p off : Nat) (l : List Byte) : State :=
  ((((s.latchReads p).writePlate p off l).mirrorPlateOf p 16 off l)).tally 0x307 (3 * ceilDiv l.length 32)

/-! ## The plate port arbiter (R553 to R557) -/

/-- The priority of a requester in a set of PA_PRIO words (R556). (DEDUCED, log 39) -/
def portPrio (set : List Nat) (r : Nat) : Nat := fld ((set[r / 2]?).getD 0) (16 * (r % 2)) 3

/-- A decision grants a requester: a committed set comes into force at it (R557). (DEDUCED, log 39) -/
def State.portDecision (s : State) (r : Nat) : State :=
  let act := s.host.committed.getD s.host.active
  { s with host := { s.host with active := act, committed := none, rrLast := wr s.host.rrLast (portPrio act r) r } }

/-- A plate slot below 480 is under a PLATE_READ copy: its writes wait (R505, R553). (DEDUCED, log 38) -/
def State.underCopy (s : State) (p : Nat) : Bool := decide (p < 480) && s.host.copies.any (fun c => decide (c.plate = p))

/-- The bus master of a plate port requester (R544, R553). -/
def portMaster (r : Nat) : Nat := if r = 6 then 8 else r

/-- A burst of a requester reaches the plate port: it is granted at the next decision, or waits, for a copy or, as the 17th transaction
of its master, for a tag (R549). (DEDUCED, log 39) -/
def State.portWrite (s : State) (r p off : Nat) (l : List Byte) (job : Option Nat) : State :=
  let id := s.host.bus.freeId (portMaster r)
  if s.underCopy p || id.isNone then
    { s with host := { s.host with
        bus := match id with | some k => s.host.bus.issue k .plateStore true | none => s.host.bus,
        portWaits := s.host.portWaits ++ [{ requester := r, plate := p, offset := off, bytes := l, job := job, id := id }] } }
  else (s.portDecision r).storePlate p off l

/-- The plate port has served a waiting write: its response frees its tag, and the oldest write of a master that waits for a tag takes
it (R549). -/
def State.portServed (s : State) (w : PortWrite) : State :=
  let b := match w.id with | some k => s.host.bus.respond k | none => s.host.bus
  let step (a : Bus × List PortWrite) (x : PortWrite) : Bus × List PortWrite :=
    match x.id, a.1.freeId (portMaster x.requester) with
    | none, some k => (a.1.issue k .plateStore true, a.2 ++ [{ x with id := some k }])
    | _, _ => (a.1, a.2 ++ [x])
  let r := s.host.portWaits.foldl step (b, [])
  { s with host := { s.host with bus := r.1, portWaits := r.2 } }

/-- A snapshot read starts (R229). -/
def State.startRead (s : State) (a : Armed) : Armed × State :=
  let r : SnapRead := { plate := a.plate, got := [], startCycle := s.clk.cycles, ordinal := s.imp.reads, bad := false }
  ({ a with read := some r }, { s with imp := { s.imp with reads := s.imp.reads + 1 } })

/-! ## Armed impressions (R224 to R228) -/

/-- The four shared buffers that are taken (R227). -/
def State.sharedTaken (s : State) : Nat := (s.imp.armed.filter (fun a => decide (2 ≤ a.source))).length

/-- Adds an impression behind those that are armed. -/
def State.addArmed (s : State) (a : Armed) : State :=
  { s with imp := { s.imp with armed := s.imp.armed ++ [{ a with order := s.imp.order }], order := s.imp.order + 1 } }

def State.setArmed (s : State) (a : Armed) : State :=
  { s with imp := { s.imp with armed := s.imp.armed.map (fun x => if x.order = a.order then a else x) } }

/-- An impression's buffer is released. -/
def State.dropArmed (s : State) (order : Nat) : State :=
  { s with imp := { s.imp with armed := s.imp.armed.filter (fun x => decide (x.order ≠ order)) } }

/-- A slot start arms its plate at the latch tick (R229): the read starts. -/
def State.armSlot (s : State) (plate start : Nat) : State :=
  let a : Armed := { source := 0, trigger := .slot, plate := plate, due := none, order := 0, strict := false, late := false,
                     cmd := none, batch := none, frame := some start, read := none, snap := none }
  let r := s.startRead a
  r.2.addArmed r.1

/-- The frame of the tick that is due for an AT_TIME impression (R37). -/
def Armed.dueFrame (a : Armed) : Nat := ceilDiv (a.due.getD 0) 2000

/-- At a tick, the reads of AT_TIME impressions that are due at the next tick start (R229). -/
def State.startReads (s : State) : State :=
  s.imp.armed.foldl (fun t a =>
    if a.source = 2 ∧ a.trigger = .atTime ∧ a.read.isNone ∧ a.snap.isNone ∧ a.dueFrame ≤ t.clk.frame + 1 then
      let r := t.startRead a
      r.2.setArmed r.1
    else t) s

/-- The IMPRESSION message of an armed impression (R351). -/
def State.mirrorArmed (s : State) (a : Armed) (img : PlateImg) : State :=
  let tags := match a.batch with
    | some id => (s.sched.batches.filter (fun (b : Batch) => decide (b.id = id))).flatMap (fun (b : Batch) => b.reqs.map (fun (r : Req) => (r.dom, dTag r.desc)))
    | none => []
  let trig := match a.trigger with | .slot => 0 | .asap => 1 | .atTime => 2 | .onSync => 3 | .onDemand => 4
  s.mirrorSend 0x02 (bytesLE 1 a.source ++ bytesLE 1 trig ++ bytesLE 2 a.plate ++ bytesLE 8 (a.due.getD 0) ++
    bytesLE 2 tags.length ++ tags.flatMap (fun t => bytesLE 2 t.1 ++ bytesLE 4 t.2) ++ bytesOfImg img)

/-! ## Batches that end before their impression (R280, R281) -/

/-- The batch is on its way to an impression: submitted and not applied. -/
def Batch.inChain (b : Batch) : Bool := b.state == .routing || b.state == .routed || b.state == .armed

/-- The requests of a discarded batch, each with DISTURBED_COUNT of the route that carried it (R264), return to the front in grant
order with REBASED; at the ninth discard a request completes with TIMEOUT (R281). (DEDUCED, log 41) -/
def State.returnReqs (s : State) (l : List (Req × Nat)) : State :=
  let up := l.map (fun x => ({ x.1 with rebased := x.1.rebased + 1 }, x.2))
  let keep := (up.filter (fun (x : Req × Nat) => decide (x.1.rebased < 9))).map Prod.fst
  let s1 : State := { s with sched := { s.sched with returned := keep ++ s.sched.returned } }
  (up.filter (fun (x : Req × Nat) => decide (9 ≤ x.1.rebased))).foldl (fun t x => t.completeBare x.1 stTimeout x.2) s1

/-- The requests of a batch, each with DISTURBED_COUNT of the batch's route; 0 before the route completes. -/
def Batch.routedReqs (b : Batch) : List (Req × Nat) := b.reqs.map (fun r => (r, b.disturbed))

/-- Batches are discarded: their buffers are released (R280). -/
def State.discardBatches (s : State) (ids : List Nat) : State :=
  let reqs := (s.sched.batches.filter (fun (b : Batch) => ids.contains b.id)).flatMap Batch.routedReqs
  let s1 : State := { s with
    sched := { s.sched with batches := s.sched.batches.filter (fun (b : Batch) => !ids.contains b.id) },
    imp := { s.imp with armed := s.imp.armed.filter (fun a => match a.batch with | some i => !ids.contains i | none => true) } }
  (s1.tally 0x602 ids.length).returnReqs reqs

/-- The batches of the chain from one batch on. -/
def State.chainFrom (s : State) (id : Nat) : List Nat :=
  ((s.sched.batches.filter Batch.inChain).map Batch.id).filter (fun i => decide (id ≤ i))

/-- Another impression took effect: every batch whose route has started is discarded with its chain; a route against the
applied plate that is still queued reads its base at its start (R203, R280). -/
def State.breakChain (s : State) : State :=
  let chain := s.sched.batches.filter Batch.inChain
  let queued (b : Batch) : Bool := s.burin.queue.any (fun j => decide (j.owner = .batch b.id)) && decide (b.base = 0xFFFE)
  match chain with
  | [b] => if queued b then s else s.discardBatches [b.id]
  | _ => s.discardBatches (chain.map Batch.id)

/-- A STRICT request of the batch has missed its due tick (R285). -/
def State.strictMissed (s : State) (b : Batch) : Bool :=
  (b.inChain || b.state == .waiting || b.state == .forming) && b.reqs.any (fun r => r.strict && r.missed s.clk.frame)

/-- The impression of a batch that missed its due tick is discarded with the later ones of its chain; its requests complete with
LATE (R285). -/
def State.strictDrop (s : State) (id : Nat) : State :=
  match s.sched.batches.find? (fun (b : Batch) => decide (b.id = id) && s.strictMissed b) with
  | none => s
  | some b =>
    let later := if b.inChain then (s.chainFrom b.id).filter (fun i => decide (i ≠ b.id)) else []
    let s1 := s.discardBatches later
    let s2 : State := { s1 with
      sched := { s1.sched with batches := s1.sched.batches.filter (fun x => decide (x.id ≠ b.id)) },
      imp := { s1.imp with armed := s1.imp.armed.filter (fun a => decide (a.batch ≠ some b.id)) } }
    b.reqs.foldl (fun t r => t.completeBare r stLate b.disturbed) s2

/-- STRICT requests whose impression misses the due tick complete with LATE (R285). -/
def State.strictLate (s : State) : State := (s.sched.batches.map Batch.id).foldl State.strictDrop s

/-- An impression is discarded: its command receives a status, its batch returns to arbitration (R228, R231). -/
def State.discardArmed (s : State) (a : Armed) (status : Nat) (event : Bool) : State :=
  let s1 := when event (fun t => t.raise 44 .a) (s.dropArmed a.order)
  let s2 := match a.cmd with
    | some c => s1.answer c status []
    | none => s1
  match a.batch with
  | some id => s2.discardBatches (s2.chainFrom id)
  | none => s2

/-- The oldest snapshot read ends (R229): the impression is armed, or discarded when the read met a bad word (R231). An
IMPRESS is not armed during a hot restart (R228). -/
def execSnapshotComplete (s : State) : Host.Outcome State Fault Refusal :=
  match s.imp.armed.find? (fun a => a.read.isSome && a.snap.isNone && !(s.sys.restarting && decide (a.source = 2))) with
  | none => .next s
  | some a =>
    match a.read with
    | none => .next s
    | some r =>
      let r1 := s.readTo r 3264
      if r1.bad then .next ((s.raise 11 .m { unit := a.plate }).discardArmed a stInternal true)
      else
        let img := imgOfBytes r1.got
        let a1 : Armed := { a with read := none, snap := some img }
        .next (((s.eccCorrect a.plate 0x40 3264).setArmed a1).mirrorArmed a1 img)

/-! ## The commit point (R225, R232, R233, R245) -/

/-- The impression that takes the tick t, retries apart: a slot start, an IMPRESS by due time and arrival, the first
on-demand impression of the chain (R225, R226, R347). -/
def State.slotArmed (s : State) (t : Nat) : Option Armed :=
  s.imp.armed.find? (fun a => decide (a.source = 0 ∧ a.frame = some t) && a.snap.isSome && s.occs.any (fun o => decide (o.start = t)))

def State.impressReady (s : State) (t : Nat) (a : Armed) : Bool :=
  a.snap.isSome && decide (a.source = 2) &&
    (match a.trigger, a.due with
     | .onSync, some d => decide (ceilDiv d 2000 ≤ t)
     | .atTime, some _ => decide (a.dueFrame ≤ t) && s.usableTick t
     | .asap, some _ => s.usableTick t
     | _, _ => false)

def State.impressArmed (s : State) (t : Nat) : Option Armed :=
  (s.imp.armed.filter (s.impressReady t)).foldl (fun (b : Option Armed) a => match b with
    | none => some a
    | some x => if a.due.getD 0 < x.due.getD 0 then some a else some x) none

def State.onDemandArmed (s : State) (t : Nat) : Option Armed :=
  if s.usableTick t then s.imp.armed.find? (fun a => decide (a.source = 3) && a.snap.isSome) else none

/-- The stored code of a cell's state is written for the next tick with impression precedence (R233, R243). -/
def State.putCell (s : State) (c : Nat) (state : Bool) : State :=
  s.putCode c .impression (cg (s.cs c) (if state then 0x12 else 0x10) 2)

/-- The cells on the trace of an ingress are rewritten through a deglitcher hold (R243). -/
def State.refreshTrace (s : State) (cells i : Nat) : State :=
  ((s.geo.trace cells i).1.filter s.cellPresent).foldl (fun t c =>
    (t.putCell c (tb cells c)).modDch c (fun d => { d with refresh := true })) s

/-- The commit point of the frame fixes what the next tick applies (R23, R225, R232, R233). (DEDUCED, log 39) -/
def State.commitImpression (s : State) : State :=
  let t := s.clk.frame + 1
  let retry := match s.imp.retry with | some (f, l, q) => if f ≤ t then some (l, q) else none | none => none
  let wait := s.pair.swap.isSome
  let pick := match s.slotArmed t with
    | some a => some a
    | none =>
      if retry.isSome || wait then none
      else match s.impressArmed t with
        | some a => some a
        | none => s.onDemandArmed t
  -- Armed impressions that could have taken the tick are displaced (R225).
  let ready := (s.imp.armed.filter (s.impressReady t)).length + bit (s.onDemandArmed t).isSome
  let taken := match pick with | some a => bit (decide (2 ≤ a.source)) | none => 0
  let s0 := s.tally 0x12 (ready - taken)
  -- A STRICT AT_TIME impression that is displaced from its due tick is rejected (R225).
  let s1 := s.imp.armed.foldl (fun u a =>
    if a.source = 2 ∧ a.trigger = .atTime ∧ a.strict ∧ a.dueFrame ≤ t ∧ pick.map Armed.order ≠ some a.order then
      u.discardArmed a stLate false
    else u) s0
  match pick with
  | some a =>
    match a.snap with
    | none => s1
    | some img =>
      let pins := s1.applyPins img.cells
      let img1 : PlateImg := { img with cells := pins.1 }
      let old := match s1.imp.applied with | some p => p.cells | none => 0
      let changed := s1.geo.cells.filter (fun c => tb old c != tb pins.1 c)
      let set := match retry with | some (l, _) => l | none => []
      let joined := set.filter (fun x => img1.egress x.1 == some x.2.1)
      let gone := set.filter (fun x => !(img1.egress x.1 == some x.2.1))
      let a1 : Armed := { a with late := a.late || (decide (a.trigger = .atTime) && decide (a.dueFrame < t)) }
      let s2 := changed.foldl (fun u c => u.putCell c (tb pins.1 c)) s1
      let s3 := joined.foldl (fun u x => u.refreshTrace pins.1 x.1) s2
      let s4 := when pins.2 (fun u => u.raise 45 .m) s3
      { s4 with imp := { s4.imp with fixed := some (.impression a1 img1 pins.2 changed joined gone),
                                     retry := if retry.isSome then none else s4.imp.retry } }
  | none =>
    match retry with
    | some (l, q) =>
      let cells := match s1.imp.applied with | some p => p.cells | none => 0
      let s2 := l.foldl (fun u x => u.refreshTrace cells x.1) s1
      { s2 with imp := { s2.imp with fixed := some (.retry l q), retry := none } }
    | none => s1

/-- The commit point of the frame (R23), once in a frame. -/
def State.commitWork (s : State) : State :=
  if s.clk.committed then s
  else
    let s1 := s.commitImpression
    { s1 with clk := { s1.clk with committed := true } }

/-! ## Proof records (R249, R250) -/

def State.proofRec (s : State) (seq : Nat) : Option ProofRec := s.imp.records.find? (fun r => decide (r.seq = seq))

def State.modProof (s : State) (seq : Nat) (f : ProofRec → ProofRec) : State :=
  { s with imp := { s.imp with records := s.imp.records.map (fun r => if r.seq = seq then f r else r) } }

/-- The 576 bytes of a record, with the results of the ingresses that `show_` admits. -/
def ProofRec.bytes (r : ProofRec) (show_ : Nat → Bool) : List Byte :=
  bytesLE 4 r.seq ++ bytesLE 4 r.epoch ++ bytesLE 8 r.time ++ bytesLE 4 r.frame ++ bytesLE 2 r.plate ++ bytesLE 1 r.source ++
  bytesLE 1 r.flags ++ bytesLE 2 r.changed ++ bytesLE 2 r.proved ++ bytesLE 2 r.pass ++ bytesLE 2 r.unlit ++ bytesLE 2 r.fail ++
  bytesLE 2 r.pending ++ bytesLE 2 r.cycles ++ bytesLE 2 r.suspectCount ++ bytesLE 4 r.retryOf ++
  (List.range 10).flatMap (fun k => bytesLE 2 ((r.suspects[k]?).getD 0xFFFF)) ++
  (List.range 512).flatMap (fun i => bytesLE 1 (if show_ i then rd r.result i 0 else 0))

/-- The PROOF message of a record (R351). (DESIGN CHOICE, log 48) -/
def State.mirrorProofOf (s : State) (seq : Nat) : State :=
  match s.proofRec seq with
  | some r => s.mirrorSend 0x05 (r.bytes (fun _ => true))
  | none => s

/-- A record is final (R249). -/
def State.recFinal (s : State) (r : ProofRec) : Bool :=
  decide (r.pending = 0) && !s.imp.locates.any (fun l => decide (l.seq = r.seq ∨ l.firstSeq = r.seq))

/-- A circuit's final byte is written into a record (R250). -/
def ProofRec.finish (r : ProofRec) (i byte : Nat) : ProofRec :=
  { r with result := wr r.result i byte, pending := r.pending - 1,
           pass := r.pass + bit (decide (byte % 4 = 1)), unlit := r.unlit + bit (decide (byte % 4 = 2)),
           fail := r.fail + bit (decide (byte % 4 = 3)) }

/-! ## Completions of proved circuits (R251) -/

/-- The requests of the batch applied by an impression, for one ingress, complete with a result byte (R251). -/
def State.completeProved (s : State) (seq i byte : Nat) : State :=
  match s.sched.batches.find? (fun (b : Batch) => match b.state with | .applied q _ => decide (q = seq) | _ => false) with
  | none => s
  | some b =>
    let time := match b.state with | .applied _ t => t | _ => 0
    let rest := b.reqs.filter (fun r => decide (dIngress r.desc ≠ i))
    let done := b.reqs.filter (fun r => decide (dIngress r.desc = i))
    let s1 : State :=
      if rest.isEmpty then { s with sched := { s.sched with batches := s.sched.batches.filter (fun x => decide (x.id ≠ b.id)) } }
      else s.setBatch { b with reqs := rest }
    done.foldl (fun t r =>
      t.complete r (if byte % 4 = 3 then stProofFailed else stOk) byte b.disturbed time seq) s1

/-- A circuit takes its final result (R242, R244, R250, R251, R594): the records that carry it while the ring keeps them, and the
completion of its request. `own` is the record that measured it, if any. -/
def State.finalResult (s : State) (i e : Nat) (own : Option Nat) (first byte : Nat) : State :=
  let recs := match own with | some q => if q = first then [q] else [q, first] | none => [first]
  let s1 := recs.foldl (fun t q => (t.modProof q (fun r => r.finish i byte)).mirrorProofOf q) s
  s1.completeProved first i byte

/-- A final FAIL raises PROOF_FAIL and starts localisation (R244, R247). -/
def State.localise (s : State) (it : ProofItem) : State :=
  let s1 := s.raise 47 (.c [] [it.ingress, 512 + it.egress])
  let cells := match s1.imp.applied with | some p => (s1.geo.trace p.cells it.ingress).1 | none => []
  let l : Locate := { seq := it.seq, firstSeq := it.first, ingress := it.ingress, egress := it.egress, date := it.placed,
                      start := s1.clk.frame + 1, trace := cells, ys := [] }
  { s1 with imp := { s1.imp with locates := s1.imp.locates ++ [l] }, faults := { s1.faults with proofFail := s1.faults.proofFail + 1 } }

/-- Circuits that wait for a retry end without one (R242, R245, R594). -/
def State.endAwaiting (s : State) (l : List (Nat × Nat × Nat)) (byte : Nat) : State :=
  l.foldl (fun t x => t.finalResult x.1 x.2.1 none x.2.2 byte) s

/-- The circuits of an armed retry that `hit` names leave it with a result byte. (DEDUCED, log 40) -/
def State.trimRetry (s : State) (hit : Nat → Bool) (byte : Nat) : State :=
  match s.imp.retry with
  | none => s
  | some (f, l, q) =>
    let out := l.filter (fun x => hit x.1)
    if out.isEmpty then s
    else
      let keep := l.filter (fun x => !hit x.1)
      ({ s with imp := { s.imp with retry := if keep.isEmpty then none else some (f, keep, q) } } : State).endAwaiting out byte

/-- A later impression removes or changes circuits whose result is outstanding (R242, R248). -/
def State.supersede (s : State) (hit : Nat → Bool) : State :=
  let out := s.imp.items.filter (fun it => hit it.ingress)
  let s1 : State := { s with imp := { s.imp with items := s.imp.items.filter (fun it => !hit it.ingress),
                                                 locates := s.imp.locates.filter (fun l => !hit l.ingress) } }
  let s2 := out.foldl (fun t it => t.finalResult it.ingress it.egress (some it.seq) it.first (0x40 + 8 * bit it.retried)) s1
  s2.trimRetry hit 0x40

/-! ## The tick (R228, R235, R243) -/

/-- The trace of an ingress with the state of each cell on it (R213, R214): a cell of the trace that changes state makes the trace
differ, in a Beneš+1 middle pair too (R45). -/
def Geo.traced (g : Geo) (cells i : Nat) : List (Nat × Bool) × Nat :=
  let t := g.trace cells i
  (t.1.map (fun c => (c, tb cells c)), t.2)

/-- Circuits whose PERM entry or trace differs between two images, as (ingress, old egress, new egress) (R179, R234). -/
def State.changedCircuits (s : State) (old : Option PlateImg) (new : PlateImg) : List (Nat × Option Nat × Option Nat) :=
  let g := s.geo
  (List.range 512).filterMap (fun i =>
    let oe := match old with | some p => p.egress i | none => none
    let ne := new.egress i
    let oc := match old with | some p => p.cells | none => 0
    if oe.isNone && ne.isNone then none
    else if oe != ne || (decide (i < g.ports) && g.traced oc i != g.traced new.cells i) then some (i, oe, ne) else none)

/-- A cell or a port is touched at this tick (R179): its loop freezes on the samples of 4 frames. -/
def State.touch (s : State) (drive : Nat) : State :=
  let n := s.clk.frame
  let first := match find? s.loops.window drive with | some e => if n ≤ e.2 + 1 then e.1 else n | none => n
  { s with loops := { s.loops with window := wr s.loops.window drive (first, n + 3) } }

/-- The cells of a trace and the two ports of a circuit are touched. -/
def State.touchCircuit (s : State) (cells i e : Nat) : State :=
  let g := s.geo
  let tr := if i < g.ports then (g.trace cells i).1 else []
  ((tr.foldl (fun t c => t.touch (4608 + c)) s).touch (9216 + i)).touch (9216 + 512 + e)

/-- A tap is idle, retired or unsampled (R238). -/
def State.noTap (s : State) (x : Nat) : Bool := !s.sensePresent x || s.retired 2 x || (s.serving x).isNone

/-- A circuit joins a proof set at this tick (R238). -/
def State.proveCircuit (s : State) (seq i e first : Nat) (retried : Bool) : State :=
  let it : ProofItem := { seq := seq, ingress := i, egress := e, placed := s.clk.frame, frame := s.clk.frame, retried := retried,
                          first := first, yIn := none, yOut := none, applied := 0, range3 := false,
                          noTap := s.noTap (4608 + i) || s.noTap (5120 + e) }
  { s with imp := { s.imp with items := s.imp.items ++ [it] } }

/-- A new proof record; the ring keeps the last 64 (R249). -/
def State.newProof (s : State) (plate source flags changed retryOf : Nat) (circuits : List Nat) (cmd : Option CmdRef) (late : Bool) : State :=
  let r : ProofRec :=
    { seq := s.imp.seq, epoch := s.pair.epoch, time := s.clk.tickTime, frame := s.frame32, plate := plate,
      source := source, flags := flags, changed := changed, proved := circuits.length, pass := 0, unlit := 0, fail := 0,
      pending := circuits.length, cycles := 0, suspects := [], suspectCount := 0, retryOf := retryOf, result := [], cmd := cmd,
      late := late, reported := false }
  { s with imp := { s.imp with records := (s.imp.records ++ [r]).drop (s.imp.records.length + 1 - 64), seq := (s.imp.seq + 1) % 2 ^ 32 } }

/-- An impression takes effect at this tick (R235). -/
def State.applyImpression (s : State) (a : Armed) (img : PlateImg) (pinned : Bool) (changed : List Nat)
    (joined gone : List (Nat × Nat × Nat)) : State :=
  let n := s.clk.frame
  let seq := s.imp.seq
  let old := s.imp.applied
  let oc := match old with | some p => p.cells | none => 0
  let ch := s.changedCircuits old img
  let s0 := s.tally 0x11 1
  -- The changed cells skip their bias update, and their dwell ends (R172, R175, R179).
  let s1 := changed.foldl (fun t c =>
    let u := t.beginDwell c (tb oc c)
    { u with loops := { u.loops with changedAt := wr u.loops.changedAt c n } }) s0
  let s2 : State := { s1 with imp := { s1.imp with applied := some img, appliedPlate := some a.plate } }
  let s3 := ch.foldl (fun t c =>
    let t1 := match c.2.1 with | some e => t.touchCircuit oc c.1 e | none => t
    match c.2.2 with | some e => t1.touchCircuit img.cells c.1 e | none => t1) s2
  let s4 := joined.foldl (fun t x => t.touchCircuit img.cells x.1 x.2.1) s3
  let joins (i : Nat) : Bool := joined.any (fun x => decide (x.1 = i))
  let s5 := (s4.supersede (fun i => ch.any (fun c => decide (c.1 = i)) && !joins i)).endAwaiting gone 0x40
  let fresh := (ch.filter (fun c => !joins c.1)).filterMap (fun c => c.2.2.map (fun e => (c.1, e)))
  let set := fresh.map Prod.fst ++ joined.map Prod.fst
  let s6 := s5.newProof a.plate a.source (bit a.late + 2 * bit pinned) changed.length 0xFFFFFFFF set a.cmd a.late
  let s7 := fresh.foldl (fun t c => t.proveCircuit seq c.1 c.2 seq false) s6
  let s8 := joined.foldl (fun t x => t.proveCircuit seq x.1 x.2.1 x.2.2 true) s7
  let s9 := s8.dropArmed a.order
  match a.batch with
  | none => s9.breakChain
  | some id =>
    match s9.sched.batches.find? (fun (b : Batch) => decide (b.id = id)) with
    | none => s9
    | some b =>
      let reqs := b.reqs.map (fun r => { r with late := r.late || (match r.due with | some f => decide (f < n) | none => false) })
      let t1 := s9.setBatch { b with state := .applied seq s9.clk.tickTime, reqs := reqs }
      reqs.foldl State.landed t1

/-- A retry takes effect at this tick (R243). (DEDUCED, log 40) -/
def State.applyRetry (s : State) (set : List (Nat × Nat × Nat)) (latest : Nat) : State :=
  let seq := s.imp.seq
  let cells := match s.imp.applied with | some p => p.cells | none => 0
  let plate := match s.proofRec latest with | some r => r.plate | none => 0
  let s1 := set.foldl (fun t x => t.touchCircuit cells x.1 x.2.1) (s.tally 0x11 1)
  let s2 := s1.newProof plate 1 0 0 latest (set.map Prod.fst) none false
  set.foldl (fun t x => t.proveCircuit seq x.1 x.2.1 x.2.2 true) s2

/-- Impressions take effect (R228). (DEDUCED, log 40) -/
def State.mayImpress (s : State) : Bool :=
  s.pair.held && s.desc.loaded && (s.sys.mode == .active || s.sys.mode == .legacy)

/-- The codes that the commit point wrote for an impression are withdrawn: no cell changes (R228). -/
def State.withdrawCodes (s : State) (cells : List Nat) : State :=
  cells.foldl (fun t c => t.modDch c (fun d =>
    match d.next with
    | some q => if q.writer = .impression then { d with next := none, refresh := false } else d
    | none => d)) s

/-- What the commit point fixed is discarded at its tick when no impression may take effect (R228, R594). -/
def State.checkFixed (s : State) : State :=
  if s.mayImpress then s
  else
    let st := if s.pair.held then stWrongMode else stNotLeaseHolder
    match s.imp.fixed with
    | none => s
    | some (.impression a _ _ changed joined gone) =>
      let s1 : State := { s with imp := { s.imp with fixed := none } }
      let traces := joined.flatMap (fun x => match s.imp.applied with | some p => (s.geo.trace p.cells x.1).1 | none => [])
      (((s1.withdrawCodes (changed ++ traces)).discardArmed a st true).endAwaiting (joined ++ gone) 0)
    | some (.retry l _) =>
      let s1 : State := { s with imp := { s.imp with fixed := none } }
      let traces := l.flatMap (fun x => match s.imp.applied with | some p => (s.geo.trace p.cells x.1).1 | none => [])
      (((s1.withdrawCodes traces).raise 44 .a).endAwaiting l 0)

/-- What the commit point fixed takes effect. -/
def State.applyFixed (s : State) : State :=
  let s1 : State := { s with imp := { s.imp with fixed := none } }
  match s.imp.fixed with
  | none => s
  | some (.impression a img pinned changed joined gone) => s1.applyImpression a img pinned changed joined gone
  | some (.retry l q) => s1.applyRetry l q

/-- Armed impressions whose tick has come meet no lease or another mode (R228): a slot start at its tick, a retry at its
tick, every IMPRESS and on-demand impression that could have taken this tick. -/
def State.discardStale (s : State) : State :=
  let n := s.clk.frame
  let s0 := (s.imp.armed.filter (fun a => decide (a.source = 0) && (match a.frame with | some f => decide (f ≤ n) | none => true))).foldl
    (fun t a => if t.mayImpress then t.dropArmed a.order else t.discardArmed a stNotLeaseHolder true) s
  if s0.mayImpress then s0
  else
    let st := if s0.pair.held then stWrongMode else stNotLeaseHolder
    let ready := s0.imp.armed.filter (fun a => match a.trigger, a.due with
      | .onSync, some d => decide (ceilDiv d 2000 ≤ n)
      | .atTime, some _ => decide (a.dueFrame ≤ n)
      | .asap, _ => a.snap.isSome
      | .onDemand, _ => true
      | _, _ => false)
    let s1 := ready.foldl (fun t a => if t.imp.armed.any (fun x => decide (x.order = a.order)) then t.discardArmed a st true else t) s0
    match s1.imp.retry with
    | some (f, l, _) =>
      if f ≤ n then (({ s1 with imp := { s1.imp with retry := none } } : State).raise 44 .a).endAwaiting l 0 else s1
    | none => s1

/-! ## Proof requests (R121, R236, R241) -/

/-- The first eligible cycle of a tap's proof conversion (R121, R236). -/
def State.tapCycle (s : State) (x : Nat) : Nat :=
  if x < 5120 then 480 else if (s.sch x).range = 3 then 2700 else 1080

/-- Queues the proof request of a tap on the core that converts it, unless one waits there already. -/
def State.askTap (s : State) (x : Nat) : State :=
  match s.serving x with
  | none => s
  | some (core, _) =>
    let k := s.core core
    if k.urgent.any (fun u => decide (u.source = .proof ∧ u.sense = some x)) then s
    else s.askUrgent core { source := .proof, sense := some x, cycle := s.tapCycle x, frame := s.clk.frame, filter := true, retry := none }

/-- At a tick, every outstanding circuit is measured in the frame that begins (R241). -/
def State.proofTick (s : State) : State :=
  if !s.pair.held then s
  else
    let n := s.clk.frame
    let s1 : State := { s with imp := { s.imp with items := s.imp.items.map (fun it =>
      { it with frame := n, yIn := none, yOut := none, applied := (s.dch (9728 + it.egress)).position,
                noTap := s.noTap (4608 + it.ingress) || s.noTap (5120 + it.egress),
                range3 := !(s.noTap (4608 + it.ingress) || s.noTap (5120 + it.egress)) && decide ((s.sch (5120 + it.egress)).range = 3) }) } }
    let taps := (s1.imp.items.filter (fun it => !it.noTap)).flatMap (fun it => [4608 + it.ingress, 5120 + it.egress])
    taps.foldl State.askTap s1

/-- The taps that the proof of an armed impression, or of this tick's impression, uses (R182). -/
def State.proofTaps (s : State) : List Nat :=
  let now := (s.imp.items.filter (fun it => decide (it.placed = s.clk.frame))).map (fun it => (it.ingress, it.egress))
  let armed := s.imp.armed.flatMap (fun a => match a.snap with
    | some img => (s.changedCircuits s.imp.applied { img with cells := (s.applyPins img.cells).1 }).filterMap (fun c => c.2.2.map (fun e => (c.1, e)))
    | none => [])
  let retry := match s.imp.retry with | some (_, l, _) => l.map (fun x => (x.1, x.2.1)) | none => []
  let fixed := match s.imp.fixed with | some (.retry l _) => l.map (fun x => (x.1, x.2.1)) | _ => []
  (now ++ armed ++ retry ++ fixed).flatMap (fun c => [4608 + c.1, 5120 + c.2])

/-! ## Comparison (R239, R240) -/

inductive Verdict where
  | deferred | unlit (dim : Bool) | pass | fail
  deriving DecidableEq, Repr

/-- A sample that defers its circuit (R240). -/
def wDefers (w : W32) : Bool := wMissing w || wOvr w || wSettling w || wTest w || wCheck w

/-- A_voa of R239; `none` stands for a value greater than 2,000 by definition. -/
def aVoa (w : BitVec 512) (applied : Nat) : Option Int :=
  let sgn : Int := if tb w.toNat (8 * 0x26) then -1 else 1
  let d : Int := max 0 (sgn * ((applied : Int) - cg w 0x10 2))
  let inv := cg w 0x1A 2
  if inv = 0 then (if d = 0 then some 0 else none) else some (roundDiv (d * 256) inv)

/-- LOSS of R239: both halves of the port loss table, or PATH_LOSS_NOMINAL (R414). -/
def State.pathLoss (s : State) (i e : Nat) : Nat :=
  match find? s.cal.loss i, find? s.cal.loss (512 + e) with
  | some x, some y => x + y
  | _, _ => s.dsc 0x28 2

/-- The outcome of a circuit (R240). -/
def State.verdict (s : State) (it : ProofItem) : Verdict :=
  match it.yIn, it.yOut with
  | some wi, some wo =>
    if wDefers wi || wDefers wo then .deferred
    else
      let vi := s.cs (9216 + it.ingress)
      let vo := s.cs (9728 + it.egress)
      if yOf wi < cg vi 0x20 2 then .unlit false
      else
        match (if s.retired 1 (9728 + it.egress) then some 0 else aVoa vo it.applied) with
        | none => .deferred
        | some a =>
          if 2000 < a then .deferred
          else
            let exp := lvl (yOf wi) + cgs vi 0x18 2 - (s.pathLoss it.ingress it.egress : Int) - a
            let dark : Int := cg vo 0x20 2
            let out := lvl (max (yOf wo) dark) + cgs vo 0x18 2
            let dim := lvl (2 * dark) + cgs vo 0x18 2 + 300
            if exp < dim then .unlit true
            else if (out - exp).natAbs ≤ 300 then .pass
            else .fail
  | _, _ => .deferred

/-- The first tick whose commit point follows now (R243). -/
def State.retryTick (s : State) : Nat := s.clk.frame + (if s.clk.committed then 2 else 1)

/-- A circuit takes its first FAIL: it waits for a retry, which merges with a retry that is armed (R243, R246). (DEDUCED, log 40) -/
def State.armRetry (s : State) (it : ProofItem) : State :=
  let s1 := s.raise 46 (.c [] [it.ingress, 512 + it.egress])
  let x := (it.ingress, it.egress, it.seq)
  let v := match s1.imp.retry with
    | some (f, l, q) => (f, l ++ [x], if later it.seq q then it.seq else q)
    | none => (s1.retryTick, [x], it.seq)
  { s1 with imp := { s1.imp with retry := some v } }

/-- One circuit at its result position (R238 to R244). -/
def State.resultOf (s : State) (it : ProofItem) : State :=
  let n := s.clk.frame
  let out (t : State) : State := { t with imp := { t.imp with items := t.imp.items.filter (fun x => !(decide (x.seq = it.seq ∧ x.ingress = it.ingress))) } }
  let fin (byte : Nat) : State := (out s).finalResult it.ingress it.egress (some it.seq) it.first
    (byte + 8 * bit it.retried + 4 * bit (decide (it.placed < n)))
  if it.noTap then (out s).finalResult it.ingress it.egress (some it.seq) it.first (0x20 + 8 * bit it.retried)
  else
    let failed : State := if it.retried then (fin 3).localise it else (out s).armRetry it
    match s.verdict it with
    | .deferred =>
      if it.placed + s.sched.deferMax ≤ n then failed
      else
        let later (x : ProofItem) : ProofItem := if x.seq = it.seq ∧ x.ingress = it.ingress then { x with frame := n + 1 } else x
        ({ s with imp := { s.imp with items := s.imp.items.map later } } : State).tally 0x13 1
    | .unlit dim => fin (2 + 16 * bit dim)
    | .pass => fin 1
    | .fail => failed

/-- The first result of a record: RESULT_CYCLES, RANGE3_TAP, and the answer of its IMPRESS (R249, R508). `fails` is the
number of first FAILs. -/
def State.firstResult (s : State) (r : ProofRec) (range3 : Bool) (fails : Nat) : State :=
  let s1 := s.modProof r.seq (fun r => { r with
    reported := true, cycles := min 65535 s.clk.cycle, flags := r.flags % 4 + 4 * bit range3, cmd := none })
  match r.cmd, s1.proofRec r.seq with
  | some c, some q =>
    s1.answerAt s1.ns c stOk (bit r.late) 0 [(0, q.seq), (4, q.frame), (8, q.time), (0x10, q.proved), (0x12, q.pass),
      (0x14, q.unlit), (0x16, fails), (0x18, q.pending), (0x1A, q.changed)]
  | _, _ => s1

/-- The results of an impression at their position, whether or not the ring still keeps its record. -/
def State.resultsOf (s : State) (seq : Nat) : State :=
  let items := s.imp.items.filter (fun it => decide (it.seq = seq ∧ it.frame = s.clk.frame))
  let range3 := items.any (fun it => it.range3)
  let s1 := items.foldl State.resultOf s
  let before := match s.imp.retry with | some (_, l, _) => l.length | none => 0
  let after := match s1.imp.retry with | some (_, l, _) => l.length | none => 0
  let s2 := match s.proofRec seq with
    | some r => if r.reported then s1 else s1.firstResult r range3 (after - before)
    | none => s1
  s2.mirrorProofOf seq

/-- The impressions that have results due in this frame, by IMPRESSION_SEQ, oldest first. (DEDUCED, log 40) -/
def State.resultsDue (s : State) : List Nat :=
  ((s.imp.items.filter (fun it => decide (it.frame = s.clk.frame))).map ProofItem.seq ++
    (s.imp.records.filter (fun r => !r.reported && decide (r.frame = s.frame32))).map ProofRec.seq).dedup

/-- The results of an impression fall at cycle 3,420 of this frame (R236). (DEDUCED, log 40) -/
def State.resultLate (s : State) (seq : Nat) : Bool :=
  s.imp.items.any (fun it => decide (it.seq = seq ∧ it.frame = s.clk.frame) && it.range3)

/-- A request has its circuit in the proof set still: measured, or waiting for a retry. -/
def State.outstanding (s : State) (seq i : Nat) : Bool :=
  s.imp.items.any (fun it => decide (it.first = seq ∧ it.ingress = i)) ||
    (match s.imp.retry with | some (_, l, _) => l.any (fun x => decide (x.1 = i ∧ x.2.2 = seq)) | none => false) ||
    (match s.imp.fixed with | some (.retry l _) => l.any (fun x => decide (x.1 = i ∧ x.2.2 = seq)) | _ => false)

/-- Requests whose circuit is not in the proof set complete at cycle 1,800 of the impression frame (R251). -/
def State.completePlain (s : State) : State :=
  s.sched.batches.foldl (fun t b => match b.state with
    | .applied seq _ => b.reqs.foldl (fun t r =>
        if t.outstanding seq (dIngress r.desc) then t else t.completeProved seq (dIngress r.desc) 0) t
    | _ => t) s

/-- The proof result (R235, R236, R240): at cycle 1,800 the records without an output tap in range 3 and the requests
outside proof sets, else at cycle 3,420 the others. Nothing is reported without a lease (R251). (DESIGN CHOICE, log 17; DESIGN CHOICE, log 23; DEDUCED, log 40) -/
def execProofResult (s : State) : Host.Outcome State Fault Refusal :=
  if !s.pair.held || !s.runs then .next s
  else
    let due := s.resultsDue
    let early := due.filter (fun q => !s.resultLate q)
    let plain := s.sched.batches.any (fun (b : Batch) => match b.state with
      | .applied seq _ => b.reqs.any (fun r => !s.outstanding seq (dIngress r.desc))
      | _ => false)
    if !early.isEmpty || plain then
      let s1 := s.atCycle 1800
      .next (early.foldl State.resultsOf s1.completePlain)
    else if due.isEmpty then .next s
    else .next (due.foldl State.resultsOf (s.atCycle 3420))

/-! ## Localisation (R247, R248) -/

/-- A sample that localisation uses: a conversion of the frame before, of this tap, with its own photodiode, from a tap in service
(R125, R135, R592). -/
def State.locatable (s : State) (x : Nat) : Bool :=
  let w := s.sample x
  !wMissing w && !wTest w && !s.retired 2 x && decide (wEpoch w = (s.sch x).epoch)

/-- At a tick, every running localisation takes the scan sample of the frame before. (DEDUCED, log 40) -/
def State.locateTick (s : State) : State :=
  let k := s.clk.frame - 1
  { s with imp := { s.imp with locates := s.imp.locates.map (fun l =>
      if l.start ≤ k ∧ k < l.start + 1024 ∧ s.locatable (5120 + l.egress) then { l with ys := (k, yOf (s.sample (5120 + l.egress))) :: l.ys }
      else l) } }

/-- The tone of multiple m is present in the samples (R247): its amplitude is at least 2⁻¹⁰ of their mean. -/
def tonePresent (ys : List (Nat × Int)) (m : Nat) : Bool :=
  let sum := ys.foldl (fun a y => a + y.2) 0
  let re := ys.foldl (fun a y => a + y.2 * toneAt 32767 (y.1 * m)) 0
  let im := ys.foldl (fun a y => a + y.2 * toneAt 32767 (y.1 * m + 256)) 0
  decide (sum * sum * 32767 * 32767 ≤ 4 * (re * re + im * im) * 2 ^ 20)

/-- The suspects of R248 as (cell or none for the output VOA), and whether rule 4 chose them. (DEDUCED, log 40) -/
def State.suspects (s : State) (l : Locate) : List (Option Nat) × Bool :=
  let dark : Int := cg (s.cs (9728 + l.egress)) 0x20 2
  let sum := l.ys.foldl (fun a y => a + y.2) 0
  let assessed := l.trace.filter (fun c => decide ((s.dch (4608 + c)).a ≠ 0))
  let lit := decide (dark * (l.ys.length : Int) ≤ sum) && !l.ys.isEmpty
  let absent := assessed.filter (fun c => !tonePresent l.ys (s.dch (4608 + c)).m)
  let unlocked := l.trace.filter (fun c => !stBit (s.cs (4608 + c)) 0 || stBit (s.cs (4608 + c)) 1)
  let all := (l.trace.map some, true)
  if !lit then (if unlocked.isEmpty then all else (unlocked.map some, false))
  else if assessed.isEmpty then all
  else match absent with
    | c :: _ =>
      let before := l.trace.takeWhile (fun x => decide (x ≠ c))
      (some c :: (before.getLast?.toList.map some), false)
    | [] => ([none], false)

/-- A suspect is marked in a record (R249): its drive index. -/
def ProofRec.mark (r : ProofRec) (i drive : Nat) : ProofRec :=
  { r with suspects := if r.suspects.length < 10 then r.suspects ++ [drive] else r.suspects, suspectCount := r.suspectCount + 1,
           result := wr r.result i (rd r.result i 0 % 128 + 128) }

/-- The suspects of a localisation are marked (R248, R365, R366). A mark of an output VOA is logged but not counted while a
condition of R368 stands for its drive channel. (DEDUCED, log 40) -/
def State.markSuspects (s : State) (l : Locate) : State :=
  let p := s.suspects l
  let s1 := p.1.foldl (fun t x =>
    let drive := match x with | some c => c | none => 9728 + l.egress
    let t1 := t.modProof l.seq (fun r => r.mark l.ingress drive)
    let t2 := if l.firstSeq = l.seq then t1 else t1.modProof l.firstSeq (fun r => r.mark l.ingress drive)
    match x with
    | some c => t2.fail 3 c 7 l.date [48] true p.2
    | none => t2.fail 1 (9728 + l.egress) 7 l.date [48] (!t2.uncounted (9728 + l.egress)) p.2) s
  s1.mirrorProofOf l.seq

/-- A localisation whose 1,024 frames have passed ends (R248). (DESIGN CHOICE, log 17; DEDUCED, log 40) -/
def execLocalisationEnd (s : State) : Host.Outcome State Fault Refusal :=
  match s.imp.locates.find? (fun l => decide (l.start + 1024 ≤ s.clk.frame)) with
  | none => .next s
  | some l =>
    let s1 : State := { s with imp := { s.imp with locates := s.imp.locates.filter (fun x => decide (x ≠ l)) } }
    .next (s1.markSuspects l)

end Sys2Proof.Machine
end

