-- ==== Sys2Proof/Machine/Slots.lean ====
section
/-! DEFINITION. The slot table (R286 to R292, R511): the latch of an occurrence, slot starts, and the pending swap, start
or stop. -/

namespace Sys2Proof.Machine

/-- An entry of a bank (R287). -/
def State.slotEntry (s : State) (bank : Bool) (e : Nat) : Nat := (rd (if bank then s.sched.slotB else s.sched.slotA) e 0).toNat

/-- Entries of a bank are written (R510). -/
def State.writeSlots (s : State) (bank : Bool) (first : Nat) (l : List Nat) : State :=
  let put (t : Tbl W64) : Tbl W64 :=
    (l.foldl (fun (a : Tbl W64 × Nat) v => (wr a.1 a.2 (BitVec.ofNat 64 v), a.2 + 1)) (t, first)).1
  if bank then { s with sched := { s.sched with slotB := put s.sched.slotB } }
  else { s with sched := { s.sched with slotA := put s.sched.slotA } }

/-- The pending operation completes at this tick (R511). -/
def State.finishOp (s : State) (status : Nat) (time : Nat) : State :=
  match s.sched.op with
  | none => s
  | some o =>
    let s1 : State := { s with sched := { s.sched with op := none } }
    s1.answerAt time o.cmd status (if status = stOk then bit o.late else 0) 0
      (if status = stOk then [(0, s1.frame32), (4, s1.sched.cycle), (8, bit s1.sched.active)] else [])

/-- An occurrence is latched, and its plate's snapshot read starts unless the slot holds (R229, R288). (DEDUCED, log 42) -/
def State.latchOcc (s : State) (entry start cycle : Nat) : State :=
  let o : Occ := { bank := s.sched.active, entry := entry, word := s.slotEntry s.sched.active entry, start := start, cycle := cycle }
  let s1 : State := { s with sched := { s.sched with
    next := some o, boundary := if entry = 0 then some start else s.sched.boundary } }
  (when (!o.hold) (fun t => t.armSlot o.plate start) s1).recheckHeads

/-- The latch due at this tick (R288, R290, R291). (DEDUCED, log 42) -/
def State.latchDue (s : State) : State :=
  let k := s.clk.frame
  if s.sched.next.isSome then s
  else match s.sched.op, s.sched.current with
  | some o, none =>
    if o.op = 1 ∧ !o.latched ∧ o.at_ ≤ k + 1 ∧ o.accepted < k then
      let start := max o.at_ (k + 1)
      ({ s with sched := { s.sched with op := some { o with latched := true, fire := start, old := s.sched.active }, active := o.bank } }
        : State).latchOcc 0 start 0
    else s
  | op, some c =>
    if !s.sched.running || decide (k + 1 < c.stop) then s
    else
      let start := max c.stop (k + 1)
      let wrap := c.last || decide (c.entry = 511)
      let entry := if wrap then 0 else c.entry + 1
      let cycle := if wrap then (c.cycle + 1) % 2 ^ 32 else c.cycle
      match op with
      | some o =>
        if o.op = 2 ∧ o.accepted < k then
          ({ s with sched := { s.sched with op := some { o with latched := true, fire := start } } } : State).recheckHeads
        else if o.op = 0 ∧ !o.latched ∧ wrap ∧ o.accepted < k ∧ o.at_ ≤ start then
          ({ s with sched := { s.sched with op := some { o with latched := true, fire := start, old := s.sched.active },
                                            active := !s.sched.active } } : State).latchOcc entry start cycle
        else s.latchOcc entry start cycle
      | none => s.latchOcc entry start cycle
  | none, none => s

/-- An entry is latched at the tick before its slot starts (R288). (DEDUCED, log 42) -/
def execSlotLatch (s : State) : Host.Outcome State Fault Refusal :=
  if s.sys.mode.ticks then .next s.latchDue else .next s

/-- A slot ends and the next starts, or the table stops (R286, R291). (DEDUCED, log 42) -/
def State.slotDue (s : State) : State :=
  let k := s.clk.frame
  match s.sched.next with
  | some o =>
    if k < o.start then s
    else
      let s1 : State := { s with sched := { s.sched with current := some o, next := none, running := true, cycle := o.cycle } }
      (match s1.sched.op with
       | some p => if p.latched ∧ p.op ≠ 2 ∧ p.fire = o.start then s1.finishOp stOk s1.clk.tickTime else s1
       | none => s1)
  | none =>
    match s.sched.op, s.sched.current with
    | some p, some c =>
      if p.op = 2 ∧ p.latched ∧ c.stop ≤ k then
        ({ s with sched := { s.sched with current := none, running := false } } : State).finishOp stOk s.clk.tickTime
      else s
    | _, _ => s

/-- A slot starts at its tick (R286). (DESIGN CHOICE, log 17; DEDUCED, log 42) -/
def execSlotStart (s : State) : Host.Outcome State Fault Refusal :=
  if s.sys.mode.ticks then .next s.slotDue else .next s

/-- At a tick: a swap while the table is stopped exchanges the active bank (R511). (DEDUCED, log 42) -/
def State.slotTick (s : State) : State :=
  match s.sched.op with
  | some o =>
    if o.op = 0 ∧ !o.latched ∧ !s.sched.running ∧ s.sched.next.isNone ∧ o.accepted < s.clk.frame ∧ o.at_ ≤ s.clk.frame then
      ({ s with sched := { s.sched with active := !s.sched.active } } : State).finishOp stOk s.clk.tickTime
    else s
  | none => s

/-- A step stops the slot table at once (R308): the slot in progress ends, a latched start is withdrawn, a pending stop
completes, a pending swap or start is cancelled and completes with BUSY. (DEDUCED, log 42) -/
def State.stopSlots (s : State) : State :=
  let s1 : State := { s with
    sched := { s.sched with current := none, next := none, running := false },
    imp := { s.imp with armed := s.imp.armed.filter (fun a => decide (a.source ≠ 0)) } }
  let s2 := match s1.sched.op with
    | some o =>
      let t : State := if o.latched ∧ o.op ≠ 2 then { s1 with sched := { s1.sched with active := o.old } } else s1
      t.finishOp (if o.op = 2 then stOk else stBusy) t.ns
    | none => s1
  s2.recheckHeads

/-- SLOT_TABLE_SWAP (R290, R291, R511): operation, TIMED, STRICT, bank, time. (DEDUCED, log 42) -/
def State.slotSwap (s : State) (c : CmdRef) (op : Nat) (timed strict bank : Bool) (time : Nat) : State :=
  let a := s.clk.frame
  let due := ceilDiv time 2000
  let running := s.sched.running
  let put (late : Bool) (at_ : Nat) : State :=
    { s with sched := { s.sched with op := some { op := op, cmd := c, bank := bank, late := late, accepted := a, at_ := at_,
                                                  latched := false, fire := 0, old := false } } }
  let started := running || s.sched.next.isSome
  if s.sched.op.isSome then s.answer c stBusy []
  else if op = 1 then
    if started then s.answer c stNotPermitted []
    else if timed && decide (due < a + 2) then
      if strict then s.answer c stLate [] else put true (a + 2)
    else put false (if timed then due else a + 2)
  else if op = 2 then
    if !started then s.answer c stOk [(0, s.frame32), (4, s.sched.cycle), (8, bit s.sched.active)] else put false 0
  else if running then
    -- The first boundary at or after the time was latched already (R290).
    if timed && (match s.sched.boundary with | some b => decide (due ≤ b) | none => false) then
      if strict then s.answer c stLate [] else put true 0
    else put false (if timed then due else 0)
  else if timed && decide (due ≤ a) then
    if strict then s.answer c stLate [] else put true 0
  else put false (if timed then due else 0)

end Sys2Proof.Machine
end

