-- ==== Sys2Proof/Machine/Routes.lean ====
section
/-! DEFINITION. Submission of batches, completion of route jobs, and the arming of on-demand impressions (R191, R204, R218 to
R220, R267, R277 to R279). -/

namespace Sys2Proof.Machine

/-! ## The request ring (R191) -/

/-- A plate holds the applied plate, or awaits impression. -/
def State.plateHeld (s : State) (p : Nat) : Bool :=
  decide (s.imp.appliedPlate = some p) || s.imp.armed.any (fun a => decide (a.plate = p)) ||
    s.sched.batches.any (fun (b : Batch) => b.inChain && decide (b.dest = p))

/-- The next request ring slot that is free, in rotation. -/
def State.ringSlot (s : State) : Option Nat :=
  ((List.range 32).map (fun k => 480 + (s.burin.ringNext - 480 + k) % 32)).find? (fun p => !s.plateHeld p)

/-- The request as a change of a delta route (R277). -/
def Req.change (r : Req) : Change :=
  { ingress := dIngress r.desc, egress := dEgress r.desc, action := dAction r.desc, target := dTarget r.desc }

/-- The batch that waits is submitted once the engine has room and a ring slot is free (R191, R277, R278). -/
def execBatchSubmit (s : State) : Host.Outcome State Fault Refusal :=
  match s.sched.batches.find? (fun (b : Batch) => b.state == .waiting), s.ringSlot with
  | some b, some dest =>
    if !s.schedRuns || decide (8 ≤ s.burin.queue.length) then .next s
    else
      let base := match (s.sched.batches.filter Batch.inChain).getLast? with | some x => x.dest | none => 0xFFFE
      let j : Job := { dest := dest, base := base, delta := some (b.reqs.map Req.change), owner := .batch b.id }
      let s1 := s.setBatch { b with dest := dest, base := base, state := .routing }
      .next { s1 with burin := { s1.burin with queue := s1.burin.queue ++ [j],
                                               ringNext := if dest = 511 then 480 else dest + 1 } }
  | _, _ => .next s

/-! ## Arming (R227, R279) -/

/-- A routed batch is armed when a shared buffer is free; not during a hot restart (R452). -/
def State.armBatch (s : State) (b : Batch) : State :=
  if s.sys.restarting || decide (4 ≤ s.sharedTaken) then s.setBatch { b with state := .routed }
  else
    let img := s.plateImg b.dest
    let due := match b.reqs.filterMap Req.due with | d :: _ => some (2000 * d) | [] => none
    let a : Armed :=
      { source := 3, trigger := .onDemand, plate := b.dest, due := due, order := s.imp.order, strict := b.reqs.any Req.strict,
        late := false, cmd := none, batch := some b.id, frame := none, read := none, snap := some img }
    ((s.setBatch { b with state := .armed }).addArmed a).mirrorArmed a img

/-- Routed batches that wait for a buffer or for the end of a hot restart are armed, in order. -/
def State.armWaiting (s : State) : State :=
  (s.sched.batches.filter (fun (b : Batch) => b.state == .routed)).foldl (fun t b => t.armBatch b) s

/-! ## Completion (R218 to R220, R267) -/

/-- The perm and targets that a job starts from (R205). -/
def Running.start (r : Running) : Working :=
  { perm := match r.base with
      | some b => b.perm.map (fun e => if e < 512 then e else 0x3FF)
      | none => List.replicate 512 0x3FF,
    targets := match r.base with | some b => b.targets | none => List.replicate 1024 0x8000, refused := [] }

/-- The requests of a batch with whether each one's change left the permutation and the targets as they were (R267). -/
def unchangedReqs (w : Working) : List Req → List (Req × Bool)
  | [] => []
  | r :: l =>
    let w1 := w.change r.change
    (r, decide (w1.perm = w.perm ∧ w1.targets = w.targets)) :: unchangedReqs w1 l

/-- A batch's route completed: NO_ROUTE and unchanged requests complete, and the rest is armed (R267, R279). -/
def State.batchRouted (s : State) (b : Batch) (r : Running) (res : Routed) (dist : Nat) : State :=
  let l := unchangedReqs r.start b.reqs
  let none_ (x : Req × Bool) : Bool := decide (reasonOf res r.refused (dIngress x.1.desc) ≠ 0)
  let s1 := l.foldl (fun t x =>
    if none_ x then t.completeBare x.1 stNoRoute dist else if x.2 then t.completeBare x.1 stOk dist else t) s
  let left := (l.filter (fun x => !none_ x && !x.2)).map Prod.fst
  if left.isEmpty then
    { s1 with sched := { s1.sched with batches := s1.sched.batches.filter (fun x => decide (x.id ≠ b.id)) } }
  else s1.armBatch { b with reqs := left, disturbed := dist }

/-- A job ends without a plate: INTERNAL (R192, R220). (DEDUCED, log 38) -/
def State.jobFailed (s : State) (j : Job) : State :=
  match j.owner with
  | .cmd c => s.answer c stInternal []
  | .batch id =>
    match s.sched.batches.find? (fun (b : Batch) => decide (b.id = id)) with
    | none => s
    | some b =>
      b.reqs.foldl (fun t r => t.completeBare r stInternal 0)
        { s with sched := { s.sched with batches := s.sched.batches.filter (fun x => decide (x.id ≠ id)) } }

/-- A job writes its plate (R218); ROUTE_EPOCH is 0 without a lease (R194). Its writes reach the store in the one step of the job's
end. (DESIGN CHOICE, log 38) -/
def State.writeRoute (s : State) (r : Running) (res : Routed) (g : Geo) : State :=
  (plateWrites r res g (s.plate r.job.dest) s.ns (if s.pair.held then s.pair.epoch else 0) (s.clk.cycles - r.startCycle)).foldl
    (fun t w => t.portWrite 5 r.job.dest w.1 w.2 none) s

/-- The running job ends (R218 to R220). Bit 0 of the operand: the first run fails its trace check; bit 1: the rerun does. A
job whose destination is under a PLATE_READ copy waits for the copy's end (R505). (DEDUCED, log 36; DEDUCED, log 38) -/
def execRouteJobComplete (traceFails : BitVec 2) (s : State) : Host.Outcome State Fault Refusal :=
  match s.burin.running with
  | none => .next s
  | some r =>
    if s.underCopy r.job.dest then .next s
    else
      let g := geoOf r.bytes r.legacy
      let res := routeJob r.bytes g r.perm r.base r.pinned r.pinState
      let s1 := ({ s with burin := { s.burin with running := none } } : State).tally 0x202 1
      if r.bad then .next (s1.jobFailed r.job)
      else if traceFails = 3 || !traceOk g res r.pinned r.pinState then
        .next ((s1.fail 6 0 5 s1.clk.frame [43] true false).jobFailed r.job)
      else
        let cts := routeCounts g r.base res r.refused
        let cycles := min 65535 (s1.clk.cycles - r.startCycle)
        let s2 := s1.writeRoute r res g
        match r.job.owner with
        | .cmd c =>
          .next (s2.answer c (if cts.partialPlate then stNoRoute else stOk)
            [(0, cts.circuits), (2, cts.unrealised), (4, cts.disturbed), (6, cts.changed), (8, cycles)])
        | .batch id =>
          match s2.sched.batches.find? (fun (b : Batch) => decide (b.id = id)) with
          | none => .next s2
          | some b => .next (s2.batchRouted b r res cts.disturbed)

end Sys2Proof.Machine
end

