-- ==== Sys2Proof/Machine/Time.lean ====
section
/-! DEFINITION. Fabric time (chapter 9): servo, PTP ports, PPS lines, SYNC_IN, steps and settings. Offsets, delays and
timestamps are in units of 2⁻¹⁶ ns. -/

namespace Sys2Proof.Machine

/-! ## PPS_OUT gating (R322) -/

/-- PPS_OUT may be high: enabled, and LOCKED or in HOLDOVER when gated. -/
def State.ppsOpen (s : State) : Bool :=
  tb s.ft.ppsOut.toNat 0 && (!tb s.ft.ppsOut.toNat 1 || s.ft.state == .locked || s.ft.state == .holdover)

/-- STATE or the settings of PPS_OUT have changed: a pulse in progress ends when it may not be high (R322). (DEDUCED, log 43) -/
def State.gatePps (s : State) : State := { s with ft := { s.ft with ppsOutLine := s.ft.ppsOutLine && s.ppsOpen } }

/-- STATE changes (R309). -/
def State.servoTo (s : State) (st : ServoState) : State := ({ s with ft := { s.ft with state := st } } : State).gatePps

/-! ## Servo (R306 to R309, R317 to R319) -/

/-- Entry into HOLDOVER at the loss of the source (R318); STATE does not change during a hot restart (R319). -/
def State.holdover (s : State) : State :=
  if !s.sys.restarting && (s.ft.state == .acquiring || s.ft.state == .locked) then
    ((({ s with ft := { s.ft with cleared := s.remaining, rem := 0 } } : State).servoTo .holdover)).raise 52 .a
  else s

/-- The servo takes no measurement: FROZEN, and ASYMMETRY not written since (R309, R317). -/
def State.servoStill (s : State) : Bool := s.ft.state == .frozen && !s.ft.thawed

/-- STATE at an accepted measurement: FREERUN, HOLDOVER and a thawed FROZEN become ACQUIRING (R309, R317). -/
def State.measured (s : State) : State :=
  if s.ft.state == .freerun || s.ft.state == .holdover || (s.ft.state == .frozen && s.ft.thawed) then
    ({ s with ft := { s.ft with lockRun := 0, unlockRun := 0, thawed := false } } : State).servoTo .acquiring
  else s

/-- The lock runs of R309. -/
def State.lockRuns (s : State) (o : Int) : State :=
  let thr := s.ft.lockThreshold * 65536
  let small := decide (o.natAbs ≤ thr)
  let large := decide (4 * thr < o.natAbs)
  let lr := if small then s.ft.lockRun + 1 else 0
  let ur := if large then s.ft.unlockRun + 1 else 0
  if s.ft.state == .acquiring && decide (16 ≤ lr) then
    (({ s with ft := { s.ft with lockRun := 0, unlockRun := 0 } } : State).servoTo .locked).raise 51 .a
  else if s.ft.state == .locked && decide (4 ≤ ur) then
    ({ s with ft := { s.ft with lockRun := 0, unlockRun := 0 } } : State).servoTo .acquiring
  else { s with ft := { s.ft with lockRun := lr, unlockRun := ur } }

/-- FREQ within its limits (R298). -/
def limitFreq (f : Int) : Int := clampInt (-512000000) 512000000 f

/-- An accepted offset under PTP or PPS (R306); `tau` is the base-2 logarithm of the interval, from −7 to 1. (DEDUCED, log 43) -/
def State.servo (s : State) (o tau : Int) : State :=
  if s.sys.restarting || s.ft.step.isSome || s.servoStill then s
  else
    let s1 := s.measured
    let mayStep := s1.ft.stepAllowed && !s1.pair.held && (s1.ft.state == .freerun || s1.ft.state == .acquiring)
    let s2 : State :=
      if mayStep && decide (s1.ft.stepThreshold * 65536 < o.natAbs) then
        { s1 with ft := { s1.ft with step := some { absolute := none, offset := -o, cmd := none, armed := false } } }
      else
        let df := roundDiv ((s1.ft.ki : Int) * o * 1024 * 2 ^ 7) (2 ^ 32 * 2 ^ (tau + 7).toNat)
        let d := -(roundDiv ((s1.ft.kp : Int) * o) 65536)
        ({ s1 with ft := { s1.ft with rem := d * 2 ^ 32 } } : State).due (.freq (limitFreq (s1.ft.freq - df)))
    s2.lockRuns o

/-- An offset supplied by TIME_CONFIG under HOST (R306); none is taken in FROZEN (R309). (DEDUCED, log 43) -/
def State.hostOffset (s : State) (o : Int) : State :=
  if s.ft.step.isSome || s.servoStill then s
  else
    let s1 := s.measured
    ({ s1 with ft := { s1.ft with rem := -o * 2 ^ 32 } } : State).lockRuns o

/-! ## Masters (R312) -/

/-- The first master is better than the second (clause 9.3.4): the grandmaster's data set, then stepsRemoved and the
sender's identity for one grandmaster. -/
def lexLess : List (Nat × Nat) → Bool
  | [] => false
  | (a, b) :: r => if a < b then true else if b < a then false else lexLess r

/-- DESIGN CHOICE, log 8. -/
def announceKey (x y : Announce) : List (Nat × Nat) :=
  if x.gm = y.gm then [(x.steps, y.steps)]
  else [(x.priority1, y.priority1), (x.clockClass, y.clockClass), (x.accuracy, y.accuracy), (x.variance, y.variance),
        (x.priority2, y.priority2), (x.gm.toNat, y.gm.toNat)]

def announceBetter (x y : Announce) : Bool := lexLess (announceKey x y)

/-- The better of two masters of one port; equal data sets are separated by the sender's identity. -/
def announceWins (x y : BitVec 80 × Announce) : Bool := lexLess (announceKey x.2 y.2 ++ [(x.1.toNat, y.1.toNat)])

/-- The source is lost: under PTP neither port has a master, under PPS since PPS_LOSS (R318). -/
def State.sourceLost (s : State) : Bool :=
  match s.ft.source with
  | .ptp => !s.ft.port0.hasMaster && !s.ft.port1.hasMaster
  | .pps => s.ft.ppsLost
  | _ => false

/-- HOLDOVER follows the loss of the source. -/
def State.checkSource (s : State) : State := if s.sourceLost then s.holdover else s

/-- The selected port after a change of masters; the source is lost when neither port has one (R312, R318). -/
def State.selectPort (s : State) : State :=
  let has (b : Bool) : Bool := (s.ptp b).hasMaster
  let better := match (s.ptp true).best, (s.ptp false).best with
    | some x, some y => announceBetter x.2 y.2
    | _, _ => false
  let sel := if has true && (!has false || better) then true else if has false then false else s.ft.selected
  let s1 : State := if sel = s.ft.selected then s
    else ({ s with ft := { s.ft with selected := sel } } : State).raise 55 .m
  s1.checkSource

/-- The port takes part in PTP: up, enabled, and firmware runs (R310, R319). -/
def State.ptpOn (s : State) (b : Bool) : Bool := (s.ptp b).up && tb (s.ptp b).config.toNat 0 && !s.sys.restarting

def PtpPort.p2p (p : PtpPort) : Bool := tb p.config.toNat 1

/-- A message comes over the port's transport, with its tag, in its domain (R310, R529). (DEDUCED, log 43) -/
def PtpPort.accepts (p : PtpPort) (h : PtpHdr) : Bool :=
  let c := p.config.toNat
  decide (h.transport = fld c 2 2) && decide (h.vid = if tb c 4 then some (fld c 5 12) else none) && decide (h.domain = fld c 20 7)

/-- A message reaches the port's PTP Instance. -/
def State.ptpHears (s : State) (b : Bool) (h : PtpHdr) : Bool := s.ptpOn b && (s.ptp b).accepts h

/-- The sender is the port's selected master. (DEDUCED, log 43) -/
def PtpPort.fromMaster (p : PtpPort) (h : PtpHdr) : Bool := match p.best with | some m => decide (m.1 = h.sender) | none => false

/-- The port identity of the module on a management port (R310): its clockIdentity, port number 1. (PRESUMED, log 8) -/
def ownPort (b : Bool) : BitVec 80 := BitVec.ofNat 80 ((Config.clockIdentity b).toNat * 65536 + 1)

/-- 2 to the power of a logMessageInterval from −7 on, in seconds, as ns. -/
def logInterval (l : Int) : Nat := 7812500 * 2 ^ (l + 7).toNat

/-- The port loses its master. -/
def State.loseMaster (s : State) (b : Bool) : State :=
  (s.setPtp b { s.ptp b with best := none, syncSeen := false, hasMaster := false, sync := none, req := none, resp := none }).selectPort

/-- An Announce message: the best master of the port (R312). (DEDUCED, log 43) -/
def execPtpAnnounce (port : Bool) (m : AnnounceMsg) (s : State) : Host.Outcome State Fault Refusal :=
  let p := s.ptp port
  let a := m.data
  if !s.ptpHears port m.toPtpHdr || decide (a.logInterval < -3 ∨ 4 < a.logInterval) then .next s
  else
    let fresh : PtpPort := { p with best := some (m.sender, a), annAt := s.ns, syncSeen := false, hasMaster := false }
    let p1 : PtpPort := match p.best with
      | none => fresh
      | some b =>
        if b.1 = m.sender then { p with best := some (m.sender, a), annAt := s.ns }
        else if announceWins (m.sender, a) b then fresh
        else p
    .next (s.setPtp port p1).selectPort

/-- No Announce within announceReceiptTimeout announce intervals (R312). -/
def PtpPort.annLate (p : PtpPort) (now : Nat) : Bool :=
  match p.best with
  | some m => decide (p.annAt + fld p.config.toNat 27 8 * logInterval m.2.logInterval ≤ now)
  | none => false

/-- No Sync within 16 sync intervals (R312). -/
def PtpPort.syncLate (p : PtpPort) (now : Nat) : Bool := p.syncSeen && decide (p.syncAt + 16 * logInterval p.syncLog ≤ now)

/-- A port loses its master (R312): no Announce for announceReceiptTimeout announce intervals, or no Sync for 16 sync intervals. (DESIGN
CHOICE, log 17) -/
def execAnnounceTimeout (port : Bool) (s : State) : Host.Outcome State Fault Refusal :=
  let p := s.ptp port
  if s.sys.restarting then .next s
  else if p.annLate s.ns then .next (s.loseMaster port)
  else if p.syncLate s.ns then .next (s.setPtp port { p with syncSeen := false, hasMaster := false, sync := none, resp := none }).selectPort
  else .next s

/-! ## Path delays (R316, R317) -/

/-- A delay, given twice over, lies farther than PATH_STEP_THRESHOLD from the exact mean of the delays accepted (R316, R591). -/
def PtpPort.delayFar (p : PtpPort) (thr : Nat) (d2 : Int) : Bool :=
  decide (2 * thr * 65536 * p.delays.length < (d2 * p.delays.length - p.delays.foldl (· + ·) 0).natAbs)

/-- A delay measurement of a port (R316), given twice over so that it is exact: the state and whether it is accepted. (DEDUCED, log 43) -/
def State.pathDelay (s : State) (b : Bool) (d2 : Int) : State × Bool :=
  let p := s.ptp b
  if !p.delays.isEmpty && decide (p.reseed = 0) && p.delayFar s.ft.pathThreshold d2 then
    if p.held + 1 < 4 then (s.setPtp b { p with held := p.held + 1 }, false)
    else
      let s1 := (s.setPtp b { p with held := 0, delays := [], reseed := 16, pathStep := true }).raise 54 .m { unit := bit b }
      (if s1.ft.stepFreeze then ({ s1 with ft := { s1.ft with frozenPort := b, thawed := false } } : State).servoTo .frozen else s1, false)
  else
    let left := p.reseed - 1
    (s.setPtp b { p with held := 0, delays := (d2 :: p.delays).take 16, lastDelay := d2, reseed := left,
                         pathStep := p.pathStep && decide (0 < left) }, true)

/-- An offset measured on a port goes to the servo when the port is selected (R312). (DEDUCED, log 43) -/
def State.portOffset (s : State) (b : Bool) (o tau : Int) : State :=
  let s1 := s.setPtp b { s.ptp b with lastOffset := o }
  if s1.ft.source == .ptp && (s1.ft.selected == b) && (s1.ptp b).hasMaster then s1.servo o tau else s1

/-! ## Messages (R313 to R315) -/

/-- t2 − t1 − c_s of a Sync exchange: d_ms (R314, R315). -/
def PtpSync.dms (y : PtpSync) : Int := y.t2 - (y.ingress : Int) - y.t1 - y.corr

/-- A delay request-response measurement is complete when its Sync exchange and its Delay_Resp have both arrived (R315); each
measurement has a Sync of its own (R306). (DEDUCED, log 43) -/
def State.e2eDone (s : State) (b : Bool) : State :=
  let p := s.ptp b
  match p.sync, p.req, p.resp with
  | some y, some q, some (t4, c) =>
    if y.waits || p.p2p then s
    else
      let dsm := t4 - (q.t + (y.egress : Int)) - c
      let r := (s.setPtp b { p with sync := none, req := none, resp := none }).pathDelay b (y.dms + dsm)
      if r.2 then r.1.portOffset b (roundDiv (y.dms - dsm - 2 * y.asymmetry) 2) y.log else r.1
  | _, _, _ => s

/-- A Sync exchange of a port is complete (R315). Under peer delay it gives an offset. -/
def State.syncDone (s : State) (b : Bool) : State :=
  let p := s.ptp b
  match p.sync with
  | some y =>
    if y.waits then s
    else if p.p2p then
      if p.delays.isEmpty then s else s.portOffset b (roundDiv (2 * (y.dms - y.asymmetry) - p.lastDelay) 2) y.log
    else s.e2eDone b
  | none => s

/-- A Sync message of the selected master is received and timestamped (R312 to R315). (DEDUCED, log 43) -/
def execPtpSync (port : Bool) (h : PtpHdr) (seq : W16) (twoStep : Bool) (logInterval : Int) (t1 corr : PtpTime) (s : State) :
    Host.Outcome State Fault Refusal :=
  let p := s.ptp port
  if !s.ptpHears port h || !p.fromMaster h then .next s
  else if logInterval < -7 ∨ 1 < logInterval then .next (s.setPtp port { p with sync := none })
  else
    let y : PtpSync := { seq := seq, t1 := t1, t2 := s.ns16, corr := corr, log := logInterval, waits := twoStep,
                         ingress := p.ingress, egress := p.egress, asymmetry := p.asymmetry }
    .next (((s.setPtp port { p with sync := some y, syncSeen := true, hasMaster := true, syncAt := s.ns, syncLog := logInterval }
      ).selectPort).syncDone port)

/-- A Follow_Up message is received (R315). -/
def execPtpFollowUp (port : Bool) (m : PtpMsg) (t1 corr : PtpTime) (s : State) : Host.Outcome State Fault Refusal :=
  let p := s.ptp port
  if !s.ptpHears port m.toPtpHdr || !p.fromMaster m.toPtpHdr then .next s
  else match p.sync with
  | some y =>
    if y.waits && decide (y.seq = m.seq) then
      .next ((s.setPtp port { p with sync := some { y with t1 := t1, corr := y.corr + corr, waits := false } }).syncDone port)
    else .next s
  | none => .next s

/-- The request interval of a delay mechanism expires (`peer`: Pdelay_Req) and the port that runs it sends its request, timestamped (R310,
R313). (DESIGN CHOICE, log 17) -/
def execDelayReqSend (port : Bool) (peer : Bool) (s : State) : Host.Outcome State Fault Refusal :=
  let p := s.ptp port
  if !s.ptpOn port || (p.p2p != peer) || (!p.p2p && p.best.isNone) || (decide (0 < p.reqSeq.toNat) && decide (s.ns < p.reqAt + logInterval p.reqLog)) then
    .next s
  else
    let q : PtpReq := { seq := p.reqSeq, t := s.ns16, ingress := p.ingress, egress := p.egress }
    let s1 := s.setPtp port { p with req := some q, resp := none, reqSeq := p.reqSeq + 1, reqAt := s.ns, pdelay := none }
    .next (s1.emit (.ptpTx port (if p.p2p then 2 else 1) p.reqSeq.toNat (ownPort port).toNat 0 0 (s.ns16 + (p.egress : Int)) 0))

/-- The pending request that a response answers (R315). -/
def PtpPort.pendingReq (p : PtpPort) (b : Bool) (requester : BitVec 80) (seq : W16) : Option PtpReq :=
  match p.req with
  | some q => if q.seq = seq ∧ requester = ownPort b then some q else none
  | none => none

/-- A Delay_Resp message (R315): the measurement is complete once its Sync exchange is, too. -/
def execPtpDelayResp (port : Bool) (r : PtpResp) (logInterval : Int) (t4 corr : PtpTime) (s : State) :
    Host.Outcome State Fault Refusal :=
  let p := s.ptp port
  if !s.ptpHears port r.toPtpHdr || !p.fromMaster r.toPtpHdr || p.p2p || (p.pendingReq port r.requester r.seq).isNone then .next s
  else .next ((s.setPtp port { p with resp := some (t4, corr), reqLog := clampInt (-7) 5 logInterval }).e2eDone port)

/-- A Pdelay_Req is received and the module responds (R310), with the request's correctionField. (DEDUCED, PRESUMED, log 43) -/
def execPtpPdelayReq (port : Bool) (h : PtpHdr) (seq : W16) (corr : PtpTime) (s : State) : Host.Outcome State Fault Refusal :=
  let p := s.ptp port
  if !s.ptpHears port h || !p.p2p then .next s
  else
    let rx := s.ns16 - (p.ingress : Int)
    let tx := s.ns16 + (p.egress : Int)
    let s1 := s.emit (.ptpTx port 3 seq.toNat (ownPort port).toNat h.sender.toNat rx tx corr)
    .next (if tb p.config.toNat 35 then s1.emit (.ptpTx port 4 seq.toNat (ownPort port).toNat h.sender.toNat rx tx corr) else s1)

/-- A peer-delay exchange is complete (R315): t2, t3, the timestamp of receipt of the response, the corrections. -/
def State.peerDone (s : State) (b : Bool) (t2 t3 rx corr : Int) : State :=
  let p := s.ptp b
  match p.req with
  | some q =>
    let t1 := q.t + (q.egress : Int)
    let t4 := rx - (q.ingress : Int)
    ((s.setPtp b { p with req := none, pdelay := none }).pathDelay b ((t4 - t1) - (t3 - t2) - corr)).1
  | none => s

/-- A Pdelay_Resp is received (R315): one-step, its correctionField carries the turnaround. -/
def execPtpPdelayResp (port : Bool) (m : PtpMsg) (requester : BitVec 80) (twoStep : Bool) (t2 corr : PtpTime) (s : State) :
    Host.Outcome State Fault Refusal :=
  let p := s.ptp port
  if !s.ptpHears port m.toPtpHdr || !p.p2p || (p.pendingReq port requester m.seq).isNone then .next s
  else if twoStep then .next (s.setPtp port { p with pdelay := some (m.seq, t2, s.ns16, corr) })
  else .next (s.peerDone port 0 0 s.ns16 corr)

/-- A Pdelay_Resp_Follow_Up is received (R315). -/
def execPtpPdelayRespFollowUp (port : Bool) (r : PtpResp) (t3 corr : PtpTime) (s : State) :
    Host.Outcome State Fault Refusal :=
  let p := s.ptp port
  if !s.ptpHears port r.toPtpHdr || !p.p2p || decide (r.requester ≠ ownPort port) then .next s
  else match p.pdelay with
  | some (q, t2, rx, c) => if q = r.seq then .next (s.peerDone port t2 t3 rx (c + corr)) else .next s
  | none => .next s

/-! ## ETHREF and the management ports (R15, R552) -/

/-- A management port goes down: its protocol state is lost (R312, R552). -/
def State.portDown (s : State) (b : Bool) : State :=
  (s.setPtp b { s.ptp b with up := false, delays := [], held := 0, reseed := 0, pdelay := none }).loseMaster b

/-- A management port goes down (R552). -/
def execEthPortDown (port : Bool) (s : State) : Host.Outcome State Fault Refusal := .next (s.portDown port)

/-- A management port comes up at a rate (R312, R314); not without ETHREF (R15). (DEDUCED, log 43) -/
def execEthPortUp (port : Bool) (rate25 : Bool) (s : State) : Host.Outcome State Fault Refusal :=
  if !s.clk.ethref then .next s
  else
    let p := s.ptp port
    .next (s.setPtp port { p with
      up := true, rate25 := rate25,
      ingress := if p.latSet then p.ingress else if rate25 then 2064384 else 4404019,
      egress := if p.latSet then p.egress else if rate25 then 1468006 else 3145728 })

/-! ## PPS_IN (R320, R321) -/

/-- The time of an edge: 3 cycles and PPS_IN_DELAY before now. -/
def State.edgeTime (s : State) : Int := s.ns16 - roundDiv (3 * s.ft.inc : Nat) (2 ^ 32) - (s.ft.ppsInDelay : Int)

/-- A rising edge of PPS_IN (R320). -/
def execPpsInEdge (s : State) : Host.Outcome State Fault Refusal :=
  let now := s.ns
  let near := match s.ft.ppsEdge with | some e => decide (now < e + 1000000) | none => false
  if near && (s.ft.ppsGlitch || s.ft.ppsHeld.isSome) then
    let s1 : State := { s with ft := { s.ft with ppsHeld := none, ppsEdge := some now, ppsGlitch := true } }
    .next (if s.ft.ppsGlitch then s1 else s1.raise 56 .m)
  else .next { s with ft := { s.ft with ppsHeld := some s.edgeTime, ppsEdge := some now, ppsGlitch := false } }

/-- One second in units of 2⁻¹⁶ ns. -/
def second16 : Int := 65536000000000

/-- The offset of a time from the nearest whole second. -/
def fromSecond (t : Int) : Int := t - (t + second16 / 2) / second16 * second16

/-- After 1 ms a held timestamp is accepted or dropped (R321). -/
def execPpsInAccept (s : State) : Host.Outcome State Fault Refusal :=
  match s.ft.ppsHeld, s.ft.ppsEdge with
  | some t, some e =>
    if s.ns < e + 1000000 then .next s
    else
      let o := fromSecond t
      let pps := s.ft.source == .pps
      let free := pps && (s.ft.state == .freerun || s.ft.state == .acquiring) && decide (s.ft.stepThreshold * 65536 < o.natAbs)
      let s1 : State := { s with ft := { s.ft with ppsHeld := none } }
      if decide (o.natAbs ≤ 65536000) || free then
        let s2 : State := { s1 with ft := { s1.ft with ppsValid := true, ppsOffset := o, ppsLast := e, ppsLost := false } }
        .next (if pps then s2.servo o 0 else s2)
      else .next s1
  | _, _ => .next s

/-- Two seconds of fabric time pass without an accepted edge, from the last one or from the start (R321, R318); raised once. (DESIGN CHOICE,
log 17; DEDUCED, log 43) -/
def execPpsLoss (s : State) : Host.Outcome State Fault Refusal :=
  if s.ft.ppsLost || decide (s.ns < s.ft.ppsLast + 2000000000) then .next s
  else .next (({ s with ft := { s.ft with ppsValid := false, ppsLost := true } } : State).raise 57 .m).checkSource

/-! ## PPS_OUT (R322) -/

def State.ppsAdvance (s : State) : Nat := fld s.ft.ppsOut.toNat 32 32

/-- The last whole second whose rising edge has been reached. -/
def State.ppsSecond (s : State) : Nat := (s.ft.t / 2 ^ 32 + s.ppsAdvance) / 65536000000000

/-- Fabric time reaches a second minus PPS_OUT_ADVANCE (R322); gated, no pulse unless LOCKED or in HOLDOVER. (DEDUCED, log 43) -/
def execPpsOutRise (s : State) : Host.Outcome State Fault Refusal :=
  if !tb s.ft.ppsOut.toNat 0 || decide (s.ppsSecond < s.ft.ppsOutNext) then .next s
  else
    let s1 : State := { s with ft := { s.ft with ppsOutNext := s.ppsSecond + 1 } }
    if !s.ppsOpen then .next s1
    else .next { s1 with ft := { s1.ft with ppsOutLine := true, ppsOutEnd := s.ns + 1000 * fld s.ft.ppsOut.toNat 8 24 } }

/-- The pulse ends after its width (R322). (DEDUCED, log 43) -/
def execPpsOutFall (s : State) : Host.Outcome State Fault Refusal :=
  if s.ft.ppsOutLine && decide (s.ft.ppsOutEnd ≤ s.ns) then .next { s with ft := { s.ft with ppsOutLine := false } } else .next s

/-! ## SYNC_IN (R29, R323) -/

/-- A rising edge of SYNC_IN (R323): merged into an accepted one less than 2,000 ns of fabric time away, else it triggers the armed
ON_SYNC impression at the first tick at least 24 cycles after the synchronised edge (R29). (DEDUCED, log 43) -/
def execSyncInEdge (s : State) : Host.Outcome State Fault Refusal :=
  let now := s.ns
  let s0 : State := { s with ft := { s.ft with syncLine := true, syncStuck := false, syncTick := s.clk.ticks } }
  if s.ft.syncLine && decide (((now : Int) - s.ft.syncTime).natAbs < 2000) then .next s0
  else
    let tick := s.clk.frame + (if 27 ≤ s.toTick then 1 else 2)
    let fire (a : Armed) : Armed := if a.trigger = .onSync ∧ a.due.isNone then { a with due := some (2000 * tick) } else a
    .next { s0 with ft := { s0.ft with syncCount := s0.ft.syncCount + 1, syncTime := now },
                    imp := { s0.imp with armed := s0.imp.armed.map fire } }

/-- SYNC_IN stays high for 500,000 frames from its last rising edge (R9, R323). (DEDUCED, log 43) -/
def execSyncStuck (s : State) : Host.Outcome State Fault Refusal :=
  if !s.ft.syncLine || s.ft.syncStuck || decide (s.clk.ticks < s.ft.syncTick + 500000) then .next s
  else .next (({ s with ft := { s.ft with syncStuck := true } } : State).raise 58 .m)

/-! ## Steps (R308, R20) -/

/-- A port's marks of elapsed time move with a step. -/
def PtpPort.shift (p : PtpPort) (f : Nat → Nat) : PtpPort := { p with annAt := f p.annAt, syncAt := f p.syncAt, reqAt := f p.reqAt }

/-- An accepted step is applied 64 cycles after the tick (R308). Durations that run go on: the marks from which they count move with the
step. (DEDUCED, log 43) -/
def execTimeStep (s : State) : Host.Outcome State Fault Refusal :=
  match s.ft.step with
  | none => .next s
  | some q =>
    if !q.armed || s.pair.held || !s.runs then .next s
    else
      let s1 := s.atCycle 64
      let old := s1.ns
      let new : Nat := match q.absolute with
        | some a => a
        | none => (((s1.ns16 + q.offset) / 65536) % 2 ^ 64).toNat
      let shift (e : Nat) : Nat := ((e : Int) + (new : Int) - (old : Int)).toNat
      let s2 : State := { s1 with
        ft := { s1.ft with t := new * 2 ^ 48, rem := 0, step := none, ppsOutEnd := shift s1.ft.ppsOutEnd,
                           ppsLast := shift s1.ft.ppsLast, ppsEdge := s1.ft.ppsEdge.map shift,
                           port0 := s1.ft.port0.shift shift, port1 := s1.ft.port1.shift shift },
        pair := { s1.pair with standbySince := shift s1.pair.standbySince },
        clk := { s1.clk with stepped := true } }
      let s3 : State := { s2 with ft := { s2.ft with ppsOutNext := s2.ppsSecond + 1 } }
      let s4 := (s3.raise 53 .a).stopSlots
      .next (match q.cmd with | some c => s4.answer c stOk [] | none => s4)

/-! ## Registers (R300 to R302) -/

/-- A read of TM_NS (R301). -/
def execTmNsRead (fn : BitVec 7) (s : State) : Host.Outcome State Fault Refusal :=
  let n := fn.toNat
  if !s.present n || (s.fn n).d3 then .next s
  else .next ((s.modFn n (fun f => { f with frameLat := BitVec.ofNat 32 s.frame32 })).returns (s.ns % 2 ^ 32))

/-- A write of TM_ADJ (R302). -/
def execTmAdj (fn : BitVec 7) (value : W32) (s : State) : Host.Outcome State Fault Refusal :=
  if fn ≠ 0 ∨ s.ft.source ≠ .host ∨ (s.fn 0).d3 then .next s
  else .next (s.due (.freq (limitFreq (signed 32 value.toNat))))

/-! ## Settings (R324, R529) -/

/-- SOURCE by its code (R303). -/
def sourceOf (v : Nat) : TimeSource := if v = 0 then .none else if v = 1 then .ptp else if v = 2 then .pps else .host

/-- A setting takes effect at a tick (R529). -/
def State.timeItem (s : State) (item : Nat) (b : Bool) (v : Nat) : State :=
  let p := s.ptp b
  let ft := s.ft
  if item = 1 then
    if sourceOf (v % 4) = ft.source then s
    else
      let s1 : State := { s with ft := { ft with source := sourceOf (v % 4), rem := 0, lockRun := 0, unlockRun := 0 } }
      if v % 4 = 0 then s1.servoTo .freerun else s1.checkSource
  else if item = 2 then { s with ft := { ft with kp := fld v 0 16, ki := fld v 16 16 } }
  else if item = 3 then { s with ft := { ft with slewMax := fld v 0 64 } }
  else if item = 4 then { s with ft := { ft with stepAllowed := tb v 0 } }
  else if item = 5 then { s with ft := { ft with stepThreshold := fld v 0 32 } }
  else if item = 6 then { s with ft := { ft with lockThreshold := fld v 0 16 } }
  else if item = 7 then { s with ft := { ft with pathThreshold := fld v 0 16 } }
  else if item = 8 then { s with ft := { ft with stepFreeze := tb v 0 } }
  else if item = 9 then
    -- Another domain, transport or tag has other masters, another mechanism other measurements.
    let s1 := s.setPtp b { p with config := BitVec.ofNat 36 v, delays := if tb v 1 = p.p2p then p.delays else [] }
    if fld v 0 5 = fld p.config.toNat 0 5 ∧ fld v 5 12 = fld p.config.toNat 5 12 ∧ fld v 20 7 = fld p.config.toNat 20 7 ∧ tb v 0 then s1
    else s1.loseMaster b
  else if item = 10 then s.setPtp b { p with ingress := fld v 0 32, egress := fld v 32 32, latSet := true }
  else if item = 11 then
    let s1 := s.setPtp b { p with asymmetry := signed 32 v }
    if ft.state = .frozen ∧ ft.frozenPort = b then { s1 with ft := { s1.ft with thawed := true } } else s1
  else if item = 12 then { s with ft := { ft with ppsInDelay := fld v 0 32 } }
  else if item = 13 then
    let s1 : State := { s with ft := { ft with ppsOut := BitVec.ofNat 64 v } }
    ({ s1 with ft := { s1.ft with ppsOutNext := s1.ppsSecond + 1 } } : State).gatePps
  else s

/-- VALUE of a setting (R529). -/
def State.timeValue (s : State) (item : Nat) (b : Bool) : Nat :=
  let p := s.ptp b
  if item = 1 then s.ft.source.num
  else if item = 2 then s.ft.kp + 65536 * s.ft.ki
  else if item = 3 then s.ft.slewMax
  else if item = 4 then bit s.ft.stepAllowed
  else if item = 5 then s.ft.stepThreshold
  else if item = 6 then s.ft.lockThreshold
  else if item = 7 then s.ft.pathThreshold
  else if item = 8 then bit s.ft.stepFreeze
  else if item = 9 then p.config.toNat
  else if item = 10 then p.ingress + 2 ^ 32 * p.egress
  else if item = 11 then unsigned 32 p.asymmetry
  else if item = 12 then s.ft.ppsInDelay
  else s.ft.ppsOut.toNat

/-! ## TIME_STATUS (R530) -/

/-- The mean of the delays accepted, rounded to its format (R591); 0 without one. -/
def PtpPort.meanDelay (p : PtpPort) : Int := roundDiv (p.delays.foldl (· + ·) 0) (2 * p.delays.length)

/-- The 40 bytes of one port. -/
def PtpPort.status (p : PtpPort) : List Byte :=
  let parent := match p.best with | some m => m.1.toNat | none => 0
  let gm := match p.best with | some m => m.2.gm.toNat | none => 0
  bytesLE 8 (unsigned 64 p.lastOffset) ++ bytesLE 8 (unsigned 64 p.meanDelay) ++
  bytesLE 10 parent ++ bytesLE 2 (bit p.hasMaster + 2 * bit p.pathStep + 4 * bit (decide (0 < p.reseed))) ++
  bytesLE 8 gm ++ bytesLE 4 0

/-- The 128 bytes of the buffer. -/
def State.timeDetail (s : State) : List Byte :=
  s.ft.port0.status ++ s.ft.port1.status ++ bytesLE 8 (unsigned 64 s.ft.ppsOffset) ++ bytesLE 4 s.ft.syncCount.toNat ++
  bytesLE 4 0 ++ bytesLE 8 s.ft.syncTime ++ bytesLE 8 (unsigned 64 s.ft.cleared) ++ bytesLE 16 0

/-- The response payload, taken at a tick. -/
def State.timeReply (s : State) : List (Nat × Nat) :=
  [(0, s.clk.tickTime), (8, s.clk.frame), (0x10, s.tmStatus), (0x14, unsigned 32 s.ft.freq),
   (0x18, unsigned 64 s.remaining), (0x20, unsigned 64 (s.ptp s.ft.selected).lastOffset)]

end Sys2Proof.Machine
end

