-- ==== Sys2Proof/Machine/Health.lean ====
section
/-! DEFINITION. Retirement, pins, restoration, the retirement record, the monitors and the health report (R370 to R380, R385
to R389). -/

namespace Sys2Proof.Machine

/-! ## Pins (R372, R375, R378) -/

/-- The PIN message of a cell (R351): 0 and 1 pin, 2 releases. -/
def State.mirrorPinOf (s : State) (cell : Nat) (st : Option Bool) : State :=
  s.mirrorSend 0x06 (bytesLE 2 cell ++ bytesLE 1 (match st with | some b => bit b | none => 2))

/-- A cell is pinned by retirement; the first pin stands (R372). -/
def State.pinCell (s : State) (cell : Nat) (st : Bool) : State :=
  if (find? s.faults.pins cell).isSome then s
  else
    ({ s with faults := { s.faults with pins := wr s.faults.pins cell st, recordDue := true } } : State).mirrorPinOf cell (some st)

/-- A pin by retirement is released (R377). (DEDUCED, log 35) -/
def State.unpinCell (s : State) (cell : Nat) : State :=
  if (find? s.faults.pins cell).isNone then s
  else
    ({ s with faults := { s.faults with pins := del s.faults.pins cell, recordDue := true } } : State).mirrorPinOf cell none

/-- The cell of a drive channel, sense channel or cell. -/
def unitCell (kind index : Nat) : Option Nat :=
  if kind = 1 then (if index < 9216 then some (index % 4608) else none)
  else if kind = 2 then (if index < 4608 then some index else none)
  else if kind = 3 then some index
  else none

/-- The port (port table order) of a VOA or a tap. -/
def unitPort (kind index : Nat) : Option Nat :=
  if kind = 1 then (if index < 9216 then none else some (index - 9216))
  else if kind = 2 then (if index < 4608 then none else some (index - 4608))
  else none

/-- A retirement of the unit pins its cell (R371): EO channels, heaters and cells. -/
def pins (kind : Nat) : Bool := decide (kind = 1 ∨ kind = 3)

/-- A cell has a retired unit that pins it (R371, R375). (DEDUCED, log 35) -/
def State.pinDue (s : State) (cell : Nat) : Bool :=
  s.retired 1 cell || s.retired 1 (4608 + cell) || s.retired 3 cell

/-- The pins of the first tick of a lease (R375): cells with a retired EO channel or heater take the state of the image that
is driven. (DEDUCED, log 35) -/
def State.pinRetired (s : State) : State :=
  (s.geo.cells.filter (fun c => s.pinDue c && (s.pin c).isNone)).foldl (fun t c => t.pinCell c (t.cellState c)) s

/-- DATA of CHANNEL_RETIRED and CHANNEL_RESTORED (R593). -/
def State.unitData (s : State) (kind index reason : Nat) : Nat :=
  pack [(8, kind), (16, index), (8, reason), (2, match unitCell kind index with
    | some c => (match s.pin c with | some st => bit st + 2 | none => 0)
    | none => 0)]

/-! ## Retirement at a tick (R370 to R374) -/

/-- The spares of the loop engines serve the lists of retired engines while 16 engines are healthy (R187): each list keeps
its server while that is healthy, and else takes the lowest healthy spare that serves none. (DEDUCED, log 35) -/
def State.assignSpares (s : State) : State :=
  (List.range 16).foldl (fun (t : State) e =>
    let put (v : Tbl Nat) : State := { t with loops := { t.loops with engine := v } }
    if !t.retired 5 e then put (del t.loops.engine e)
    else
      let cur := t.listServer e
      if cur ≠ e ∧ !t.retired 5 cur then t
      else match [16, 17].find? (fun sp => !t.retired 5 sp && !t.loops.engine.any (fun x => decide (x.2 = sp))) with
        | some sp => put (wr t.loops.engine e sp)
        | none => t) s

/-- LOOP_DEGRADED is raised when fewer than 14 engines are left (R34), and five lost engines ask for a swap (R380). -/
def State.engineCheck (s : State) : State :=
  let few := decide (s.healthyEngines.length < 14)
  let s1 : State := { s with loops := { s.loops with degraded := few } }
  if few then (if s.loops.degraded then s1 else s1.raise 26 .m).requestSwap else s1

/-- The interleave pair of core p has no converter for one of its cores (R130, R132). -/
def State.pairCount (s : State) (p : Nat) : Nat :=
  bit (s.converter p).isSome + bit (s.converter (pairMate p)).isSome

/-- A port becomes DEGRADED once (R373). -/
def State.degradePort (s : State) (p : Nat) : State :=
  if rd s.faults.degraded p false then s
  else ({ s with faults := { s.faults with degraded := wr s.faults.degraded p true } } : State).raise 22 (.p p)

/-- A unit is retired at this tick (R370 to R374). (DEDUCED, log 35) -/
def State.retireAt (s : State) (kind index reason : Nat) : State :=
  if s.retired kind index then s
  else
    let u := s.funit kind index
    let s1 := s.setFunit kind index { u with retired := some reason }
    let s2 : State := { s1 with faults := { s1.faults with recordDue := true } }
    let flags := 4 + 2 * bit (decide (reason ≠ 11))
    let count := min 255 (recent u.dates s.clk.frame).length
    if kind = 4 then
      let s3 := State.retireCore s s2 index
      let s4 := s3.raise (240 + index / 17) .m { kind := 4, unit := index, flags := flags, count := count, reason := reason, data := index }
      if (List.range 8).any (fun h => decide (s4.pairCount (17 * (index / 17) + 2 * h) = 0)) then s4.requestSwap else s4
    else if kind = 5 then
      let s3 := (State.replace s s2.assignSpares)
      (s3.raise 23 .m { kind := 5, unit := index, flags := flags, count := count, reason := reason, data := index }).engineCheck
    else
      let s3 := match unitCell kind index with
        | some c => if pins kind && s2.pair.held && (s2.pin c).isNone then s2.pinCell c (s2.cellState c) else s2
        | none => s2
      let s4 := match unitPort kind index with | some p => s3.degradePort p | none => s3
      s4.raiseUnit 20 kind index { flags := flags, count := count, reason := reason, data := s4.unitData kind index reason }

/-! ## Restoration (R377) -/

/-- The loop of a channel restarts without a bump; a cell bias loop restarts both states. -/
def State.restartLoop (s : State) (i : Nat) : State :=
  if i < 4608 then s
  else
    let s1 := s.modDch i (fun c => { c with bumpless := true })
    if i < 9216 then s1.setCs i (restartBoth (s1.cs i)) else s1

/-- The loops of a unit. -/
def unitLoops (kind index : Nat) : List Nat :=
  if kind = 1 then [index] else if kind = 2 then [4608 + index] else if kind = 3 then [4608 + index] else []

/-- A retired unit returns to service at this tick. A unit that is not retired is left as it is. The pin that retirement gave its cell
is released; a pin of the descriptor stays (R61). (DEDUCED, log 35) -/
def State.restoreAt (s : State) (kind index : Nat) : State :=
  if !s.retired kind index then s
  else
    let s1 := s.setFunit kind index .init
    let s2 : State := { s1 with faults := { s1.faults with recordDue := true } }
    if kind = 4 then State.restoreCore s s2 index
    else if kind = 5 then (State.replace s s2.assignSpares).engineCheck
    else
      let s3 := match unitCell kind index with
        | some c => if pins kind then s2.unpinCell c else s2
        | none => s2
      let s4 := match unitPort kind index with
        | some p =>
          if s3.retired 1 (9216 + p) || s3.retired 2 (4608 + p) then s3
          else { s3 with faults := { s3.faults with degraded := del s3.faults.degraded p } }
        | none => s3
      let s5 := (unitLoops kind index).foldl State.restartLoop s4
      s5.raiseUnit 21 kind index { flags := 8, data := s5.unitData kind index 0 }

/-- A cell pinned by the descriptor answers RETIRED (R377). (DEDUCED, log 35) -/
def State.restoreStatus (s : State) (kind index : Nat) : Nat :=
  if kind = 3 ∧ s.desc.loaded ∧ s.fabPinned index then stRetired else stOk

/-! ## The retirement record (R378, R379) -/

/-- A bitmap of n bits from the units that satisfy a predicate. -/
def unitBits (n : Nat) (p : Nat → Bool) : Nat := (List.range n).foldl (fun a i => if p i then a + 2 ^ i else a) 0

/-- The 3,248 bytes of the body. -/
def State.retireBody (s : State) : List Byte :=
  bytesLE 1280 (unitBits 10240 (s.retired 1)) ++ bytesLE 704 (unitBits 5632 (s.retired 2)) ++
  bytesLE 576 (unitBits 4608 (fun c => (find? s.faults.pins c).isSome)) ++ bytesLE 576 (unitBits 4608 (fun c => rd s.faults.pins c false)) ++
  bytesLE 32 (unitBits 136 (s.retired 4)) ++ bytesLE 4 (unitBits 18 (s.retired 5)) ++ bytesLE 12 0 ++
  (List.range 16).flatMap (fun p => bytesLE 4 (rd s.faults.procBase p 0))

/-- Addresses of a two-copy record (R441). -/
def retireA0 : Nat := 0x01010000
def retireA1 : Nat := 0x01011000

/-- The record is written (R378). (DEDUCED, log 35) -/
def State.writeRetirement (s : State) : State :=
  ({ s with faults := { s.faults with recordDue := false } } : State).flashJob (.retirement s.retireBody)

/-- At the first tick with frame number mod 50,000 = 0 after a change the record is written (R378); firmware writes it, so
not during a hot restart. (DEDUCED, log 35) -/
def State.recordTick (s : State) : State :=
  if s.faults.recordDue && decide (s.clk.frame % 50000 = 0) && !s.sys.restarting then s.writeRetirement else s

/-- The reason of a drive channel that a record lists as retired: the record does not hold it, so it is a free choice among
the reasons that retire a drive channel (log 13). (DESIGN CHOICE, log 13) -/
def bootReason (n : Nat) : Nat := ([1, 2, 3, 7, 10, 11][Config.freeNat n % 6]?).getD 11

/-- The units and pins of the record in force are retired and pinned (R378); no valid copy raises RETIRE_RECORD_ERROR and
records a new pair of copies. No event is raised for a unit that the record lists; LOOP_DEGRADED is, when it leaves fewer than 14
engines (R34). The record holds no order of retirement: spare 16 takes the list of the lowest engine listed (R187). (DESIGN CHOICE, log
13; DEDUCED, log 35) -/
def State.loadRetirement (s : State) : State :=
  match s.recordInForce retireA0 retireA1 3248 with
  | none =>
    let s1 := s.raise 19 .m
    let b := s1.retireBody
    (s1.flashJob (.retirement b)).flashJob (.retirement b)
  | some (c, _) =>
    let body := s.flashBytes ((if c then retireA1 else retireA0) + 16) 3248
    let bits (off n : Nat) : List Nat := (List.range (8 * n)).filter (fun i => tb (fieldB body off n) i)
    let ret (t : State) (kind i reason : Nat) : State := t.setFunit kind i { dates := [], permanent := true, retired := some reason }
    let s1 := (bits 0 1280).foldl (fun t i => let f := t.fresh; ret f.2 1 i (bootReason f.1)) s
    let s2 := (bits 1280 704).foldl (fun t i => if i < 5632 then ret t 2 i 4 else t) s1
    let state := fieldB body (1280 + 704 + 576) 576
    let s3 := (bits (1280 + 704) 576).foldl (fun (t : State) i => { t with faults := { t.faults with pins := wr t.faults.pins i (tb state i) } }) s2
    let s4 := ((bits (1280 + 704 + 1152) 32).filter (fun i => decide (i < 136))).foldl (fun t i => State.retireCore t (ret t 4 i 5) i) s3
    let s5 := ((bits (1280 + 704 + 1152 + 32) 4).filter (fun i => decide (i < 18))).foldl (fun t i => State.replace t (ret t 5 i 8).assignSpares) s4
    let ports := (List.range 1024).filter (fun p => s5.retired 1 (9216 + p) || s5.retired 2 (4608 + p))
    let s6 := ports.foldl (fun (t : State) p => { t with faults := { t.faults with degraded := wr t.faults.degraded p true } }) s5
    let s7 : State := { s6 with faults := { s6.faults with procBase := (List.range 16).map (fun p => (p, fieldB body (0xC70 + 4 * p) 4)) } }
    s7.engineCheck

/-! ## Monitors (R385 to R387) -/

/-- The temperature alarm of a sensor at a tick (R385). (DEDUCED, log 37) -/
def State.tempCheck (s : State) (k : Nat) : State :=
  let v := (s.loops.temps[k]?).getD 0
  let on := rd s.faults.tempAlarm k false
  let put (t : State) (b : Bool) : State := { t with faults := { t.faults with tempAlarm := wr t.faults.tempAlarm k b } }
  if !on && decide ((s.faults.tempHigh : Int) ≤ v) then (put s true).raise (248 + k) .m
  else if on && decide (v ≤ (s.faults.tempHigh : Int) - 32) then put s false
  else s

/-- The temperature readings are latched at the tick and judged (R385). -/
def State.tempTick (s : State) (readings : List Int) : State :=
  let temps := (List.range 32).map (fun k => (readings[k]?).getD ((s.loops.temps[k]?).getD 0))
  let top := temps.zipIdx.foldl (fun (m : Int × Nat) e => if m.1 < e.1 then e else m) (s.faults.tempMax, s.faults.tempMaxSensor)
  let s1 : State := { s with loops := { s.loops with temps := temps },
                             faults := { s.faults with tempMax := top.1, tempMaxSensor := top.2 } }
  let s2 := (List.range 32).foldl State.tempCheck s1
  if !s2.faults.thermalLimit && temps.any (fun v => decide (1920 ≤ v)) then
    (({ s2 with faults := { s2.faults with thermalLimit := true } } : State).raise 14 .m).requestSwap
  else if s2.faults.thermalLimit && temps.all (fun v => decide (v < 1888)) then
    { s2 with faults := { s2.faults with thermalLimit := false } }
  else s2

/-- Nominal value in mV, window in percent, and whether the rail raises SUPPLY_FAULT (R386). -/
def State.rail (s : State) (v : Nat) : Nat × Nat × Bool :=
  if v < 4 then (750, 5, true) else if v = 4 then (800, 5, true) else if v < 7 then (1200, 5, true)
  else if v = 7 then (1800, 5, false) else if v = 8 then (900, 5, false) else if v = 9 then (1200, 5, false)
  else if v = 10 then (7000, 5, true) else if v < 19 then (rd s.faults.vhtrNominal (v - 11) 5000, 5, false)
  else if v = 19 then (3300, 5, true) else if v = 20 then (6400, 1, true) else if v = 21 then (1200, 1, true)
  else if v = 22 then (2000, 1, true) else (1000, 5, true)

/-- A reading lies outside k windows. -/
def outside (nominal pct k mv : Nat) : Bool := decide (k * pct * nominal < 100 * ((mv : Int) - (nominal : Int)).natAbs)

/-- One rail is judged (R386). (DEDUCED, log 37) -/
def State.voltCheck (s : State) (v : Nat) : State :=
  let mv := (s.faults.volts[v]?).getD 0
  let r := s.rail v
  let out := outside r.1 r.2.1 1 mv
  let far := outside r.1 r.2.1 2 mv
  let f := s.faults
  let nOut := if out then rd f.voltOut v 0 + 1 else 0
  let nIn := if out then 0 else rd f.voltIn v 0 + 1
  let nFar := if far then rd f.voltFar v 0 + 1 else 0
  let alarm := rd f.voltAlarm v false
  let raise1 := decide (2 ≤ nOut) && !alarm
  let fault := rd f.supplyFault v false
  let raise2 := r.2.2 && decide (2 ≤ nFar) && !fault
  let s1 : State := { s with faults := { f with
    voltOut := wr f.voltOut v nOut, voltIn := wr f.voltIn v nIn, voltFar := wr f.voltFar v nFar,
    voltAlarm := wr f.voltAlarm v (raise1 || (alarm && !decide (2 ≤ nIn))),
    supplyFault := wr f.supplyFault v (raise2 || (fault && !decide (2 ≤ nIn))) } }
  let s2 := if raise1 then s1.raise (280 + v) .m else s1
  if raise2 then (s2.raise 15 .m).requestSwap else s2

/-- SUPPLY_FAULT stands. -/
def State.supplyStands (s : State) : Bool := s.faults.supplyFault.any (fun e => e.2)

/-- The voltage monitors sample their rails (R386): 24 readings in mV. Ticks drive them, so not while the sequencer
stands. (DEDUCED, log 37) -/
def execVoltSample (v : List Nat) (s : State) : Host.Outcome State Fault Refusal :=
  if !s.runs then .next s
  else
    let volts := (List.range 24).map (fun k => (v[k]?).getD ((s.faults.volts[k]?).getD 0))
    .next ((List.range 24).foldl State.voltCheck { s with faults := { s.faults with volts := volts, voltSampled := true } })

/-- One process monitor is judged (R387). -/
def State.procCheck (s : State) (p count : Nat) : State :=
  let base := rd s.faults.procBase p 0
  if base = 0 then
    if s.sys.mode = .standby then { s with faults := { s.faults with procBase := wr s.faults.procBase p count, recordDue := true } }
    else s
  else if !rd s.faults.procAlarm p false && decide (s.faults.procDrift * base < 100 * (base - count)) then
    ({ s with faults := { s.faults with procAlarm := wr s.faults.procAlarm p true } } : State).raise (304 + p) .m
  else s

/-- The process monitors are counted (R387): 16 counts, normalised to 25 °C. (DEDUCED, log 37) -/
def execProcMonitorCount (v : List Nat) (s : State) : Host.Outcome State Fault Refusal :=
  if !s.runs then .next s
  else .next ((v.take 16).zipIdx.foldl (fun t e => t.procCheck e.2 e.1) s)

/-! ## The health report (R388, R389) -/

/-- The first indices of the interleave pairs. -/
def pairCores : List Nat := (List.range 8).flatMap (fun g => (List.range 8).map (fun h => 17 * g + 2 * h))

/-- Units of a kind that are retired. -/
def State.retiredCount (s : State) (kind n : Nat) : Nat := ((List.range n).filter (s.retired kind)).length

/-- A condition of R380 stands. (DEDUCED, log 37) -/
def State.degradedState (s : State) : Bool :=
  decide (s.healthyEngines.length < 18) || decide (0 < s.retiredCount 4 136) || s.faults.overflow || s.faults.thermalLimit ||
    s.supplyStands || (s.funit 6 0).permanent

/-- A condition of R380 for which a paired holder asks for a planned swap stands; a module that takes a lease with one asks then. (DEDUCED,
log 37) -/
def State.swapWanted (s : State) : Bool :=
  s.loops.degraded || pairCores.any (fun p => decide (s.pairCount p = 0)) || s.faults.overflow || s.faults.thermalLimit ||
    s.supplyStands || (s.funit 6 0).permanent

/-- The monitor with the largest deviation and its deviation in 0.01 % of nominal. -/
def State.voltWorst (s : State) : Nat × Int :=
  (List.range 24).foldl (fun (m : Nat × Int) v =>
    let n := (s.rail v).1
    let d := roundDiv ((((s.faults.volts[v]?).getD 0 : Int) - (n : Int)) * 10000) n
    if m.2.natAbs < d.natAbs then (v, d) else m) (0, 0)

/-- The 64 bytes of a report. (DEDUCED, log 37) -/
def State.reportBytes (s : State) (healthy : Bool) : List Byte :=
  let f := s.faults
  let worst := s.voltWorst
  bytesLE 4 f.reports ++ bytesLE 4 s.clk.frame ++ bytesLE 8 s.clk.tickTime ++
  bytesLE 2 (pack [(1, bit healthy), (1, bit s.degradedState), (1, bit s.pair.held), (1, bit s.mirror.ready),
    (1, bit s.pair.swapRequested), (1, bit f.thermalLimit), (1, bit s.supplyStands), (1, bit f.overflowPeriod)]) ++
  bytesLE 1 s.sys.mode.num ++ bytesLE 1 s.healthyEngines.length ++ bytesLE 2 (s.retiredCount 1 10240) ++
  bytesLE 2 (s.retiredCount 2 5632) ++ bytesLE 2 f.pins.length ++ bytesLE 1 (s.retiredCount 4 136) ++
  bytesLE 1 (pairCores.filter (fun p => decide (s.pairCount p < 2))).length ++ bytesLE 2 (min 65535 f.transient) ++
  bytesLE 2 (min 65535 f.permanents) ++ bytesLE 4 (min (2 ^ 32 - 1) f.rbJudged) ++ bytesLE 2 (min 65535 f.rbFailed) ++
  bytesLE 2 (min 65535 f.pathTests) ++ bytesLE 2 (min 65535 f.pathFailed) ++ bytesLE 2 (unsigned 16 f.tempMax) ++
  bytesLE 1 f.tempMaxSensor ++ bytesLE 1 worst.1 ++ bytesLE 2 (unsigned 16 worst.2) ++ bytesLE 1 f.queueMax ++
  bytesLE 1 f.queue.length ++ bytesLE 2 (min 65535 f.proofFail) ++ bytesLE 4 f.logNext ++ bytesLE 8 0

/-- The report of a period is published and a new period begins (R388); deferred swap requests are tried again (R360). (DEDUCED, log 37) -/
def State.publish (s : State) : State :=
  let f := s.faults
  let healthy := decide (f.permanents = 0 ∧ f.rbFailed = 0 ∧ f.pathFailed = 0) && !f.overflowPeriod && !f.thermalLimit && !s.supplyStands
  let was := f.healthy
  let report := s.reportBytes healthy
  let s1 : State := { s with
    faults := { f with healthy := healthy, report := report, reports := f.reports + 1, transient := 0, permanents := 0,
                       rbJudged := 0, rbFailed := 0, pathTests := 0, pathFailed := 0, tempMax := -640, tempMaxSensor := 0,
                       queueMax := f.queue.length, overflowPeriod := f.overflow, proofFail := 0 },
    clk := { s.clk with reported := true } }
  let s2 := when (was && !healthy) (fun t => t.raise 13 .m) s1
  let s3 := s2.raise 12 .m
  if s3.pair.swapDeferred && s3.pair.held && s3.pair.swap.isNone then s3.startSwap none false else s3

end Sys2Proof.Machine
end

