-- ==== Sys2Proof/Machine/Lease.lean ====
section
/-! DEFINITION. The lease island, the REF ports and the referee (R329 to R342). Island time `now` is counted in cycles of
16 ns and comes with every command of this file. -/

namespace Sys2Proof.Machine

/-! ## Frames (R331, R332) -/

/-- The 14 bytes that CHECK covers, and the whole frame. -/
def refBody (type : Nat) (site : Bool) (flags epoch arg seq : Nat) : List Byte :=
  bytesLE 1 type ++ bytesLE 1 (bit site) ++ bytesLE 2 flags ++ bytesLE 4 epoch ++ bytesLE 4 arg ++ bytesLE 2 seq

def refBytes (type : Nat) (site : Bool) (flags epoch arg seq : Nat) : List Byte :=
  let b := refBody type site flags epoch arg seq
  b ++ bytesLE 2 (crc16 b)

/-- CHECK of a received frame holds. -/
def refValid (type : Nat) (f : RefFrame) : Bool :=
  decide (f.check.toNat = crc16 (refBody type f.site f.flags.toNat f.epoch.toNat f.arg.toNat f.seq.toNat))

def tStatus : Nat := 0x01
def tClaim : Nat := 0x02
def tRefStatus : Nat := 0x81
def tRenew : Nat := 0x82
def tArm : Nat := 0x83
def tDisarm : Nat := 0x84

/-- Sends a frame on a REF port. -/
def State.refSend (s : State) (port : Bool) (type : Nat) (site : Bool) (flags epoch arg : Nat) : State :=
  let p := s.refPort port
  (s.setRefPort port { p with seqTx := p.seqTx + 1 }).emit (.refTx port type (refBytes type site flags epoch arg p.seqTx.toNat))

/-- Island time moves on. (DESIGN CHOICE, log 20) -/
def State.islandAt (s : State) (now : Nat) : State := { s with pair := { s.pair with now := max s.pair.now now } }

/-- The island runs (R16, R570). -/
def State.island (s : State) : Bool := s.clk.vddLease

/-- The core can raise events. (DEDUCED, log 63) -/
def State.coreRuns (s : State) : Bool := s.clk.rstN && s.clk.coreUp && s.sys.mode != .reset

/-- An event of the island is raised while the core runs. -/
def State.raiseCore (s : State) (n : Nat) (sc : EvScope) (e : Ev := {}) : State :=
  if s.coreRuns then s.raise n sc e else s

/-- The module is the referee of its REF ports (R328). -/
def State.referee (s : State) : Bool := s.sys.mode == .referee

/-- A port carries traffic: the selected port of a paired module, both ports of a referee (R329). -/
def State.refServed (s : State) (port : Bool) : Bool := s.island && (s.referee || decide (port = s.pair.refB))

/-- ISO of the selected port is asserted. -/
def State.isoOn (s : State) : Bool := !s.referee && (s.refPort s.pair.refB).iso

def State.linkUp (s : State) : Bool := (s.refPort s.pair.refB).up

/-- WANT (R332); no lease is asked for without a descriptor (R69), and a solo module takes none from a referee. (DEDUCED, log 44) -/
def State.want (s : State) : Bool :=
  s.pair.enable && !s.pair.solo && (s.sys.mode == .standby || s.pair.held) && !s.isoOn && s.desc.loaded

/-- The epoch of the image held (R332, R339): the mirrored image, or the module's own. -/
def State.imageEpoch (s : State) : Option Nat := if s.mirror.ready then some s.mirror.epoch else s.pair.image

/-- FLAGS of a module frame (R332). (DEDUCED, log 44) -/
def State.refFlags (s : State) : Nat :=
  pack [(1, bit s.want), (1, bit s.imageEpoch.isSome), (1, bit s.clk.pref), (1, bit s.faults.healthy), (1, bit s.pair.armed.isSome),
    (1, bit s.drive.closed), (1, bit s.pair.extended), (1, bit s.pair.swapReq.isSome)]

/-- EPOCH of a STATUS frame. -/
def State.refEpochOut (s : State) : Nat := if s.pair.held then s.pair.epoch else s.imageEpoch.getD s.pair.epoch

/-- A valid frame has arrived on a port (R333): the link comes up at the third in a row. (DESIGN CHOICE, log 20) -/
def State.refHeard (s : State) (port : Bool) (now : Nat) : State :=
  let p := s.refPort port
  if p.up then s.setRefPort port { p with last := now, valid := 3 }
  else if 2 ≤ p.valid then
    let s1 := s.setRefPort port { p with last := now, valid := 3, up := true, upSince := now }
    ({ s1 with pair := { s1.pair with recovered := s1.pair.recovered || decide (port = s1.pair.refB) } } : State).raiseCore 60 .m
  else s.setRefPort port { p with last := now, valid := p.valid + 1 }

/-- A frame with a bad CHECK is discarded and breaks the row of valid frames (R333). -/
def State.refBad (s : State) (port : Bool) : State :=
  let p := s.refPort port
  if p.up then s else s.setRefPort port { p with valid := 0 }

/-- The epoch seen on the link is kept while no lease is held (R336). (DEDUCED, log 44) -/
def State.seeEpoch (s : State) (e : Nat) : State :=
  if s.pair.held || !later e s.pair.epoch then s else { s with pair := { s.pair with epoch := e } }

/-! ## The end of a lease (R96, R334, R338, R427) -/

/-- GO and RELEASE are the symbol K28.3 (R330); a module without REF traffic sends none (R341, R343). -/
def State.sendRelease (s : State) : State := if s.paired && s.island then s.emit (.refSymbol s.pair.refB) else s

/-- Commands that end with the lease: an IMPRESS without its first result (R508), a planned swap. (DEDUCED, log 45) -/
def State.endCommands (s : State) : State :=
  let s1 := s.imp.records.foldl (fun t r => match r.cmd with | some c => t.answer c stNotLeaseHolder [] | none => t) s
  let s2 : State := { s1 with imp := { s1.imp with records := s1.imp.records.map (fun r => { r with cmd := none }) } }
  match s2.pair.swap with
  | some (_, some c, standby) =>
    if standby then ({ s2 with sys := { s2.sys with modePending := none } } : State).answerDue c stBusy [(0, Mode.standby.num), (1, s2.sys.target.num)]
    else s2.answer c stNotLeaseHolder []
  | _ => s2

/-- The lease ends: switches open, the hold islands let go, the module's own image stays (R433). `lapse` marks an end without
SET_MODE, which the next tick turns into Standby with TARGET set to the mode left (R427). (DEDUCED, log 45) -/
def State.endLease (s : State) (lapse event : Bool) : State :=
  if !s.pair.held then s
  else
    let target := if lapse && s.sys.mode != .standby then s.sys.mode else s.sys.target
    let s1 : State := { s with sys := { s.sys with target := target } }
    let s2 := s1.endCommands
    let s3 : State := { s2 with
      pair := { s2.pair with held := false, em := 0, takeover := false, firstTick := false, extended := false, armed := none,
                             image := some s2.pair.epoch, lastChange := s2.ns, swap := none, swapFrame := none,
                             swapCaptured := false, swapReady := false, swapRequested := false, swapDeferred := false },
      mirror := { s2.mirror with imageOut := [], loopsetOut := [], resyncOut := false },
      drive := { s2.drive with closed := false, holding := false } }
    let s4 := if event then s3.raiseCore 64 .a else s3
    if lapse then s4.due (.enter .standby) else s4

/-- The conditions under which a holder without its REF link goes on past E_m (R342): mirror link, STANDBY_STATUS of each of the last 2
ticks with ARMED clear, fresh heartbeat. (DEDUCED, log 45) -/
def State.mayExtend (s : State) : Bool :=
  let clear (m : Option StandbyMsg) : Bool := match m with | some m => !m.armed | none => false
  !s.pair.solo && s.mirrorUp && clear s.mirror.status && clear s.mirror.statusPrev &&
    decide (s.clk.ticks ≤ s.mirror.statusTick + 1) && s.pair.hbFresh

/-- An extension ends when one of its conditions ceases (R342). (DEDUCED, log 45) -/
def State.checkExtension (s : State) : State :=
  if s.pair.held && s.pair.extended && !s.mayExtend then s.endLease true true else s

/-- E_m (R338): the lease ends unless it is extended. (DESIGN CHOICE, log 17; DESIGN CHOICE, log 20; DEDUCED, log 45) -/
def execLeaseEnd (now : Nat) (s : State) : Host.Outcome State Fault Refusal :=
  let s0 := s.islandAt now
  if !s.island || !s.pair.held || decide (now < s.pair.em) then .next s0
  else if s.mayExtend && (s.pair.extended || !s.linkUp) then
    .next (if s.pair.extended then s0
           else ({ s0 with pair := { s0.pair with extended := true } } : State).raiseCore 62 .m)
  else .next (s0.endLease true true)

/-- The heartbeat goes stale (R338). (DEDUCED, log 44) -/
def execHeartbeatStale (now : Nat) (s : State) : Host.Outcome State Fault Refusal :=
  let s0 := s.islandAt now
  if !s.island then .next s0
  else .next ({ s0 with pair := { s0.pair with hbFresh := false } } : State).checkExtension

/-- The heartbeat of a tick (R22, R338). (DEDUCED, log 44) -/
def State.heartbeat (s : State) : State :=
  { s with pair := { s.pair with hbFrame := some s.clk.frame,
                                 hbFresh := match s.pair.hbFrame with | some f => decide (s.clk.frame = f + 1) | none => false } }

/-! ## The start of a lease (R338, R339, R341) -/

/-- A lease starts. It is a takeover when the module holds an image of the epoch before (R339). (DEDUCED, log 46) -/
def State.startLease (s : State) (epoch len now : Nat) : State :=
  let before := (epoch + 2 ^ 32 - 1) % 2 ^ 32
  let mirrored := s.mirror.ready && decide (s.mirror.epoch = before)
  let own := !mirrored && decide (s.pair.image = some before)
  let s1 : State := { s with
    pair := { s.pair with held := true, epoch := epoch, len := len, em := now + len - 33, claimFrom := now,
                          takeover := mirrored || own, ownImage := own, firstTick := true, extended := false, armed := none,
                          reportedArmed := false, image := none, lastChange := s.ns, swap := none, swapFrame := none,
                          swapCaptured := false, swapReady := false, swapRequested := false, swapDeferred := false },
    mirror := { s.mirror with imageAt := none, loopsetAt := none, status := none, statusPrev := none },
    drive := { s.drive with closed := mirrored || own } }
  if mirrored || own then s1.driveStand.raiseCore 63 .a { data := epoch } else s1

/-- GO starts a lease when its conditions hold (R338). (DESIGN CHOICE, log 20; DEDUCED, log 44) -/
def execGo (port : Bool) (now : Nat) (s : State) : Host.Outcome State Fault Refusal :=
  let s0 := s.islandAt now
  if !s.refServed port || s.referee || s.pair.held then .next s0
  else match s.pair.armed with
  | none => .next s0
  | some (epoch, len, since) =>
    if since + 1250 ≤ now ∧ s.linkUp ∧ s.want ∧ s.pair.hbFresh ∧ (s.mirrorUp → s.pair.reportedArmed) then
      .next (s0.startLease epoch len now)
    else .next s0

/-- A frame of the referee reaches a module. (DEDUCED, log 44) -/
def State.fromReferee (s : State) (port : Bool) (type : Nat) (f : RefFrame) (now : Nat) (act : State → State) : State :=
  let s0 := s.islandAt now
  if !s.refServed port || s.referee then s0
  else if refValid type f then act (s0.refHeard port now)
  else s0.refBad port

/-- ARM (R332): an arming comes into force, not while ISO is asserted (R334) or the link is down (R342). -/
def execArm (port : Bool) (f : RefFrame) (now : Nat) (s : State) : Host.Outcome State Fault Refusal :=
  .next (s.fromReferee port tArm f now (fun t =>
    if t.isoOn || !t.linkUp then t
    else { t with pair := { t.pair with armed := some (f.epoch.toNat, f.arg.toNat, now), reportedArmed := false } }))

/-- DISARM withdraws an arming (R332). -/
def execDisarm (port : Bool) (f : RefFrame) (now : Nat) (s : State) : Host.Outcome State Fault Refusal :=
  .next (s.fromReferee port tDisarm f now (fun t => { t with pair := { t.pair with armed := none, reportedArmed := false } }))

/-- RENEW moves E_m (R338); at or after E_m it is ignored, unless the lease is extended (R342). (DESIGN CHOICE, log 20; DEDUCED, log 44) -/
def execRenew (port : Bool) (f : RefFrame) (now : Nat) (s : State) : Host.Outcome State Fault Refusal :=
  .next (s.fromReferee port tRenew f now (fun t =>
    if t.pair.held && decide (f.epoch.toNat = t.pair.epoch) && (decide (now < t.pair.em) || t.pair.extended) then
      { t with pair := { t.pair with em := now + f.arg.toNat - 33, len := f.arg.toNat, claimFrom := now, extended := false } }
    else t.seeEpoch f.epoch.toNat))

/-- REF_STATUS names the last epoch granted (R332). (DEDUCED, log 44) -/
def execRefStatus (port : Bool) (f : RefFrame) (now : Nat) (s : State) : Host.Outcome State Fault Refusal :=
  .next (s.fromReferee port tRefStatus f now (fun t => t.seeEpoch f.epoch.toNat))

/-- CLAIM is sent every L/5 while the heartbeat is fresh (R338); a solo module renews its own lease (R341). (DESIGN CHOICE, log 20; DEDUCED, log 44) -/
def execClaimSend (now : Nat) (s : State) : Host.Outcome State Fault Refusal :=
  let s0 := s.islandAt now
  let step := s.pair.len / 5
  if !s.island || !s.pair.held || !s.pair.hbFresh || s.isoOn || decide (now < s.pair.claimFrom + step) then .next s0
  else if s.pair.solo then
    if now < s.pair.em then .next { s0 with pair := { s0.pair with em := now + s.pair.len - 33, claimFrom := now } }
    else .next s0
  else
    let s1 : State := { s0 with pair := { s0.pair with claimFrom := s.pair.claimFrom + step } }
    .next (s1.refSend s.pair.refB tClaim s.clk.siteId s.refFlags s.pair.epoch 0)

/-- The recovered clock is lost during a lease (R338): E_m comes forward by 100 ppm of the time that remained. -/
def execRecoveredClockLoss (now : Nat) (s : State) : Host.Outcome State Fault Refusal :=
  let s0 := s.islandAt now
  if !s.island || !s.pair.recovered then .next s0
  else
    let em := if s.pair.held then s.pair.em - ceilDiv ((s.pair.em - now) * 100) 1000000 else s.pair.em
    .next { s0 with pair := { s0.pair with recovered := false, em := em } }

/-! ## ISO (R334) -/

/-- ISO of the selected port stands: switches open, any lease ends, ARM is discarded, and the module enters Isolated (R334). During
Reset, Boot and Start-up Calibration the mode follows at the end of start-up. (DEDUCED, log 45) -/
def State.isolate (s : State) : State :=
  let s1 := s.endLease false true
  let s2 : State := { s1 with pair := { s1.pair with armed := none, reportedArmed := false } }
  let s3 := s2.raiseCore 61 .a
  if [Mode.reset, .boot, .startupCal, .isolated].contains s.sys.mode then s3 else s3.due (.enter .isolated)

/-- A port's ISO line changes at a module. Its level stands at either port; only the selected port acts on it (R329, R334).
(DEDUCED, log 45) -/
def State.isoLine (s : State) (port on : Bool) : State :=
  if !s.island || s.referee then s
  else
    let s1 := s.setRefPort port { s.refPort port with iso := on }
    if on && !(s.refPort port).iso && decide (port = s.pair.refB) then s1.isolate else s1

/-- ISO of a port is asserted (R334). -/
def execRefIsolated (port : Bool) (now : Nat) (s : State) : Host.Outcome State Fault Refusal := .next ((s.islandAt now).isoLine port true)

/-- ISO of a port is released. -/
def execIsoRelease (port : Bool) (now : Nat) (s : State) : Host.Outcome State Fault Refusal := .next ((s.islandAt now).isoLine port false)

/-- REF_PORT selects the other port (R329, R364): the port left ignores RX from here, so its link is down, an ARM falls with it (R342);
the port taken is heard from its next frame on, and its ISO line acts at once (R334). (DEDUCED, log 45) -/
def State.selectRef (s : State) (b : Bool) : State :=
  if s.pair.refB = b || s.referee then { s with pair := { s.pair with refB := b } }
  else
    let p := s.refPort s.pair.refB
    let s1 := when p.up (fun t => t.raiseCore 59 .m) (s.setRefPort s.pair.refB { p with up := false, valid := 0 })
    let s2 : State := { s1 with pair := { s1.pair with refB := b, armed := none, reportedArmed := false } }
    let s3 := s2.setRefPort b { s2.refPort b with up := false, valid := 0 }
    when s3.isoOn State.isolate s3

/-! ## The referee (R336, R337) -/

/-- The port of a site (R329). -/
def State.sitePort (s : State) (site : Bool) : RefPort := s.refPort site

/-- A site is a candidate (R337). (DEDUCED, log 47) -/
def State.candidate (s : State) (site : Bool) : Bool :=
  let p := s.sitePort site
  let want := tb p.flags.toNat 0
  let img := tb p.flags.toNat 1
  p.up && want && decide (s.pair.refHolder ≠ some site) && !p.iso &&
    (s.pair.refHolder.isNone || (img && decide (p.epoch = s.pair.refEpoch)))

/-- An arming whose site is no longer a candidate is withdrawn (R337). (DEDUCED, log 47) -/
def State.refereeWatch (s : State) : State :=
  if !s.referee then s
  else match s.pair.refArmed with
  | none => s
  | some (site, _) =>
    if s.candidate site then s
    else
      ({ s with pair := { s.pair with refArmed := none } } : State).refSend site tDisarm site 0 ((s.pair.refEpoch + 1) % 2 ^ 32) 0

/-- The holder's lease ends at a time (R337). (DEDUCED, log 47) -/
def State.refereeFree (s : State) (t : Nat) : State :=
  match s.pair.refHolder with
  | none => s
  | some h => { s with pair := { s.pair with refHolder := none, refFree := t, refEnd := wr s.pair.refEnd (bit h) t } }

/-- The referee asserts or releases ISO towards a site; on the holder the lease counts as released (R334). (DEDUCED, log 47) -/
def State.refereeIso (s : State) (site on : Bool) : State :=
  let p := s.refPort site
  if p.iso = on then s
  else
    let s1 := (s.setRefPort site { p with iso := on }).emit (.isoTx site on)
    let s2 := if on && decide (s.pair.refHolder = some site) then s1.refereeFree s1.pair.now else s1
    s2.refereeWatch

/-- The referee hears a module. -/
def State.refereeHear (s : State) (type : Nat) (f : RefFrame) (now : Nat) (act : State → State) : State :=
  let s0 := s.islandAt now
  if !s.referee || !s.island then s0
  else if refValid type f then
    let s1 := s0.refHeard f.site now
    let s2 := s1.setRefPort f.site { s1.refPort f.site with flags := f.flags, epoch := f.epoch.toNat, seen := true }
    (act s2).refereeWatch
  else s0.refBad f.site

/-- A referee starts (R336): once both links have been up for 30 µs, or 100 µs after its start, it takes the largest EPOCH that
a module has reported. -/
def execRefereeStart (now : Nat) (s : State) : Host.Outcome State Fault Refusal :=
  let s0 := s.islandAt now
  if !s.referee || !s.island || s.pair.refReady then .next s0
  else
    let a := s.pair.portA
    let b := s.pair.portB
    let both := a.up && b.up && decide (a.upSince + 1875 ≤ now ∧ b.upSince + 1875 ≤ now)
    if both || decide (s.pair.refSince + 6250 ≤ now) then
      let e (p : RefPort) : Nat := if p.seen then p.epoch else 0
      .next { s0 with pair := { s0.pair with refReady := true, refEpoch := max (e a) (e b) } }
    else .next s0

/-- STATUS of a module (R337). -/
def execRefereeStatusReceived (f : RefFrame) (now : Nat) (s : State) : Host.Outcome State Fault Refusal :=
  .next (s.refereeHear tStatus f now id)

/-- RENEW to a site: X is the end of the frame, 90 cycles from its start, plus L. (DEDUCED, log 44) -/
def State.refereeRenew (s : State) (site : Bool) (now : Nat) : State :=
  ({ s with pair := { s.pair with refHolder := some site, refX := now + 90 + s.pair.refL } } : State).refSend site tRenew site 0
    s.pair.refEpoch s.pair.refL

/-- CLAIM of a module (R337): from the holder in time, or from the driving module of the last epoch while there is no
holder. (DEDUCED, log 47) -/
def execRefereeClaim (f : RefFrame) (now : Nat) (s : State) : Host.Outcome State Fault Refusal :=
  .next (s.refereeHear tClaim f now (fun t =>
    if !t.pair.refReady || decide (f.epoch.toNat ≠ t.pair.refEpoch) then t
    else if t.pair.refHolder = some f.site then (if now + 250 ≤ t.pair.refX then t.refereeRenew f.site now else t)
    else if t.pair.refHolder.isNone && tb f.flags.toNat 5 then t.refereeRenew f.site now
    else t))

/-- RELEASE from the holder (R337). -/
def execRefereeRelease (site : Bool) (now : Nat) (s : State) : Host.Outcome State Fault Refusal :=
  let s0 := s.islandAt now
  if s.referee && s.island && decide (s.pair.refHolder = some site) then .next (s0.refereeFree now).refereeWatch else .next s0

/-- STATUS with DRIVING from a module that is not the holder (R337): ISO is asserted to it while the other site holds, or once
4 µs have passed since its own lease ended. (DEDUCED, log 47) -/
def execRefereeStatusDriving (f : RefFrame) (now : Nat) (s : State) : Host.Outcome State Fault Refusal :=
  .next (s.refereeHear tStatus f now (fun t =>
    let late := match find? t.pair.refEnd (bit f.site) with | some e => decide (e + 250 ≤ now) | none => false
    if tb f.flags.toNat 5 && decide (t.pair.refHolder ≠ some f.site) && (t.pair.refHolder.isSome || late) then t.refereeIso f.site true
    else t))

/-- X passes (R337). -/
def execRefereeExpiry (now : Nat) (s : State) : Host.Outcome State Fault Refusal :=
  let s0 := s.islandAt now
  if s.referee && s.island && s.pair.refHolder.isSome && decide (s.pair.refX ≤ now) then
    .next (s0.refereeFree s.pair.refX).refereeWatch
  else .next s0

/-- The site that the referee arms (R337): the candidate with IMG and the highest epoch, then PREF, then site 0. (DEDUCED, log 47) -/
def State.refereeChoice (s : State) : Option Bool :=
  let key (site : Bool) : Nat × Nat :=
    let p := s.sitePort site
    (if tb p.flags.toNat 1 then p.epoch + 1 else 0, bit (tb p.flags.toNat 2))
  match s.candidate false, s.candidate true with
  | false, false => none
  | true, false => some false
  | false, true => some true
  | true, true =>
    let a := key false
    let b := key true
    if a.1 < b.1 ∨ (a.1 = b.1 ∧ a.2 < b.2) then some true else some false

/-- ARM (R337): armed_since is the end of the frame. (DEDUCED, log 47) -/
def execRefereeArm (now : Nat) (s : State) : Host.Outcome State Fault Refusal :=
  let s0 := (s.islandAt now).refereeWatch
  if !s.referee || !s.island || !s.pair.refReady || s0.pair.refArmed.isSome then .next s0
  else match s0.refereeChoice with
  | none => .next s0
  | some site =>
    .next (({ s0 with pair := { s0.pair with refArmed := some (site, now + 90) } } : State).refSend site tArm site 0
      ((s0.pair.refEpoch + 1) % 2 ^ 32) s0.pair.refL)

/-- GO (R337): the symbol ends at the later of t_free + 512 ns and now + 80 ns. (DEDUCED, log 47) -/
def execRefereeGo (now : Nat) (s : State) : Host.Outcome State Fault Refusal :=
  let s0 := (s.islandAt now).refereeWatch
  match s0.pair.refArmed with
  | none => .next s0
  | some (site, since) =>
    if !s.referee || !s.island || !s.pair.refReady || s0.pair.refHolder.isSome || decide (now < since + 1250) then .next s0
    else
      let fin := max (s0.pair.refFree + 32) (now + 5)
      .next (({ s0 with pair := { s0.pair with refEpoch := (s0.pair.refEpoch + 1) % 2 ^ 32, refHolder := some site,
                                               refX := fin + s0.pair.refL, refArmed := none } } : State).emit (.refSymbol site))

/-! ## The link (R333) -/

/-- STATUS or REF_STATUS when no other frame is due (R333). -/
def execStatusSend (port : Bool) (now : Nat) (s : State) : Host.Outcome State Fault Refusal :=
  let s0 := s.islandAt now
  if !s.refServed port then .next s0
  else if s.referee then
    .next (s0.refSend port tRefStatus port 0 s.pair.refEpoch (match s.pair.refHolder with | some h => bit h | none => 0xFF))
  else .next (s0.refSend port tStatus s.clk.siteId s.refFlags s.refEpochOut 0)

/-- A link goes down (R333): a partner discards its ARM (R342). -/
def execRefLinkDown (port : Bool) (now : Nat) (s : State) : Host.Outcome State Fault Refusal :=
  let s0 := s.islandAt now
  let p := s.refPort port
  if !s.refServed port || !p.up then .next s0
  else
    let s1 := (s0.setRefPort port { p with up := false, valid := 0 }).raiseCore 59 .m
    if s.referee then .next s1.refereeWatch
    else .next { s1 with pair := { s1.pair with armed := none, reportedArmed := false } }

/-! ## VDD_LEASE (R343, R570) -/

/-- VDD_LEASE is lost: every line isolates at once, and the island forgets its state (R336). (DEDUCED, log 45) -/
def execVddLeaseLoss (s : State) : Host.Outcome State Fault Refusal :=
  if !s.clk.vddLease then .next s
  else
    let s1 := s.endLease true true
    .next { s1 with
      clk := { s1.clk with vddLease := false },
      drive := { s1.drive with closed := false, holding := false },
      pair := { s1.pair with epoch := 0, image := none, portA := .init, portB := .init, armed := none, reportedArmed := false,
                             hbFrame := none, hbFresh := false, recovered := false, refHolder := none, refArmed := none,
                             refReady := false, refEnd := [], refEpoch := 0 } }

/-- VDD_LEASE is applied: the island starts with its lines isolated and its links down; a referee waits as after its own start (R336).
(DEDUCED, log 45) -/
def execVddLeaseApply (s : State) : Host.Outcome State Fault Refusal :=
  if s.clk.vddLease then .next s
  else .next { s with clk := { s.clk with vddLease := true }, pair := { s.pair with refSince := s.pair.now } }

end Sys2Proof.Machine
end

