-- ==== Sys2Proof/Machine/Cal.lean ====
section
/-! DEFINITION. Calibration (chapter 12): images that are driven at once, scopes and triggers, the steps of runs, results and
their limits, coming into force, the converter and fabric records. -/

namespace Sys2Proof.Machine

/-! ## Images (R52, R54, R88, R202) -/

/-- Every present channel that `f` names takes a code at once. -/
def State.driveImage (s : State) (f : Nat → Option Nat) : State :=
  s.drives.foldl (fun t i => match f i with | some c => t.setNow i c | none => t) s

/-- An image with no circuits is the applied plate (R202). -/
def State.setApplied (s : State) (cells target : Nat) : State :=
  { s with imp := { s.imp with applied := some (imgOf cells target), appliedPlate := none } }

/-- The rest image is driven (R52), and the applied plate is the rest image with no circuits (R202). -/
def State.restImage (s : State) : State :=
  let cells := s.restCells
  (s.driveImage (fun i => match dkind i with
    | .eo c => some (s.codeOf c (tb cells c))
    | .heater c => some (s.heaterCode c)
    | .voa p => some (s.restVoa p))).setApplied cells 0x7FFF

/-- The block image is driven (R54, R431): EO channels and VOAs. -/
def State.blockImage (s : State) : State :=
  let cells := s.blockCells
  (s.driveImage (fun i => match dkind i with
    | .eo c => some (s.codeOf c (tb cells c))
    | .heater _ => none
    | .voa p => some (s.blockCode p))).setApplied cells 0x8000

/-! ## Scopes (R396, R399) -/

/-- The converter scopes, rising. -/
def converterScopes : List Nat := List.range 8 ++ (List.range 160).map (fun b => 0x100 + b) ++ (List.range 8).map (fun r => 0x200 + r)

def isScope (n : Nat) : Bool := converterScopes.contains n || decide (n = 0x300)

/-- The governing sensor of a converter scope. -/
def governor (n : Nat) : Nat := if n < 8 then 4 * n + 2 else if n < 0x200 then (n - 0x100) / 5 else 4 * (n - 0x200)

/-- The temperature kept with a run: the governing sensor, or the highest reading for the fabric (R425). -/
def State.scopeTemp (s : State) (n : Nat) : Int :=
  if n = 0x300 then s.loops.temps.foldl max (-640) else (s.loops.temps[governor n]?).getD 0

/-- The read-back converter that a scope uses (R401). -/
def scopeConverter (n : Nat) : Option Nat :=
  if n < 8 then none else if n < 0x200 then some ((n - 0x100) / 20) else if n < 0x300 then some (n - 0x200) else none

def State.runningScopes (s : State) : List Nat := (s.cal.scopes.filter (fun e => e.2.running.isSome)).map Prod.fst

/-- Modes with temperature-triggered and commanded converter runs (R398). -/
def Mode.calibrates : Mode → Bool
  | .reset | .boot | .startupCal | .referee => false
  | _ => true

/-- The temperature comparison of a scope (R399). -/
def State.tempDue (s : State) (n : Nat) : Bool :=
  let x := s.scope n
  x.running.isNone && !x.pending && decide (x.notBefore ≤ s.clk.frame) &&
    (!tb x.flags 0 || x.rejected || decide ((s.cal.dt : Int) < ((s.scopeTemp n - x.temp).natAbs : Nat)))

/-- Every 64 frames the governing sensors are compared (R399); not during a hot restart (R452). (DESIGN CHOICE, log 17) -/
def execCalTempCheck (s : State) : Host.Outcome State Fault Refusal :=
  if s.clk.frame % 64 ≠ 0 || !s.cal.tempTrigger || s.sys.restarting || !s.sys.mode.calibrates then .next s
  else
    .next ((converterScopes.filter s.tempDue).foldl (fun t n => t.setScope n { t.scope n with pending := true }) s)

/-! ## The end of a run (R418 to R420, R525) -/

/-- The response of CAL_RUN. -/
def calReply (n reason count fail rejected : Nat) : List (Nat × Nat) :=
  [(0, n), (2, reason), (4, count), (8, fail), (0x0A, rejected)]

/-- A scope of ALL_CONVERTERS has ended; the command completes with the last. (DEDUCED, log 52) -/
def State.allEnded (s : State) (n : Nat) (rejected : Bool) : State :=
  match s.cal.all with
  | none => s
  | some (c, l, first, bad) =>
    if !l.contains n then s
    else
      let l1 := l.filter (fun x => decide (x ≠ n))
      let first1 := if rejected && decide (bad = 0) then n else first
      let bad1 := bad + bit rejected
      if l1.isEmpty then
        let s1 : State := { s with cal := { s.cal with all := none } }
        let k := if bad1 = 0 then n else first1
        s1.answerAt s1.clk.tickTime c (if bad1 = 0 then stOk else stCalRejected) 0 0
          (calReply k (if bad1 = 0 then 0 else (s1.scope k).lastReason) (s1.scope k).count
            (if bad1 = 0 then 0xFFFF else (s1.scope k).lastFail) bad1)
      else { s with cal := { s.cal with all := some (c, l1, first1, bad1) } }

/-- The spare of a group that stands in for a core under calibration returns its tables at this tick (R129, R405), injection into the
group ends, and its channels return to their ranges. A run that has begun meanwhile keeps them. -/
def State.returnSpare (s : State) (g : Nat) : State :=
  if (s.scope g).running.isSome then s
  else
    let s1 := match find? s.sense.spare g with
      | some (_, false) => s.setSpare g none
      | _ => s
    ({ s1 with sense := { s1.sense with inject := del s1.sense.inject g } } : State).returnTias (fun x => decide (senseGroup x = g))

/-- The tone amplitudes of TONE_ASSIGN return to the cells whose steps have ended (R421). -/
def State.returnTones (s : State) : State :=
  s.cal.toneBack.foldl (fun t e => t.modDch e.1 (fun d => { d with a := e.2 })) { s with cal := { s.cal with toneBack := [] } }

/-- A run ends without coming into force: CAL_REJECTED with its reason (R418, R419). The tables of a core that it measured return at
the tick (R118). -/
def State.rejectRun (s : State) (n reason fail : Nat) : State :=
  let x := s.scope n
  let s1 := s.setScope n { x with running := none, pending := false, cmd := none, rejected := true, notBefore := s.clk.frame + 50000,
                                  lastReason := reason, lastFail := fail, delay := 0 }
  let s2 : State := if n = 0x300 then ({ s1 with cal := { s1.cal with fabric := none, hatchSets := [], hatchBack := [] } } : State).returnTones else s1
  let s3 := if n < 8 then s2.atTickNow (.spareBack n) (fun t => t.returnSpare n) else s2
  let s4 := s3.raise 41 .m { data := pack [(16, n), (8, reason), (16, fail)] }
  let s5 := match x.cmd with
    | some c => s4.answerAt s4.clk.tickTime c stCalRejected 0 0 (calReply n reason x.count fail 0)
    | none => s4
  s5.allEnded n true

/-- A run is abandoned (R419). -/
def State.abandonRun (s : State) (n : Nat) : State := s.rejectRun n 8 0xFFFF

/-- Every run in progress is abandoned, as by a change of mode or a hot restart (R419). -/
def State.abandonRuns (s : State) : State := s.runningScopes.foldl State.abandonRun s

/-- A run comes into force (R397, R420). -/
def State.acceptRun (s : State) (n flags : Nat) : State :=
  let x := s.scope n
  let s1 := s.setScope n { x with running := none, pending := false, cmd := none, rejected := false, delay := 0,
                                  count := (x.count + 1) % 2 ^ 32, time := s.clk.tickTime, temp := x.startTemp, flags := flags }
  let s2 := if n < 8 then s1.returnSpare n else s1
  let s3 := s2.raise 42 .m { data := pack [(16, n), (32, (x.count + 1) % 2 ^ 32)] }
  let s4 := match x.cmd with
    | some c => s3.answerAt s3.clk.tickTime c stOk 0 0 (calReply n 0 ((x.count + 1) % 2 ^ 32) 0xFFFF 0)
    | none => s3
  s4.allEnded n false

/-! ## Starting runs (R401, R405, R409, R410) -/

/-- The cells of the next stage that the two outputs of a cell feed. -/
def Geo.feeds (g : Geo) (st k : Nat) : List Nat := [g.next st (2 * k) / 2, g.next st (2 * k + 1) / 2]

/-- The output that a lit cell takes (R410). -/
def Geo.calOutput (g : Geo) (odd : Bool) (st k : Nat) : Nat :=
  if st + 1 = g.stages then bit odd
  else
    match (List.range (g.ports / 2)).find? (fun j => decide (j ≠ k) && (g.feeds st j).any (g.feeds st k).contains) with
    | some j => if j < k then 1 else 0
    | none => 0

/-- One stage of the calibration map: the lit input lines, the map and the included cells so far. -/
def State.calStage (s : State) (odd : Bool) (a : List Nat × Nat × Nat) (st : Nat) : List Nat × Nat × Nat :=
  let g := s.geo
  (List.range (g.ports / 2)).foldl (fun (r : List Nat × Nat × Nat) k =>
    let c := 256 * st + k
    let i0 := a.1.contains (2 * k)
    let i1 := a.1.contains (2 * k + 1)
    let one := i0 != i1
    let state := match s.pin c with
      | some p => p
      | none => one && ((i1 && decide (g.calOutput odd st k = 0)) || (i0 && decide (g.calOutput odd st k = 1)))
    let out (b : Nat) : Nat := 2 * k + (if state then 1 - b else b)
    let lines := (if i0 then [out 0] else []) ++ (if i1 then [out 1] else [])
    let to_ := if st + 1 = g.stages then lines else lines.map (fun x => g.next st x)
    (r.1 ++ to_, r.2.1 + (if state then 2 ^ c else 0), r.2.2 + (if one then 2 ^ c else 0))) ([], a.2.1, a.2.2)

/-- The calibration map of a pattern: the lit output lines, the map, and the cells included (R410). -/
def State.calMap (s : State) (odd : Bool) : List Nat × Nat × Nat :=
  let g := s.geo
  let lit := (List.range g.ports).filter (fun i => decide (i % 2 = bit odd) && s.portPresent i)
  (List.range g.stages).foldl (s.calStage odd) (lit, 0, 0)

/-- The hatch entries that the hatch step measures: not empty, naming a valid other channel (R163, R415). -/
def State.hatchNames (s : State) (t : Nat) : List Nat :=
  let row := s.hatchRow t
  ((List.range 8).map (fun j => fld row (32 * j) 32)).filterMap (fun e =>
    let n := fld e 19 13
    if e ≠ 0 ∧ n < 5632 ∧ n ≠ t then some n else none)

/-- One visit of the channels that no set holds yet, in index order: those that join the current set, and those left over (R415). -/
def hatchVisit (clash : Nat → Nat → Bool) (l : List Nat) : List Nat × List Nat :=
  l.foldl (fun r j => if r.1.any (clash j) then (r.1, r.2 ++ [j]) else (r.1 ++ [j], r.2)) ([], [])

/-- The sets of the visits that follow one another, at most n of them: each takes at least the first channel left over. -/
def hatchVisits (clash : Nat → Nat → Bool) : Nat → List Nat → List (List Nat)
  | 0, _ => []
  | _, [] => []
  | n + 1, j :: l => let r := hatchVisit clash (j :: l); r.1 :: hatchVisits clash n r.2

/-- The sets of the hatch step (R415): a channel joins the current set unless it and a member are named together; those left over are
visited again for the next set. A channel that no row names is not stepped. (DESIGN CHOICE, log 53) -/
def State.buildSets (s : State) : List (List Nat) :=
  let rows := ((s.drives.filter (fun i => decide (4608 ≤ i))).map (fun i => (i - 4608, s.hatchNames (i - 4608))))
  let clash (a b : Nat) : Bool := rows.any (fun r =>
    (decide (r.1 = a) && r.2.contains b) || (decide (r.1 = b) && r.2.contains a) || (r.2.contains a && r.2.contains b))
  let named := (rows.map Prod.fst).filter (fun t => rows.any (fun r => r.2.contains t))
  hatchVisits clash named.length named

/-- A scope's run can start now (R401, R376). (DEDUCED, log 52) -/
def State.canStart (s : State) (n : Nat) : Bool :=
  let run := s.runningScopes
  if n = 0x300 then run.isEmpty && s.pair.held && s.sys.mode == .characterize
  else
    s.cal.fabric.isNone && !run.contains n &&
      (match scopeConverter n with
       | some r => !run.any (fun m => scopeConverter m == some r)
       | none => !(s.pair.held && s.retired 4 (17 * n + 16)))

/-- A run of a scope starts at this frame's tick. -/
def State.startRun (s : State) (n : Nat) : State :=
  let x := s.scope n
  let stands := match find? s.sense.spare n with | some (_, r) => r | none => false
  let style := if !s.pair.held then 1 else if n < 8 && stands then 2 else 0
  let s1 := s.setScope n { x with running := some s.clk.frame, pending := false, startTemp := s.scopeTemp n, style := style, delay := 0 }
  if n = 0x300 then
    let (p, h, r) := s.cal.fabricNext
    let m := s1.calMap (decide (p = 1))
    let all := unitBits 4608 s1.geo.cell
    { s1 with cal := { s1.cal with fabric := some (p, h, r), map := m.2.1, excluded := all - m.2.2, lit := unitBits 512 m.1.contains, runs := s1.cal.runs + 1,
                                   hatchSets := if h then s1.buildSets else [], hatchBack := [] } }
  else s1

/-- A run that firmware has chosen starts at this tick, unless a change of this tick or a restart forbids it (R401, R419). (DEDUCED, log 52) -/
def State.calBegin (s : State) (n : Nat) : State :=
  if (s.scope n).pending && s.canStart n && s.sys.mode.calibrates && !s.sys.restarting then s.startRun n else s

/-- Firmware starts at most one run per frame, in increasing scope number (R401); the run counts its frames from the next tick (R405).
(DEDUCED, log 52) -/
def execCalStart (s : State) : Host.Outcome State Fault Refusal :=
  if s.sys.restarting || !s.sys.mode.calibrates || decide (s.cal.lastStart = some s.clk.frame) then .next s
  else match (converterScopes ++ [0x300]).find? (fun n => (s.scope n).pending && s.canStart n) with
  | none => .next s
  | some n => .next (({ s with cal := { s.cal with lastStart := some s.clk.frame } } : State).due (.calStart n))

/-! ## The steps of a converter run (R404, R405) -/

/-- The proof of an armed impression, or of this tick's, uses a tap that satisfies p (R137, R405). -/
def State.proofUses (s : State) (p : Nat → Bool) : Bool := s.proofTaps.any p

/-- A step of an ADC group's run at this tick, e frames after its start (delays taken out). -/
def State.adcStep (s : State) (g e : Nat) (style : Nat) : State :=
  let inj (t : State) (v : Option (Nat × Nat × Nat)) : State :=
    { t with sense := { t.sense with inject := match v with | some i => wr t.sense.inject g i | none => del t.sense.inject g } }
  let begin_ := if style = 0 then 136 else if style = 1 then 8 else 0
  if style = 0 ∧ 8 ≤ e ∧ e < 136 then
    (if e % 8 = 0 then s.setSpare g (some (17 * g + (e - 8) / 8, false)) else s)
  else if e < begin_ then s
  else
    let s0 := if style = 0 ∧ e = 136 then s.setSpare g none else s
    let f := e - begin_
    let per := if style = 1 then 12 else 3
    let x := testChannel g (f / per)
    -- The channel measured before takes its range back.
    let s1 := if style = 1 ∧ f % 12 = 0 ∧ 0 < f / 12 then s0.returnTia (testChannel g (f / 12 - 1)) else s0
    if 704 ≤ f / per then inj s1 none
    else
      let s2 := if style = 1 then s1.borrowTia x (f % 12 / 3) else s1
      inj s2 (some (x, if f % 3 = 1 then 3072 else 0, (s2.sch x).range))

/-- The taps on whose account a step is deferred (R137, R405). -/
def State.stepBlocked (s : State) (g e style : Nat) : Bool :=
  let begin_ := if style = 0 then 136 else if style = 1 then 8 else 0
  if style = 0 ∧ 8 ≤ e ∧ e ≤ 136 ∧ e % 8 = 0 then
    s.proofUses (fun x => decide (homeCore x = 17 * g + (e - 8) / 8 ∨ homeCore x + 1 = 17 * g + (e - 8) / 8))
  else if begin_ ≤ e ∧ style ≠ 1 ∧ (e - begin_) / 3 < 704 then
    s.proofUses (fun x => decide (x = testChannel g ((e - begin_) / 3)))
  else false

/-- The running ADC groups take their step at a tick; a step that is deferred injects nothing in the frame (R137). -/
def State.calTick (s : State) : State :=
  (List.range 8).foldl (fun (t : State) g =>
    let x := t.scope g
    match x.running with
    | none => t
    | some f =>
      let e := t.clk.frame - f - x.delay
      if t.stepBlocked g e x.style then
        ({ t with sense := { t.sense with inject := del t.sense.inject g } } : State).setScope g { x with delay := x.delay + 1 }
      else t.adcStep g e x.style) s

/-- Frames from the start of a run to the tick at which it comes into force, delays included (R405, R413): the 512 conversions of a bank
take 102.4 µs and the 1,024 of a read-back converter 204.8 µs, so no run of theirs is shorter (R406, R407). (DEDUCED, log 52) -/
def State.runLength (s : State) (n : Nat) : Nat :=
  let x := s.scope n
  if n < 8 then (if x.style = 0 then 2248 else if x.style = 1 then 8456 else 2112) + x.delay
  else if n = 0x300 then s.fabLength + 2000 * s.cal.hatchSets.length
  else if n < 0x200 then 52
  else 103

/-! ## The sweeps of a fabric run (R411, R413, R415) -/

/-- What the run has found for a cell. (DESIGN CHOICE, log 10) -/
def State.found (s : State) (c k : Nat) : Nat := Config.calFound s.cal.runs c k

/-- Code of an EO channel r frames into the steps of its stage; none once they have ended. -/
def State.sweepEo (s : State) (c r : Nat) : Option Nat :=
  let top := s.dsc 0x1A 2 % 16384
  if r < 4096 then some (s.barCode c)
  else if r < 5120 then some ((roundDiv ((r - 4096) / 4 * top : Nat) 255).toNat)
  else if r < 5252 then some (s.found c 1 + 4 * ((r - 5120) / 4) - 64)
  else if r < 5384 then some (s.found c 2 + 4 * ((r - 5252) / 4) - 64)
  else if r < 8472 then some (s.found c 3)
  else if r = 8472 then some (if tb s.cal.map c then s.found c 6 else s.found c 3)
  else none

/-- Code of a heater. -/
def State.sweepHeater (s : State) (c r : Nat) : Option Nat :=
  let top := s.dsc 0x1C 2
  if r < 4096 then some ((roundDiv (r / 16 * top : Nat) 255).toNat)
  else if r < 5384 then some (s.found c 0)
  else if r < 7448 then some (s.found c 0 + 128 * ((r - 5384) / 16) - 2048)
  else if r < 8472 then some (s.found c 4 + (s.found c 5 - s.found c 4) / 8)
  else if r = 8472 then some (s.found c 4)
  else none

/-- The code that the run gives a channel e frames after its start, if it gives one. A stage not yet reached holds the codes of
R51, in the state that its cell is in. The VOAs of the pattern and the output VOAs that the map lights step through their codes;
every other VOA is held at its BASE for the last 64 frames (R413). (DESIGN CHOICE, log 53) -/
def State.sweepCode (s : State) (e i : Nat) : Option Nat :=
  let inc (c : Nat) : Bool := !tb s.cal.excluded c
  let pat := match s.cal.fabric with | some (p, _, _) => p | none => 0
  match dkind i with
  | .eo c => if e = 0 then some (s.codeOf c (s.cellState c)) else if e < 4096 + 8488 * (c / 256) || !inc c then none
             else s.sweepEo c (e - 4096 - 8488 * (c / 256))
  | .heater c => if e = 0 then some (s.heaterCode c) else if e < 4096 + 8488 * (c / 256) || !inc c then none
                 else s.sweepHeater c (e - 4096 - 8488 * (c / 256))
  | .voa p =>
    let out := 4096 + 8488 * s.geo.stages
    let steps := if p < 512 then decide (p % 2 = pat) else tb s.cal.lit (p - 512)
    let start := if p < 512 then 0 else out
    if steps then
      (if start ≤ e ∧ e < start + 4096 then some (Config.voaStep s.cal.runs (1024 * ((e - start) / 16) + p))
       else if e = start + 4096 then some (Config.voaStep s.cal.runs (1024 * 256 + p)) else none)
    else if e = out + 4096 then some (cg (s.cs i) 0x10 2) else none

/-- The code for the apply of this tick, as the run writes it (R411): the entry NEXT of the frame before, as an image's code. -/
def State.runCode (s : State) (i code : Nat) : State := s.putIn false s.clk.frame i .image code

/-- The members of a set of the hatch step move by 8,192, and return after 1,000 frames (R415). (DESIGN CHOICE, log 53) -/
def State.hatchStep (s : State) (h : Nat) : State :=
  let set := (s.cal.hatchSets[h / 2000]?).getD []
  if h % 2000 = 0 then
    set.foldl (fun (t : State) j =>
      let c := (t.dch (4608 + j)).position
      ({ t with cal := { t.cal with hatchBack := wr t.cal.hatchBack j c } } : State).runCode (4608 + j)
        (if 57343 < c then c - 8192 else c + 8192)) s
  else if h % 2000 = 1000 then set.foldl (fun t j => t.runCode (4608 + j) (rd t.cal.hatchBack j 0)) s
  else s

/-- The tones of the cells in the steps of a stage (R411): off in steps A to C, on with A = 120 in step D, as TONE_ASSIGN has them from
step E on. (DEDUCED, log 53) -/
def State.sweepTone (s : State) (e : Nat) : State :=
  if e < 4096 then s
  else
    let st := (e - 4096) / 8488
    let r := (e - 4096) % 8488
    if s.geo.stages ≤ st then s
    else if r = 0 then
      ((List.range (s.geo.ports / 2)).map (fun k => 4608 + 256 * st + k)).foldl (fun (t : State) i =>
        if t.drivePresent i && !tb t.cal.excluded (i - 4608) then
          ({ t with cal := { t.cal with toneBack := wr t.cal.toneBack i (t.dch i).a } } : State).modDch i (fun d => { d with a := 0 })
        else t) s
    else if r = 7448 then s.cal.toneBack.foldl (fun t e => t.modDch e.1 (fun d => { d with a := 120 })) s
    else if r = 8472 then s.returnTones
    else s

/-- The fabric run writes the codes of this tick. (DESIGN CHOICE, log 10; DESIGN CHOICE, log 53) -/
def State.fabricTick (s : State) : State :=
  match s.fabElapsed with
  | none => s
  | some e =>
    let s1 := s.drives.foldl (fun t i => match s.sweepCode e i with | some c => t.runCode i c | none => t) (s.sweepTone e)
    let s2 := if s.fabLength ≤ e then s1.hatchStep (e - s.fabLength) else s1
    -- The bias loop of a stage begins with INTEG = 0 once its steps have ended.
    if 4096 < e ∧ (e - 4096) % 8488 = 0 then
      (s2.drives.filter (fun i => decide (4608 ≤ i ∧ i < 9216 ∧ i % 4608 / 256 + 1 = (e - 4096) / 8488) && !tb s.cal.excluded (i - 4608))).foldl
        (fun t i => t.setCs i (restartBoth (cp (cp (t.cs i) 0x10 2 (s.found (i - 4608) 4)) 8 4 0))) s2
    else s2

/-! ## Results and limits (R403, R404, R406, R407, R417) -/

/-- gain and offset of an ADC core from the means times 1,024 (R403). (DESIGN CHOICE, log 53) -/
def adcResult (u : CalUnit) : Int × Int :=
  let gain := roundDiv (16384 * 12800 * 1024) (u.b - u.a)
  (gain, roundDiv (u.a * gain - 1600 * 16384 * 1024) (1024 * gain))

/-- tia_gain and tia_offset from b1, h and b2 times 1,024 (R404). (DESIGN CHOICE, log 53) -/
def tiaResult (u : CalUnit) : Int × Int :=
  (roundDiv (16384 * 12000 * 2048) (2 * u.b - u.a - u.c), roundDiv (u.a + u.c - 512 * 1024) 2048)

/-- bank_gain and bank_offset of bank b (R406). (DESIGN CHOICE, log 53) -/
def bankResult (b : Nat) (u : CalUnit) : Int × Int :=
  let lo : Int := if b < 72 then 1024 else 4096
  let span : Int := if b < 72 then 14336 else 57344
  let gain := roundDiv (32768 * span * 1024) (u.b - u.a)
  (gain, roundDiv (lo * 32768 * 1024 - u.a * gain) (32768 * 1024))

/-- Gain and offset of a path of a read-back converter (R407): the ideal span of the voltage path is 6.4 V of 7.0 V in 4,096
codes. (DESIGN CHOICE, log 14; DESIGN CHOICE, log 53) -/
def rbResult (current : Bool) (u : CalUnit) : Int × Int :=
  let gain := if current then roundDiv (32768 * (Config.rbCurrentIdeal : Int)) (u.b - u.a)
              else roundDiv (32768 * 131072 * 1024) (35 * (u.b - u.a))
  (gain, roundDiv (-(u.a * gain)) (32768 * 1024))

/-- A value lies outside an interval. -/
def off (x lo hi : Int) : Bool := decide (x < lo ∨ hi < x)

/-- Reason codes of R526. -/
def rsRange : Nat := 1
def rsNoise : Nat := 2
def rsStep : Nat := 3
def rsNotQuiet : Nat := 4
def rsExtinction : Nat := 5
def rsNoLight : Nat := 6
def rsPeriod : Nat := 7

/-- The first failing unit of a list: reason and index. (DEDUCED, log 52) -/
def firstFail (l : List (Nat × Option Nat)) : Option (Nat × Nat) :=
  l.findSome? (fun e => e.2.map (fun r => (r, e.1)))

def State.adcFail (s : State) (inForce : Bool) (u : CalUnit) : Option Nat :=
  let r := adcResult u
  let old := rd s.cal.adc u.unit (16384, 0)
  if off r.1 16056 16712 || off r.2 (-64) 64 then some rsRange
  else if 3 * 1024 < u.rms then some rsNoise
  else if inForce && (off (r.1 - (old.1 : Int)) (-82) 82 || off (r.2 - old.2) (-16) 16) then some rsStep
  else none

def State.tiaFail (s : State) (inForce quiet : Bool) (range : Nat) (u : CalUnit) : Option Nat :=
  let r := tiaResult u
  let old := rd s.cal.tia (4 * u.unit + range) (16384, 0)
  if off r.1 15565 17203 || (quiet && off r.2 (-64) 64) then some rsRange
  else if u.ovr || off (u.a - u.c) (-8 * 1024) (8 * 1024) then some rsNotQuiet
  else if inForce && off (r.1 - (old.1 : Int)) (-164) 164 then some rsStep
  else none

def bankFail (b : Nat) (u : CalUnit) : Option Nat :=
  let r := bankResult b u
  let lim : Int := if b < 72 then 32 else 64
  if off r.1 32441 33095 || off r.2 (-lim) lim then some rsRange else if 3 * 1024 < u.rms then some rsNoise else none

def rbFail (current : Bool) (u : CalUnit) : Option Nat :=
  let r := rbResult current u
  if off r.1 31785 33751 || off r.2 (-16) 16 then some rsRange else if 3 * 1024 < u.rms then some rsNoise else none

/-- trim_gain and phase_per_mw (R412), with π to 64 fractional bits. -/
def trimGain (c : CalCell) : Int := roundDiv (4096 * (((c.cross : Int) - c.bar).natAbs : Nat)) ((c.uPi : Int) - c.base)
def phasePerMw (c : CalCell) : Int := roundDiv ((4096 * 1000000 * piFixed : Nat) : Int) (((c.pPi : Int) - c.pBase) * 2 ^ 64)

def State.cellFail (s : State) (c : CalCell) : Option Nat :=
  let hi := max c.meanBar c.meanCross
  let lo := min c.meanBar c.meanCross
  let dark := cg (s.cs (4608 + c.cell)) 0x3A 2
  let d : Int := (c.uPi : Int) - c.base
  if hi < 10 * lo then some rsExtinction
  else if hi < 64 * dark then some rsNoLight
  else if off ((((c.cross : Int) - c.bar).natAbs : Nat) : Int) 16 12288 || off d 1024 32767 || off (phasePerMw c) 205 20480 then some rsPeriod
  else none

/-- INV_SLOPE (R413). -/
def invSlope (v : CalVoa) : Int := roundDiv (256 * (((v.code13 : Int) - v.code3).natAbs : Nat)) 1000

def voaFail (v : CalVoa) : Option Nat := if v.range < 2000 || off (invSlope v) 64 51200 then some rsRange else none

/-- DESIGN CHOICE, log 53. -/
def hatchFail (h : CalHatch) : Option Nat :=
  let d : Int := (h.pNew * h.pNew : Nat) - (h.pOld * h.pOld : Nat)
  let n := h.deltaI * 2 ^ 30 * sgnInt d
  if h.locked && (decide (n < -32768 * (d.natAbs : Int)) || decide (32767 * (d.natAbs : Int) < n)) then some rsRange else none

/-- Results of units that are not retired; a fabric run keeps the included cells only (R410, R419). -/
def State.trimData (s : State) (d : CalData) : CalData :=
  { d with
    adc := d.adc.filter (fun u => !s.retired 4 u.unit),
    tia := d.tia.filter (fun e => !s.retired 2 e.2.unit),
    cells := d.cells.filter (fun c => !tb s.cal.excluded c.cell && !s.retired 3 c.cell && !s.retired 1 c.cell && !s.retired 1 (4608 + c.cell)),
    voas := d.voas.filter (fun v => !s.retired 1 (9216 + v.port)) }

/-- The first failure of a run's results, in the order of R417. (DEDUCED, log 52) -/
def State.runFail (s : State) (n : Nat) (d : CalData) : Option (Nat × Nat) :=
  let x := s.scope n
  let inForce := tb x.flags 0
  if n < 8 then
    firstFail ((if x.style = 2 then [] else d.adc.map (fun u => (u.unit, s.adcFail inForce u))) ++
      d.tia.map (fun e => (e.2.unit, s.tiaFail inForce (decide (x.style = 1)) e.1 e.2)))
  else if n < 0x200 then firstFail (d.units.map (fun u => (n - 0x100, bankFail (n - 0x100) u)))
  else if n < 0x300 then firstFail (d.units.map (fun u => (n - 0x200, rbFail (decide (u.unit = 1)) u)))
  else
    firstFail (d.cells.map (fun c => (c.cell, s.cellFail c)) ++ d.voas.map (fun v => (v.port, voaFail v)) ++
      d.paths.map (fun p => (p.1, if off p.2.2 0 3000 then some rsRange else none)) ++ d.hatch.map (fun h => (h.row, hatchFail h)))

/-! ## Records in flash (R423 to R425) -/

def convA0 : Nat := 0x01020000
def convA1 : Nat := 0x01040000
def fabA0 : Nat := 0x01060000
def fabA1 : Nat := 0x010A0000

/-- gain and offset as 2 bytes each. -/
def pairBytes (p : Nat × Int) : List Byte := bytesLE 2 p.1 ++ bytesLE 2 (unsigned 16 p.2)

/-- The body of the converter record, 94,176 bytes. -/
def State.convBody (s : State) : List Byte :=
  let c := s.cal
  (List.range 136).flatMap (fun i => pairBytes (rd c.adc i (16384, 0))) ++
  (List.range 22528).flatMap (fun i => pairBytes (rd c.tia i (16384, 0))) ++
  (List.range 160).flatMap (fun i => pairBytes (rd c.bank i (32768, 0))) ++
  (List.range 16).flatMap (fun i => pairBytes (rd c.rb i (32768, 0))) ++
  converterScopes.flatMap (fun n =>
    let x := s.scope n
    bytesLE 4 x.count ++ bytesLE 8 x.time ++ bytesLE 2 (unsigned 16 x.temp) ++ bytesLE 2 (x.flags % 8))

/-- The body of the fabric record, 245,808 bytes. -/
def State.fabBody (s : State) : List Byte :=
  let x := s.scope 0x300
  bytesLE 4 x.count ++ bytesLE 8 x.time ++ bytesLE 2 (unsigned 16 x.temp) ++ bytesLE 1 (if s.desc.loaded then s.geo.code else 0xFF) ++
  bytesLE 1 s.cal.patterns ++ bytesLE 4 (s.dsc 8 4) ++ bytesLE 4 (s.dsc 0x0C 4) ++ bytesLE 24 0 ++
  (List.range 4608).flatMap (fun c => bytesLE 12 (rd s.cal.cells c 0).toNat) ++
  (List.range 1024).flatMap (fun p => bytesLE 8 (rd s.cal.voas p 0).toNat) ++
  (List.range 1024).flatMap (fun p => bytesLE 2 (rd s.cal.loss p 0xFFFF)) ++
  (List.range 5632).flatMap (fun t => bytesLE 32 (s.hatchRow t))

/-- A record is written when PERSIST is set (R423). (DEDUCED, log 54) -/
def State.writeConv (s : State) : State :=
  ({ s with cal := { s.cal with convDue := false } } : State).flashJob (.converter s.convBody)

/-- DEDUCED, log 54. -/
def State.writeFab (s : State) : State :=
  ({ s with cal := { s.cal with fabDue := false } } : State).flashJob (.fabric s.fabBody)

/-- The converter record in force is taken from flash (R423). -/
def State.loadConv (s : State) : State :=
  match s.recordInForce convA0 convA1 94176 with
  | none => s
  | some (c, _) =>
    let body := s.flashBytes ((if c then convA1 else convA0) + 16) 94176
    let tab (o n : Nat) : Tbl (Nat × Int) := (List.range n).map (fun i => (i, (fieldB body (o + 4 * i) 2, signed 16 (fieldB body (o + 4 * i + 2) 2))))
    let sc := converterScopes.zipIdx.map (fun e =>
      let o := 0x164E0 + 16 * e.2
      (e.1, { s.scope e.1 with count := fieldB body o 4, time := fieldB body (o + 4) 8, temp := signed 16 (fieldB body (o + 12) 2),
                               flags := fieldB body (o + 14) 2 }))
    let s1 : State := { s with cal := { s.cal with
      adc := tab 0 136, tia := tab 0x220 22528, bank := tab 0x16220 160, rb := tab 0x164A0 16, haveRecord := true } }
    sc.foldl (fun t e => t.setScope e.1 e.2) s1

/-- The values of a cell of the record enter its channel states: old BASE, new values (R421); TRIM_LIMIT clears (R174), and a change
of ψ restarts both states (R162). -/
def State.cellInForce (s : State) (c : Nat) : State :=
  match s.calCell c with
  | none => s
  | some v =>
    let eo := s.cs c
    let eo1 := cp (cp (cp (cp (cp eo 0x10 2 (fld v 0 14)) 0x12 2 (fld v 16 14)) 0x14 2 (fld v 0 14)) 0x16 2 (fld v 16 14)) 0x30 2 (fld v 64 16)
    let eo2 := cp eo1 0x28 4 s.clk.frame
    let eo3 := setSt eo2 11 false
    let ht := s.cs (4608 + c)
    let integ := cgs ht 8 4 + ((cg ht 0x10 2 : Int) - (fld v 32 16 : Int)) * 2 ^ 15
    let ht1 := cps (cp (cp ht 0x10 2 (fld v 32 16)) 0x16 2 (fld v 48 10)) 8 4 integ
    let s1 := (s.setCs c eo3).setCs (4608 + c) ht1
    if cg ht 0x16 2 = fld v 48 10 then s1 else s1.restartCell (4608 + c)

/-- The values of a VOA of the record enter its channel state. -/
def State.voaInForce (s : State) (p : Nat) : State :=
  let v := (rd s.cal.voas p 0).toNat
  if !tb v 49 then s
  else
    let w := s.cs (9216 + p)
    let integ := cgs w 8 4 + ((cg w 0x10 2 : Int) - (fld v 0 16 : Int)) * 2 ^ 15
    let w1 := cps (cp (cp (cp w 0x10 2 (fld v 0 16)) 0x1A 2 (fld v 16 16)) 0x18 2 (fld v 32 16)) 8 4 integ
    s.setCs (9216 + p) (cpb w1 0x26 0 1 (fld v 48 1))

/-- The body of a fabric record is adopted: from flash at boot, or by resync (R353, R423). -/
def State.adoptFab (s : State) (body : List Byte) : State :=
  let cells := (List.range 4608).map (fun c => (c, BitVec.ofNat 96 (fieldB body (0x30 + 12 * c) 12)))
  let voas := (List.range 1024).map (fun p => (p, BitVec.ofNat 64 (fieldB body (0xD830 + 8 * p) 8)))
  let loss := ((List.range 1024).map (fun p => (p, fieldB body (0xF830 + 2 * p) 2))).filter (fun e => decide (e.2 ≠ 0xFFFF))
  let hatch := (List.range 5632).map (fun t => (t, BitVec.ofNat 256 (fieldB body (0x10030 + 32 * t) 32)))
  let x := s.scope 0x300
  let s1 := s.setScope 0x300 { x with count := fieldB body 0 4, time := fieldB body 4 8, temp := signed 16 (fieldB body 12 2), flags := 1 }
  let s2 : State := { s1 with
    cal := { s1.cal with cells := cells, voas := voas, loss := loss, patterns := fieldB body 15 1 },
    loops := { s1.loops with hatch := hatch },
    pair := { s1.pair with image := none } }
  let s3 := ((List.range 4608).filter (fun c => s2.cellPresent c)).foldl State.cellInForce s2
  ((List.range 1024).filter (fun p => s3.portPresent p)).foldl State.voaInForce s3

/-- The fabric record in force is taken from flash at the first tick of Standby (R423, R439). -/
def State.loadFab (s : State) : State :=
  match s.recordInForce fabA0 fabA1 245808 with
  | none => s
  | some (c, _) => s.adoptFab (s.flashBytes ((if c then fabA1 else fabA0) + 16) 245808)

/-! ## Coming into force (R405 to R407, R416, R420 to R422) -/

/-- The samples of a group are corrected with new values from this tick (R183). -/
def State.seedGroup (s : State) (g : Nat) : State :=
  (groupChannels g).foldl (fun t x => t.modSch x (fun c => { c with calFrame := some s.clk.frame })) s

/-- The results of a converter run enter the corrections. -/
def State.applyConv (s : State) (n : Nat) (d : CalData) : State :=
  let x := s.scope n
  if n < 8 then
    let adc := if x.style = 2 then s.cal.adc
      else d.adc.foldl (fun t u => let r := adcResult u; wr t u.unit (r.1.toNat, r.2)) s.cal.adc
    let tia := d.tia.foldl (fun t e =>
      let k := 4 * e.2.unit + e.1
      let r := tiaResult e.2
      wr t k (r.1.toNat, if x.style = 1 then r.2 else (rd t k (16384, 0)).2)) s.cal.tia
    ({ s with cal := { s.cal with adc := adc, tia := tia } } : State).seedGroup n
  else if n < 0x200 then
    d.units.foldl (fun (t : State) u => let r := bankResult (n - 0x100) u
                    { t with cal := { t.cal with bank := wr t.cal.bank (n - 0x100) (r.1.toNat, r.2) } }) s
  else
    d.units.foldl (fun (t : State) u => let r := rbResult (decide (u.unit = 1)) u
                    { t with cal := { t.cal with rb := wr t.cal.rb (2 * (n - 0x200) + u.unit % 2) (r.1.toNat, r.2) } }) s

/-- The results of a fabric run enter the record (R412 to R415). -/
def State.applyFab (s : State) (d : CalData) : State :=
  let pat := match s.cal.fabric with | some (p, _, _) => p | none => 0
  let ref := match s.cal.fabric with | some (_, _, r) => r | none => 0x8000
  let cells := d.cells.foldl (fun t c =>
    wr t c.cell (BitVec.ofNat 96 (pack [(16, c.bar), (16, c.cross), (16, c.base), (10, c.psi.toNat), (5, 0), (1, 1),
      (16, (trimGain c).toNat), (16, (phasePerMw c).toNat)]))) s.cal.cells
  let voas := d.voas.foldl (fun t v =>
    let k : Int := if v.port < 512 ∧ ref ≠ 0x8000 then signed 16 ref - lvl v.y else cgs (s.cs (9216 + v.port)) 0x18 2
    wr t v.port (BitVec.ofNat 64 (pack [(16, v.base), (16, (invSlope v).toNat), (16, unsigned 16 k), (1, bit v.sign), (1, 1)]))) s.cal.voas
  let loss := d.paths.foldl (fun t p => wr (wr t p.1 (p.2.2 / 2).toNat) (512 + p.2.1) (p.2.2 - p.2.2 / 2).toNat) s.cal.loss
  let hatch := (d.hatch.filter CalHatch.locked).foldl (fun t h =>
    let c := roundDiv (h.deltaI * 2 ^ 30) ((h.pNew * h.pNew : Nat) - (h.pOld * h.pOld : Nat) : Int)
    wr t h.row (BitVec.ofNat 256 (setFld (rd t h.row 0).toNat (32 * h.entry) 16 (unsigned 16 c)))) s.loops.hatch
  let s1 : State := { s with
    cal := { s.cal with cells := cells, voas := voas, loss := loss,
                        patterns := if tb s.cal.patterns pat then s.cal.patterns else s.cal.patterns + 2 ^ pat },
    loops := { s.loops with hatch := hatch } }
  let s2 := d.cells.foldl (fun t c => t.cellInForce c.cell) s1
  d.voas.foldl (fun t v => t.voaInForce v.port) s2

/-- The end of a run at its tick: accepted as a whole, or rejected as a whole (R418, R420). After a fabric run the rest image is
driven (R416), and the holder starts a resync (R422). -/
def State.finishRun (s : State) (n : Nat) (raw : CalData) : State :=
  if (s.scope n).running.isNone then s
  else
    let x := s.scope n
    let d := s.trimData raw
    let bad := s.runFail n d
    let s1 := match bad with
      | some (r, i) => s.rejectRun n r i
      | none =>
        let flags := 1 + 2 * bit (decide (n < 8 ∧ x.style = 2)) + 4 * bit (decide (n < 8 ∧ x.style = 1))
        if n = 0x300 then
          let t := s.applyFab d
          (({ t with cal := { t.cal with fabric := none, hatchSets := [], hatchBack := [] } } : State).acceptRun n 1)
        else (s.applyConv n d).acceptRun n flags
    let s2 := if bad.isSome || !s1.cal.persist then s1 else if n = 0x300 then s1.writeFab else s1.writeConv
    if n = 0x300 then
      let s3 := s2.restImage.restartLoops
      if bad.isNone then { s3 with mirror := { s3.mirror with resyncOut := true } } else s3
    else s2

/-- The results of a run that take effect at this tick. -/
def State.calForce (s : State) (n : Nat) : State :=
  match s.cal.due.find? (fun e => decide (e.1 = n)) with
  | none => s
  | some e =>
    ({ s with cal := { s.cal with due := s.cal.due.filter (fun x => decide (x.1 ≠ n)) } } : State).finishRun n e.2

/-- A run's last measurement is made: it comes into force, or is rejected, at the next tick (R405 to R407, R413). A run whose
frames have not passed goes on. -/
def execCalInForce (scope : BitVec 16) (d : CalData) (s : State) : Host.Outcome State Fault Refusal :=
  let n := scope.toNat
  if !isScope n then .fault .noSuchUnit
  else match (s.scope n).running with
  | none => .next s
  | some f =>
    if s.clk.frame + 1 < f + s.runLength n || s.cal.due.any (fun e => decide (e.1 = n)) then .next s
    else .next (({ s with cal := { s.cal with due := s.cal.due ++ [(n, d)] } } : State).due (.calForce n))

/-! ## Start-up Calibration (R408) -/

/-- A run of a scope is asked for. (DEDUCED, log 52) -/
def State.askRun (s : State) (n : Nat) (c : Option CmdRef) : State := s.setScope n { s.scope n with pending := true, cmd := c }

/-- Scopes of a phase of Start-up Calibration start together. (DEDUCED, log 54) -/
def State.startPhase (s : State) (l : List Nat) : State := l.foldl State.startRun s

/-- The banks that wait start in order, one at a time on each read-back converter (R401, R408). (DEDUCED, log 54) -/
def State.startBanks (s : State) : State :=
  (List.range 8).foldl (fun t r =>
    if t.runningScopes.any (fun m => scopeConverter m == some r) then t
    else match ((List.range 20).map (fun k => 0x100 + 20 * r + k)).find? (fun n => (t.scope n).pending) with
      | some n => t.startRun n
      | none => t) s

/-- Start-up Calibration (R408): the read-back converters together; then the ADC groups together with all banks, 20 per converter; the end.
(DEDUCED, log 54) -/
def State.startupPhase (s : State) : State :=
  if s.sys.mode ≠ .startupCal then s
  else
    let rb := (List.range 8).map (fun r => 0x200 + r)
    let banks := (List.range 160).map (fun b => 0x100 + b)
    let rest := List.range 8 ++ banks
    let tried (n : Nat) : Bool := (s.scope n).running.isSome || (s.scope n).pending
    if s.cal.phase = 0 then ({ s with cal := { s.cal with phase := 1 } } : State).startPhase rb
    else if s.cal.phase = 1 ∧ !rb.any tried then
      (banks.foldl (fun t n => t.askRun n none) (({ s with cal := { s.cal with phase := 2 } } : State).startPhase (List.range 8))).startBanks
    else if s.cal.phase = 2 ∧ rest.any tried then s.startBanks
    else if s.cal.phase = 2 then { s with cal := { s.cal with phase := 3 } }
    else s

end Sys2Proof.Machine
end

