-- ==== Sys2Proof/Machine/Mirror.lean ====
section
/-! DEFINITION. The mirror link on both sides (R349 to R354) and planned swaps (R346 to R348, R359, R360). -/

namespace Sys2Proof.Machine

/-! ## Roles and readiness (R349, R353, R354, R454, R455) -/

/-- The module follows a holder: one of a pair, without a lease, in Standby, a mirror lane up. -/
def State.asPartner (s : State) : Bool := s.paired && !s.pair.held && s.sys.mode == .standby && s.mirrorUp

/-- A resync starts (R353): not READY, MIRROR_RESYNC raised. A cause during a resync starts it afresh. (DEDUCED, log 50) -/
def State.startResync (s : State) : State :=
  ({ s with mirror := { s.mirror with resync := true, ready := false, dropped := 0, image := none, loopset := none } } : State).raise 69 .m

/-- A message of the holder is received (R350, R353): a gap in SEQ starts a resync. -/
def State.mirrorIn (s : State) (h : MirrorHdr) (act : State → State) : State :=
  if !s.asPartner then s
  else
    let gap := match s.mirror.seqRx with | some q => decide (h.seq.toNat ≠ (q + 1) % 2 ^ 32) | none => false
    let s1 : State := { s with mirror := { s.mirror with seqRx := some h.seq.toNat, epoch := h.epoch.toNat } }
    act (if gap then s1.startResync else s1)

/-- The mirror levels agree (R454): no other level has been announced. -/
def State.levelOk (s : State) : Bool := match s.mirror.level with | some l => decide (l = s.sys.mirrorLevel) | none => true

/-- A tick lies within the last n frames. -/
def State.within (s : State) (at_ : Option Nat) (n : Nat) : Bool := match at_ with | some f => decide (s.clk.frame ≤ f + n) | none => false

/-- FRAME messages arrived for each of the last two ticks. (DEDUCED, log 50) -/
def State.heardBoth (s : State) : Bool :=
  s.mirror.framesSeen.contains (s.clk.frame - 1) && s.mirror.framesSeen.contains (s.clk.frame - 2)

/-- The conditions of R354, with those of R454 and R455. (DEDUCED, log 50) -/
def State.readyNow (s : State) : Bool :=
  s.asPartner && s.desc.loaded && !s.mirror.resync && s.within s.mirror.imageAt 24 && s.within s.mirror.loopsetAt 192 &&
    s.heardBoth && decide (s.mirror.offset.natAbs ≤ 200) && s.levelOk && !s.sys.restarting &&
    (match s.mirror.lastFrame with | some m => decide (m.mode ≠ 11) || tb (s.fuse 2817 1) 0 | none => true)

/-! ## The mirrored image (R352) -/

/-- A plate takes effect in the mirrored image at a tick, with the pins that the module holds: the EO codes of the cells that
change, and the applied plate. (DEDUCED, log 49) -/
def State.applyMirror (s : State) (img : PlateImg) (plate frame : Nat) : State :=
  let cells := (s.applyPins img.cells).1
  let old := match s.imp.applied with | some p => p.cells | none => 0
  let changed := s.geo.cells.filter (fun c => tb old c != tb cells c)
  let s1 := changed.foldl (fun (t : State) c =>
    let code := cg (t.cs c) (if tb cells c then 0x12 else 0x10) 2
    let t1 := t.setNow c code
    { t1 with loops := { t1.loops with changedAt := wr t1.loops.changedAt c frame } }) s
  { s1 with imp := { s1.imp with applied := some { img with cells := cells }, appliedPlate := some plate } }

/-- The granted requests that an applied impression carries are confirmed (R358). (DEDUCED, log 49) -/
def State.confirmTags (s : State) (tags : List (Nat × Nat)) (seq time : Nat) : State :=
  let hit (r : Req × Nat) : Bool := tags.contains (r.1.dom, dTag r.1.desc)
  let yes := s.mirror.granted.filter hit
  if yes.isEmpty then s
  else { s with
    mirror := { s.mirror with granted := s.mirror.granted.filter (fun r => !hit r) },
    sched := { s.sched with
      batches := s.sched.batches ++ [{ id := s.sched.nextBatch, reqs := yes.map Prod.fst, dest := 0, base := 0xFFFE, state := .applied seq time, disturbed := 0 }],
      nextBatch := s.sched.nextBatch + 1 } }

/-- A mirrored impression that a FRAME message named takes effect. (DEDUCED, log 49) -/
def State.applyNamedBy (s : State) (m : FrameMsg) (i : ImpressionMsg) : State :=
  let s1 : State := { s with mirror := { s.mirror with named := none, impressions := s.mirror.impressions.erase i } }
  (s1.applyMirror (imgOfBytes i.snapshot) i.plate m.frame).confirmTags i.tags m.seq.toNat m.time

/-- The tags of the batch that an on-demand impression without its message carries: batches are impressed in their order (R280), so it
is the oldest one of the grants that are not confirmed. (DEDUCED, log 49) -/
def State.oldestBatch (s : State) : List (Nat × Nat) :=
  match s.mirror.granted with
  | [] => []
  | e :: l =>
    let b := l.foldl (fun n x => min n x.2) e.2
    (s.mirror.granted.filter (fun x => decide (x.2 = b))).map (fun x => (x.1.dom, dTag x.1.desc))

/-- An impression whose message never completes: the plate that the FRAME message names, as it stands in the module's own
store (R352); one from the request ring confirms the batch that membership names (R351). (DEDUCED, log 49) -/
def State.applyNamed (s : State) : State :=
  match s.mirror.named with
  | none => s
  | some m =>
    let s1 := ({ s with mirror := { s.mirror with named := none } } : State).applyMirror (s.plateImg m.plate) m.plate m.frame
    if 480 ≤ m.plate then s1.confirmTags s.oldestBatch m.seq.toNat m.time else s1

/-- The two modules' ticks differ by d ns, taken to the nearest tick. (DEDUCED, log 50) -/
def tickOffset (d : Int) : Int := (d + 1000) % 2000 - 1000

/-- A FRAME message (R351, R352, R354). An impression that an earlier one named and whose message has not come by now had none: it was
a retry, which changes no cell. (DEDUCED, log 49) -/
def execMirrorFrame (h : MirrorHdr) (m : FrameMsg) (s : State) : Host.Outcome State Fault Refusal :=
  .next (s.mirrorIn h (fun s0 =>
    let legacy := if m.mode = 11 then true else if m.mode = 5 then s0.sys.holdLegacy else false
    let s1 : State := { s0 with
      mirror := { s0.mirror with
        lastFrame := some m, framesSeen := (m.frame :: s0.mirror.framesSeen).take 4, silent := false, named := none,
        offset := tickOffset ((m.arrival : Int) - (s0.mirror.delay : Int) - (s0.clk.tickTime : Int)) },
      sys := { s0.sys with holdLegacy := legacy } }
    if m.seq.toNat = 0xFFFFFFFF then s1
    else
      let s2 : State := { s1 with imp := { s1.imp with seq := (m.seq.toNat + 1) % 2 ^ 32 } }
      if 512 ≤ m.plate then s2
      else
        match s2.mirror.impressions.find? (fun i => decide (i.plate = m.plate)) with
        | some i => s2.applyNamedBy m i
        | none => { s2 with mirror := { s2.mirror with named := some m } }))

/-- The partner keeps the newest messages that the holder's buffers can hold: one slot plate and four of each other source. (DEDUCED, log 49) -/
def keepImpressions (l : List ImpressionMsg) (i : ImpressionMsg) : List ImpressionMsg :=
  let same := l.filter (fun x => decide (x.source = i.source))
  let n := if i.source = 0 then 1 else 4
  let old := same.take (same.length + 1 - n)
  l.filter (fun x => !old.contains x) ++ [i]

/-- An IMPRESSION message (R351, R352). (DEDUCED, log 49) -/
def execMirrorImpression (h : MirrorHdr) (m : ImpressionMsg) (s : State) : Host.Outcome State Fault Refusal :=
  .next (s.mirrorIn h (fun s0 =>
    match s0.mirror.named with
    | some f => if f.plate = m.plate then s0.applyNamedBy f m
                else { s0 with mirror := { s0.mirror with impressions := keepImpressions s0.mirror.impressions m } }
    | none => { s0 with mirror := { s0.mirror with impressions := keepImpressions s0.mirror.impressions m } }))

/-! ## Requests, completions, proof, pins (R351 to R353) -/

/-- The pending-request state of a REQUEST message; queue 0xFFFF carries the domain's state only. (DEDUCED, log 49) -/
def State.takeRequest (s : State) (m : RequestMsg) : State :=
  let x := s.domain m.dom
  let s1 := s.setDomain m.dom { x with balC := m.balC, balP := m.balP, tag := m.tagF }
  let s2 : State := { s1 with sched := { s1.sched with v := m.tagV } }
  if 512 ≤ m.queue then s2
  else
    let q := ((s2.queue m.dom m.queue).setDescs m.descs).put 80 12 m.head
    let s3 := s2.setQueue m.dom m.queue { q.put 104 8 m.qstate with checked := false, late := false, due := none }
    match m.granted with
    | none => s3
    | some (d, batch) =>
      let r : Req := { dom := m.dom, queue := m.queue, desc := d, head := m.head,
                       yellow := decide (m.balC + ((dCost d * 256 : Nat) : Int) ≤ 0), late := false, rebased := 0,
                       due := if dWhen d = 2 then some (ceilDiv (dValue d) 2000) else none, dropped := false }
      -- a request that is routed again joins another batch (R281)
      let same (x : Req × Nat) : Bool := decide (x.1.dom = m.dom ∧ x.1.queue = m.queue ∧ x.1.desc = d)
      match s3.mirror.granted.find? same with
      | some x => { s3 with mirror := { s3.mirror with granted := s3.mirror.granted.filter (fun x => !same x) ++ [(x.1, batch)] } }
      | none => { s3 with mirror := { s3.mirror with granted := s3.mirror.granted ++ [(r, batch)] } }

/-- A REQUEST message (R352). -/
def execMirrorRequest (h : MirrorHdr) (m : RequestMsg) (s : State) : Host.Outcome State Fault Refusal :=
  if 128 ≤ m.dom then .fault .noSuchUnit else .next (s.mirrorIn h (fun t => t.takeRequest m))

/-- A request has completed at the holder. -/
def State.forget (s : State) (dom tag : Nat) : State :=
  let keep (r : Req) : Bool := !(decide (r.dom = dom) && decide (dTag r.desc = tag))
  let bs := s.sched.batches.map (fun (b : Batch) => { b with reqs := b.reqs.filter keep })
  { s with mirror := { s.mirror with granted := s.mirror.granted.filter (fun x => keep x.1) },
           sched := { s.sched with batches := bs.filter (fun (b : Batch) => !b.reqs.isEmpty) } }

/-- A COMPLETION message (R351): the record is kept for a rewrite (R357), and the ring goes on behind it. -/
def execMirrorCompletion (h : MirrorHdr) (dom index : Nat) (record : BitVec 256) (s : State) : Host.Outcome State Fault Refusal :=
  if 128 ≤ dom then .fault .noSuchUnit
  else .next (s.mirrorIn h (fun t =>
    let x := t.domain dom
    let last := decide (index + 1 = 2 ^ x.cK)
    let phase := tb record.toNat 63
    let s1 := t.setDomain dom { x with cWrite := if last then 0 else index + 1, cPhase := phase != last }
    let s2 := s1.forget dom (fld record.toNat 0 32)
    { s2 with mirror := { s2.mirror with
      cpls := s2.mirror.cpls.filter (fun c => !(decide (c.1 = dom) && decide (c.2.1 = index))) ++ [(dom, index, record)] } }))

/-- The record that 576 bytes spell (R249). -/
def proofOfBytes (l : List Byte) : ProofRec :=
  { seq := fieldB l 0 4, epoch := fieldB l 4 4, time := fieldB l 8 8, frame := fieldB l 16 4, plate := fieldB l 20 2,
    source := fieldB l 22 1, flags := fieldB l 23 1, changed := fieldB l 24 2, proved := fieldB l 26 2, pass := fieldB l 28 2,
    unlit := fieldB l 30 2, fail := fieldB l 32 2, pending := fieldB l 34 2, cycles := fieldB l 36 2,
    suspects := ((List.range 10).map (fun k => fieldB l (44 + 2 * k) 2)).filter (fun x => decide (x ≠ 0xFFFF)),
    suspectCount := fieldB l 38 2, retryOf := fieldB l 40 4,
    result := ((List.range 512).map (fun i => (i, fieldB l (64 + i) 1))).filter (fun e => decide (e.2 ≠ 0)),
    cmd := none, late := tb (fieldB l 23 1) 0, reported := true }

/-- A proof record is adopted: the ring keeps 64 (R249, R352). -/
def State.adoptProof (s : State) (l : List Byte) : State :=
  let r := proofOfBytes l
  let rest := s.imp.records.filter (fun x => decide (x.seq ≠ r.seq))
  let new := if s.imp.records.length = rest.length then rest ++ [r]
    else s.imp.records.map (fun x => if x.seq = r.seq then r else x)
  { s with imp := { s.imp with records := new.drop (new.length - 64) } }

/-- A PROOF message (R352). -/
def execMirrorProof (h : MirrorHdr) (record : List Byte) (s : State) : Host.Outcome State Fault Refusal :=
  .next (s.mirrorIn h (fun t => t.adoptProof record))

/-- A pin of the holder is adopted (R352). -/
def State.adoptPin (s : State) (cell : Nat) (pin : Option Bool) : State :=
  { s with faults := { s.faults with
    pins := match pin with | some b => wr s.faults.pins cell b | none => del s.faults.pins cell, recordDue := true } }

/-- A PIN message (R352). (DESIGN CHOICE, log 3) -/
def execMirrorPin (h : MirrorHdr) (cell : Nat) (pin : Option Bool) (s : State) : Host.Outcome State Fault Refusal :=
  if 4608 ≤ cell then .fault .noSuchUnit else .next (s.mirrorIn h (fun t => t.adoptPin cell pin))

/-- A PLATE message (R352): the MIRR master writes the same plate slot. (DESIGN CHOICE, log 3) -/
def execMirrorPlate (h : MirrorHdr) (plate offset : Nat) (bytes : List Byte) (s : State) : Host.Outcome State Fault Refusal :=
  if 512 ≤ plate ∨ 4096 < offset + bytes.length then .fault .noSuchUnit
  else .next (s.mirrorIn h (fun t => t.portWrite 6 plate offset bytes none))

/-! ## Captures (R348, R352, R353) -/

/-- A capture was not complete in time (R352, R353). (DEDUCED, log 50) -/
def State.dropImage (s : State) : State :=
  let n := s.mirror.dropped + 1
  let s1 : State := { s with mirror := { s.mirror with image := none, dropped := n } }
  if 4 ≤ n then s1.startResync else s1

/-- A capture with all its segments. -/
def imageDone (s : State) : Option Nat :=
  match s.mirror.image with | some (f, l) => if l.length = 10 then some f else none | none => none

def loopsetDone (s : State) : Option Nat :=
  match s.mirror.loopset with | some (f, l) => if l.length = 32 then some f else none | none => none

/-- SWAP_READY is sent once both captures of a swap frame are complete (R348). A swap frame is one whose loop set comes, like its image,
within 8 frames: an ordinary one takes up to 64 (R351). (DEDUCED, log 50) -/
def State.trySwapReady (s : State) : State :=
  match imageDone s, loopsetDone s with
  | some f, some g =>
    if f = g ∧ s.pair.swapFrame ≠ some f ∧ s.clk.frame < f + 8 then
      ({ s with pair := { s.pair with swapFrame := some f } } : State).mirrorTx 0x82 (bytesLE 4 f)
    else s
  | _, _ => s

/-- An IMAGE segment (R351): 1,024 codes. (DEDUCED, log 50) -/
def execMirrorImage (h : MirrorHdr) (capture segment : Nat) (codes : List Nat) (s : State) : Host.Outcome State Fault Refusal :=
  if 10 ≤ segment then .fault .noSuchUnit
  else .next (s.mirrorIn h (fun t =>
    let t1 := match t.mirror.image with
      | some (f, _) => if f = capture then t else t.dropImage
      | none => t
    let l := match t1.mirror.image with | some (_, l) => l | none => []
    ({ t1 with mirror := { t1.mirror with image := some (capture, wr l segment codes) } } : State).trySwapReady))

/-- A LOOPSET segment (R351): 2,032 bytes. (DEDUCED, log 50) -/
def execMirrorLoopset (h : MirrorHdr) (capture segment : Nat) (bytes : List Byte) (s : State) : Host.Outcome State Fault Refusal :=
  if 32 ≤ segment then .fault .noSuchUnit
  else .next (s.mirrorIn h (fun t =>
    let l := match t.mirror.loopset with | some (f, l) => if f = capture then l else [] | none => []
    ({ t with mirror := { t.mirror with loopset := some (capture, wr l segment bytes) } } : State).trySwapReady))

/-- The codes of a capture are driven. An EO channel that a later impression has changed keeps its code. The module's own image
is overwritten (R433). (DEDUCED, log 50) -/
def State.installImage (s : State) (capture : Nat) (segs : List (Nat × List Nat)) : State :=
  let s1 := s.drives.foldl (fun (t : State) i =>
    if i < 4608 ∧ capture < rd t.loops.changedAt i 0 then t
    else match (rd segs (i / 1024) [])[i % 1024]? with
      | some c => t.setNow i c
      | none => t) s
  { s1 with mirror := { s1.mirror with image := none, imageAt := some s1.clk.frame, dropped := 0 },
            pair := { s1.pair with image := none } }

/-- A capture of the drive image is due for installation at the tick 8 frames after it, or dropped there (R352). -/
def State.imageTick (s : State) : State :=
  if !s.asPartner then s
  else match s.mirror.image with
  | none => s
  | some (f, l) =>
    if s.clk.frame < f + 8 then s
    else if l.length = 10 then s.installImage f l
    else s.dropImage

/-- IMAGE_INSTALL (R352): at a tick. -/
def execImageInstall (s : State) : Host.Outcome State Fault Refusal := .next (s.atTickNow .imageInstall State.imageTick)

/-- The loop set of a capture enters the channel states: INTEG of every thermal channel, stored codes of every cell, TIA range of every
sense channel; a range that changes has changed at this tick (R113). (DEDUCED, log 50) -/
def State.installLoopset (s : State) (segs : List (Nat × List Byte)) : State :=
  let all := (List.range 32).flatMap (fun k => rd segs k [])
  let s1 := s.drives.foldl (fun t i =>
    let w := t.cs i
    if i < 4608 then t.setCs i (cp (cp w 0x10 2 (fieldB all (40960 + 4 * i) 2)) 0x12 2 (fieldB all (40960 + 4 * i + 2) 2))
    else t.setCs i (cp w 8 4 (fieldB all (4 * i) 4))) s
  let s2 := s1.senses.foldl (fun t x => t.writeTia x (fieldB all (59392 + x) 1 % 4)) s1
  { s2 with mirror := { s2.mirror with loopset := none, loopsetAt := some s2.clk.frame } }

/-- A loop set is due for installation at the tick 64 frames after its capture (R352), in a planned swap 8 frames after it (R348). -/
def State.loopsetTick (s : State) : State :=
  if !s.asPartner then s
  else match s.mirror.loopset with
  | none => s
  | some (f, l) =>
    if s.clk.frame < f + (if s.pair.swapFrame = some f then 8 else 64) then s
    else if l.length = 32 then s.installLoopset l
    else { s with mirror := { s.mirror with loopset := none } }

/-- LOOPSET_INSTALL (R348, R352): at a tick. -/
def execLoopsetInstall (s : State) : Host.Outcome State Fault Refusal := .next (s.atTickNow .loopsetInstall State.loopsetTick)

/-! ## Resync (R353, R454) -/

/-- A section of a resync. -/
def State.takeResync (s : State) : Resync → State
  | .plates p l => if p < 512 then s.portWrite 6 p 0 (l.take 4096) none else s
  | .queue d i w => s.setQueue d i { s.queue d i with word := w, descs := [], checked := false, late := false, due := none }
  | .request m => s.takeRequest m
  | .proof l => s.adoptProof l
  | .fabricRecord l =>
    let t := s.adoptFab l
    if t.cal.persist then t.writeFab else t
  | .hatch row l => { s with loops := { s.loops with hatch := wr s.loops.hatch row (BitVec.ofNat 256 (ofBytesLE l)) } }
  | .pin c b => s.adoptPin c (some b)
  | .level l =>
    { s with mirror := { s.mirror with level := some l, ready := s.mirror.ready && decide (l = s.sys.mirrorLevel) } }

/-- A RESYNC section (R353). -/
def execMirrorResyncData (h : MirrorHdr) (d : Resync) (s : State) : Host.Outcome State Fault Refusal :=
  .next (s.mirrorIn h (fun t => t.takeResync d))

/-- A message with a bad CHECK, or a gap in SEQ (R353). -/
def execMirrorBadCheck (s : State) : Host.Outcome State Fault Refusal :=
  .next (if s.asPartner then s.startResync else s)

/-- A resync completes (R353). -/
def execMirrorResyncEnd (s : State) : Host.Outcome State Fault Refusal :=
  .next (if s.mirror.resync then ({ s with mirror := { s.mirror with resync := false } } : State).raise 69 .m else s)

/-- RESYNC messages (R351): section identifier and data. (DESIGN CHOICE, log 48) -/
def State.sendSection (s : State) (id : Nat) (data : List Byte) : State := s.mirrorSend 0x0A (bytesLE 2 id ++ data)

/-- The drive image is captured at this tick, in 10 segments (R351): the positions of R82. (DEDUCED, log 50) -/
def State.captureImage (s : State) : State :=
  { s with mirror := { s.mirror with
    imageOut := (List.range 10).map (fun k =>
      bytesLE 4 s.clk.frame ++ bytesLE 2 k ++ (List.range 1024).flatMap (fun j => bytesLE 2 (s.dch (1024 * k + j)).position)) } }

/-- The 65,024 bytes of a loop set. (DESIGN CHOICE, log 48) -/
def State.loopsetBytes (s : State) : List Byte :=
  (List.range 10240).flatMap (fun i => bytesLE 4 (cg (s.cs i) 8 4)) ++
  (List.range 4608).flatMap (fun c => bytesLE 2 (cg (s.cs c) 0x10 2) ++ bytesLE 2 (cg (s.cs c) 0x12 2)) ++
  (List.range 5632).map (fun x => BitVec.ofNat 8 (s.sch x).range)

/-- The loop set is captured at this tick, in 32 segments (R351). (DESIGN CHOICE, log 48) -/
def State.captureLoopset (s : State) : State :=
  let all := s.loopsetBytes
  { s with mirror := { s.mirror with
    loopsetOut := (List.range 32).map (fun k => bytesLE 4 s.clk.frame ++ bytesLE 2 k ++ sliceB all (2032 * k) 2032) } }

/-- The segments of captures that leave in this frame: two of an image, one of a loop set, five of it in a planned swap, so that an
image takes 5 frames of its 8, a loop set 32 of its 64 and a swap's 7 of its 8 (R348, R351). (DESIGN CHOICE, log 50) -/
def State.sendCaptures (s : State) : State :=
  let n := if s.pair.swapCaptured then 5 else 1
  let m := s.mirror
  let s1 : State := { s with mirror := { m with imageOut := m.imageOut.drop 2, loopsetOut := m.loopsetOut.drop n } }
  (m.loopsetOut.take n).foldl (fun t p => t.mirrorSend 0x08 p) ((m.imageOut.take 2).foldl (fun t p => t.mirrorSend 0x07 p) s1)

/-- A section in parts that a message can hold (R350): its offset and up to 4,000 bytes each. (DESIGN CHOICE, log 48) -/
def State.sendParts (s : State) (id : Nat) (head data : List Byte) : State :=
  (List.range (ceilDiv data.length 4000)).foldl (fun t k =>
    t.sendSection id (head ++ bytesLE 4 (4000 * k) ++ sliceB data (4000 * k) (min 4000 (data.length - 4000 * k)))) s

/-- The granted requests that no impression has confirmed, as REQUEST messages (R353). -/
def State.sendGrants (s : State) : State :=
  let open_ := s.sched.batches.filter (fun (b : Batch) => match b.state with | .applied _ _ => false | _ => true)
  (open_.flatMap Batch.reqs ++ s.sched.returned).foldl State.mirrorGrant s

/-- What the holder sends in a resync (R353, R454), its IMAGE and LOOPSET captured at this tick. (DESIGN CHOICE, log 48) -/
def State.sendResync (s : State) : State :=
  let s1 := s.sendSection 7 (bytesLE 2 s.sys.mirrorLevel)
  let s2 := (List.range 512).foldl (fun t p => t.sendParts 0 (bytesLE 2 p) (t.plate p)) s1
  let qs := s2.sched.queues.filter (fun e => e.2.on)
  let s3 := qs.foldl (fun t e => t.sendSection 1 (bytesLE 4 e.1 ++ bytesLE 16 e.2.word.toNat)) s2
  let s4 := (qs.foldl (fun t e => t.mirrorRequestOf (e.1 / 512) (e.1 % 512) none) s3).sendGrants
  let s5 := s4.imp.records.foldl (fun t r => t.sendSection 3 (r.bytes (fun _ => true))) s4
  let s6 := s5.sendParts 4 [] s5.fabBody
  let s7 := s6.loops.hatch.foldl (fun t e => t.sendSection 5 (bytesLE 2 e.1 ++ bytesLE 32 e.2.toNat)) s6
  let s8 := s7.faults.pins.foldl (fun t e => t.sendSection 6 (bytesLE 2 e.1 ++ bytesLE 1 (bit e.2))) s7
  let s9 := s8.captureImage.captureLoopset
  { s9 with mirror := { s9.mirror with resyncOut := false } }

/-! ## Lanes (R349) -/

/-- A planned swap whose partner is no longer READY and ARMED is not executed (R346): PAIR_SWAP, or the SET_MODE that waits on it,
completes with NOT_PERMITTED, and another request is deferred; loops that froze for it restart. (DEDUCED, log 51) -/
def State.swapWatch (s : State) : State :=
  match s.pair.swap with
  | none => s
  | some (_, c, standby) =>
    if !s.pair.held || s.partnerReady then s
    else
      let s1 : State := { s with pair := { s.pair with swap := none, swapFrame := none, swapCaptured := false, swapReady := false } }
      let s2 := when s.pair.swapFrame.isSome State.restartLoops s1
      match c with
      | some c =>
        if standby then
          let s3 : State := { s2 with sys := { s2.sys with modePending := none, modePersist := false } }
          s3.answer c stNotPermitted [(0, s3.sys.mode.num), (1, s3.sys.target.num)]
        else s2.answer c stNotPermitted []
      | none => ({ s2 with pair := { s2.pair with swapDeferred := true } } : State).raise 66 .m

/-- A mirror lane goes down: the link goes on with the other, or is down (R342, R349, R352). (DEDUCED, log 50) -/
def State.laneDown (s : State) (lane : Bool) : State :=
  let m := s.mirror
  let was := if lane then m.lane1 else m.lane0
  if !was then s
  else
    let other := if lane then m.lane0 else m.lane1
    let s1 : State := { s with mirror := if lane then { m with lane1 := false } else { m with lane0 := false } }
    if other then s1.raise 67 .m
    else
      let s2 : State := { s1 with mirror := { s1.mirror with ready := false, seqRx := none, status := none, statusPrev := none,
                                                             image := none, loopset := none, imageOut := [], loopsetOut := [] } }
      ((s2.raise 68 .m).applyNamed).checkExtension.swapWatch

/-- A mirror lane goes down (R349). -/
def execMirrorLaneDown (lane : Bool) (s : State) : Host.Outcome State Fault Refusal := .next (s.laneDown lane)

/-- A mirror lane comes up (R349); not without ETHREF (R15). In Standby a link that was down resyncs (R353). -/
def execMirrorLaneUp (lane : Bool) (s : State) : Host.Outcome State Fault Refusal :=
  if !s.clk.ethref then .next s
  else
    let down := !s.mirrorUp
    let s1 : State := { s with mirror := if lane then { s.mirror with lane1 := true } else { s.mirror with lane0 := true } }
    .next (if down && s1.asPartner then s1.startResync else s1)

/-- The one-way delay of the link, measured by echo (R354). -/
def execMirrorDelayEcho (delay : Nat) (s : State) : Host.Outcome State Fault Refusal :=
  .next (if s.asPartner then { s with mirror := { s.mirror with delay := delay } } else s)

/-! ## STANDBY_STATUS (R342, R346, R351) -/

/-- The partner's STANDBY_STATUS reaches the holder: a partner that is no longer READY is sent a resync, and a new SWAP_REQ
starts a planned swap. (DEDUCED, log 50) -/
def execStandbyStatus (_h : MirrorHdr) (m : StandbyMsg) (s : State) : Host.Outcome State Fault Refusal :=
  if !(s.paired && s.pair.held && s.mirrorUp) then .next s
  else
    let old := s.mirror.status
    let fresh := match old with | some x => x.ready && !m.ready | none => !m.ready
    let req := m.swapReq && (match old with | some x => !x.swapReq | none => true)
    let s1 : State := { s with mirror := { s.mirror with
      status := some m, statusPrev := if s.clk.ticks ≤ s.mirror.statusTick + 1 then old else none, statusTick := s.clk.ticks,
      statusLast := some m, statusFrame := s.clk.frame, resyncOut := s.mirror.resyncOut || fresh } }
    let s2 := s1.checkExtension.swapWatch
    .next (if req && s2.pair.held && s2.pair.swap.isNone then s2.startSwap none false else s2)

/-! ## Planned swaps (R346 to R348) -/

/-- An impression is armed for one of ten ticks from f on, or a slot starts at one (R347). (DEDUCED, log 51) -/
def State.swapBlocked (s : State) (f : Nat) : Bool :=
  let inR (t : Nat) : Bool := decide (f ≤ t ∧ t ≤ f + 9)
  s.imp.fixed.isSome ||
  s.imp.armed.any (fun a => match a.trigger, a.due with
    | .slot, _ => (match a.frame with | some t => inR t | none => false)
    | .atTime, some _ => inR a.dueFrame
    | .onSync, some d => inR (ceilDiv d 2000)
    | _, _ => false) ||
  (match s.imp.retry with | some (t, _, _) => decide (t ≤ f + 9) | none => false) ||
  (match s.sched.next with | some o => decide (o.start ≤ f + 9) | none => false) ||
  (match s.sched.current, s.sched.next with
   | some c, none => decide (c.start = f) || decide (c.stop ≤ f + 9)
   | some c, some _ => decide (c.start = f)
   | none, _ => (match s.sched.op with | some o => decide (o.op = 1 ∧ o.at_ ≤ f + 9) | none => false))

/-- At a tick, the holder chooses this frame as swap frame when it meets R347; a choice whose capture was not made falls. (DEDUCED, log 51) -/
def State.swapChoose (s0 : State) : State :=
  let s := s0.swapWatch
  let f := s.clk.frame
  match s.pair.swap, s.pair.swapFrame with
  | some (a, _, _), none =>
    if s.pair.held ∧ f % 8 = 0 ∧ a + 2 ≤ f ∧ !s.swapBlocked f then { s with pair := { s.pair with swapFrame := some f, swapReady := false } }
    else s
  | some _, some _ =>
    if s.pair.swapCaptured then s else ({ s with pair := { s.pair with swapFrame := none } } : State).restartLoops
  | none, _ => s

/-- At the swap frame the drive image and the loop set are captured and streamed (R348). (DEDUCED, log 51) -/
def execSwapCapture (s : State) : Host.Outcome State Fault Refusal :=
  if s.pair.held && !s.pair.swapCaptured && decide (s.pair.swapFrame = some s.clk.frame) then
    .next ({ s with pair := { s.pair with swapCaptured := true } } : State).captureImage.captureLoopset.sendCaptures
  else .next s

/-- Without SWAP_READY by the commit point of frame f + 7 the swap waits for the next frame (R348); the loops restart. (DEDUCED, log 51) -/
def State.swapCommit (s : State) : State :=
  match s.pair.swapFrame with
  | some f =>
    if s.pair.held && s.pair.swapCaptured && !s.pair.swapReady && decide (f + 7 ≤ s.clk.frame) then
      ({ s with pair := { s.pair with swapFrame := none, swapCaptured := false } } : State).restartLoops
    else s
  | none => s

/-- SWAP_READY of the partner (R348). (DEDUCED, log 51) -/
def execSwapReady (_h : MirrorHdr) (frame : Nat) (s : State) : Host.Outcome State Fault Refusal :=
  .next (if s.pair.held && s.pair.swapCaptured && decide (s.pair.swapFrame = some frame) then
    { s with pair := { s.pair with swapReady := true } } else s)

/-- Tick f + 8 (R348): the switches open, RELEASE is sent, the lease ends; Standby, and the command's end, follow at the next
tick. The module's image stays in force. (DEDUCED, log 51) -/
def execSwapHandover (s : State) : Host.Outcome State Fault Refusal :=
  match s.pair.swapFrame, s.pair.swap with
  | some f, some (_, c, standby) =>
    if s.pair.held && s.partnerReady && s.pair.swapCaptured && s.pair.swapReady && decide (f + 8 ≤ s.clk.frame) then
      let s1 := (({ s with pair := { s.pair with swap := none } } : State).sendRelease.endLease false true)
      let k := s1.clk.frame
      let s2 : State := { s1 with mirror := { s1.mirror with imageAt := some k, loopsetAt := some k, status := none, statusPrev := none,
                                                             seqRx := none, image := none, loopset := none } }
      let s3 := s2.due (.enter .standby)
      .next (match c with
        | some c => if standby then s3.due (.modeDone c) else s3.answerDue c stOk []
        | none => s3)
    else .next s
  | _, _ => .next s

/-- No swap frame in 500,000 frames (R347), or no lease in 1,000,000 for a partner's request (R533). (DESIGN CHOICE, log 17; DEDUCED, log 51) -/
def execSwapTimeout (s : State) : Host.Outcome State Fault Refusal :=
  match s.pair.swap, s.pair.swapReq with
  | some (a, c, standby), _ =>
    if s.clk.frame < a + 500000 ∨ s.pair.swapCaptured then .next s
    else
      let s1 : State := { s with pair := { s.pair with swap := none, swapFrame := none, swapRequested := false } }
      .next (match c with
        | some c => s1.answer c stTimeout (if standby then [(0, s1.sys.mode.num), (1, s1.sys.target.num)] else [])
        | none => s1)
  | none, some (a, some c) =>
    if s.clk.frame < a + 1000000 then .next s
    else .next (({ s with pair := { s.pair with swapReq := none } } : State).answer c stTimeout [])
  | _, _ => .next s

/-- A PREF module that has been READY and HEALTHY in Standby for REVERT_DELAY sets SWAP_REQ (R359). (DEDUCED, log 51) -/
def execRevertDelay (s : State) : Host.Outcome State Fault Refusal :=
  if s.clk.pref && s.asPartner && s.mirror.ready && s.faults.healthy && decide (0 < s.pair.revertDelay) && s.pair.swapReq.isNone &&
      decide (s.pair.standbySince + 1000000000 * s.pair.revertDelay ≤ s.ns) then
    .next { s with pair := { s.pair with swapReq := some (s.clk.frame, none) } }
  else .next s

/-- SWAP_INTERVAL has passed since the last lease change (R360). (DEDUCED, log 51) -/
def execSwapInterval (s : State) : Host.Outcome State Fault Refusal :=
  if s.paired && s.pair.held && s.pair.swap.isNone && !s.pair.swapDeferred && decide (0 < s.pair.swapInterval) &&
      decide (s.pair.lastChange + 1000000000 * s.pair.swapInterval ≤ s.ns) then
    .next (s.startSwap none false)
  else .next s

/-! ## The tick (R351, R354) -/

/-- The FRAME message of a tick: the impression or the retry that took effect at it, if any, with its PLATE (R249). (DESIGN CHOICE, log 48; DEDUCED, log 49) -/
def State.sendFrame (s : State) : State :=
  let rcd := s.imp.records.getLast?
  let now := match rcd with | some r => decide (r.time = s.clk.tickTime ∧ r.frame = s.frame32 ∧ r.epoch = s.pair.epoch) | none => false
  let seq := match rcd with | some r => if now then r.seq else 0xFFFFFFFF | none => 0xFFFFFFFF
  let plate := match rcd with
    | some r => if now then r.plate else 0xFFFF
    | none => 0xFFFF
  let o := s.sched.current
  s.mirrorSend 0x01 (bytesLE 4 s.frame32 ++ bytesLE 8 s.clk.tickTime ++ bytesLE 4 seq ++ bytesLE 2 plate ++
    bytesLE 1 (bit s.sched.active) ++ bytesLE 2 (match o with | some o => o.entry | none => 0) ++ bytesLE 4 s.sched.cycle ++
    bytesLE 1 s.sys.mode.num)

/-- The holder's messages of a tick. (DEDUCED, log 50) -/
def State.holderTick (s : State) : State :=
  if !(s.paired && s.pair.held && s.mirrorUp) then s
  else
    let k := s.clk.frame
    let s1 := when s.mirror.resyncOut State.sendResync s.sendFrame
    let s2 := when (decide (k % 8 = 0) && !s.pair.swapCaptured) State.captureImage s1
    (when (decide (k % 64 = 32) && !s.pair.swapCaptured) State.captureLoopset s2).sendCaptures

/-- The partner's part of a tick: PARTNER_SILENT, TIME_MISMATCH, READY, STANDBY_STATUS. (DEDUCED, log 50) -/
def State.partnerTick (s : State) : State :=
  let n := s.clk.frame
  let s0 : State :=
    if s.sys.mode == .standby && s.mirror.ready && s.faults.healthy then s
    else { s with pair := { s.pair with standbySince := s.ns,
                                        swapReq := match s.pair.swapReq with | some (_, none) => none | r => r } }
  if !(s0.paired && !s0.pair.held && s0.sys.mode == .standby) then
    { s0 with mirror := { s0.mirror with ready := false } }
  else
    let seen (f : Nat) : Bool := s0.mirror.framesSeen.contains f
    let quiet := !seen (n - 1) && !seen (n - 2) && s0.mirror.lastFrame.isSome && !s0.mirror.silent
    let s1 := if quiet then ({ s0 with mirror := { s0.mirror with silent := true } } : State).applyNamed.raise 65 .m else s0
    let far := s1.heardBoth && decide (200 < s1.mirror.offset.natAbs)
    let s2 :=
      if far && !s1.mirror.mismatch then ({ s1 with mirror := { s1.mirror with mismatch := true } } : State).raise 70 .m
      else if s1.heardBoth && !far then { s1 with mirror := { s1.mirror with mismatch := false } }
      else s1
    let s3 : State := { s2 with mirror := { s2.mirror with ready := s2.readyNow } }
    let m := s3.mirror
    let armed := s3.pair.armed.isSome
    let flags := pack [(1, bit m.ready), (1, bit armed), (1, bit s3.linkUp), (1, bit s3.faults.healthy), (1, bit s3.pair.swapReq.isSome)]
    let s4 := s3.mirrorTx 0x81 (bytesLE 4 flags ++ bytesLE 4 (m.seqRx.getD 0) ++ bytesLE 4 (unsigned 32 m.offset))
    { s4 with pair := { s4.pair with reportedArmed := s4.pair.reportedArmed || (armed && s4.mirrorUp) } }

/-- The mirror link at a tick. -/
def State.mirrorTick (s : State) : State := s.checkExtension.partnerTick.holderTick

end Sys2Proof.Machine
end

