-- ==== Sys2Proof/Machine/Modes.lean ====
section
/-! DEFINITION. Modes (R426 to R434): SET_MODE, the changes due at a tick and their effects, the first tick of a lease (R186,
R358, R429, R430), and a fabric descriptor that takes effect (R63, R89). -/

namespace Sys2Proof.Machine

/-! ## The fabric descriptor (R63, R89, R433) -/

/-- The state of the channels that a descriptor makes idle is cleared (R63): channel state, drive channel less its slew settings and
tone, what the engines keep beside them, and the sense channel less its epoch and last word. (DEDUCED, log 31) -/
def State.clearChannels (s : State) : State :=
  let keep {α : Type} (t : Tbl α) : Tbl α := t.filter (fun e => s.drivePresent e.1)
  { s with
    loops := { s.loops with cs := keep s.loops.cs, moved := keep s.loops.moved, changedAt := keep s.loops.changedAt,
                            window := keep s.loops.window, dwell := keep s.loops.dwell, unlocked := keep s.loops.unlocked,
                            unlockedRaised := keep s.loops.unlockedRaised },
    drive := { s.drive with ch := s.drive.ch.map (fun e =>
      (e.1, if s.drivePresent e.1 then e.2
            else { DriveCh.init with dac := e.2.dac, step := e.2.step, rate := e.2.rate, m := e.2.m, a := e.2.a, phi := e.2.phi })) },
    sense := { s.sense with ch := s.sense.ch.map (fun e =>
      (e.1, if s.sensePresent e.1 then e.2 else { SenseCh.init with epoch := e.2.epoch, last := e.2.last })) } }

/-- The channels of a descriptor's change: those present before keep their state, new ones take their first state, the others are
cleared (R63). (DEDUCED, log 31) -/
def State.clearIdle (old s : State) : State :=
  (s.drives).foldl (fun (t : State) i =>
    if old.drivePresent i then t.setCs i (old.cs i)
    else (t.setCs i (s.csInit i)).modDch i (fun c => { c with range := s.descRange i })) s.clearChannels

/-- Smoothing after a descriptor (R89): step and rate at the first descriptor and at a change of smoothing; a channel that
turns to the deglitcher takes its position as its code. (DEDUCED, log 31) -/
def State.smoothing (old s : State) : State :=
  if old.desc.everLoaded && old.slew == s.slew then s
  else
    let step := s.dsc 0x24 2 % 4096 + 1
    let rate := s.dsc 0x26 1 + 1
    (List.range 5632).foldl (fun (t : State) j => t.modDch (4608 + j) (fun c =>
      { c with step := step, rate := rate, target := if old.slew then c.position else c.target })) s

/-- A descriptor takes effect at this tick (R63). The module's own image is no longer intact (R433). (DEDUCED, log 31) -/
def State.takeDescriptor (s : State) (bytes : List Byte) : State :=
  let first := !s.desc.everLoaded
  let s1 : State := { s with
    desc := { s.desc with bytes := bytes, loaded := true, everLoaded := true, reading := false },
    pair := { s.pair with image := none } }
  let s2 := s.smoothing (s.clearIdle s1)
  ((List.range 5632).filter (fun x => s1.sensePresent x && (first || !s.sensePresent x))).foldl
    (fun t x => t.setTia x (s1.descTia x)) s2

/-! ## Leaving and entering modes (R431, R458) -/

/-- Every force is released at this tick (R431, R523): an EO channel takes the stored code of its state, as written now. -/
def State.releaseForces (s : State) : State :=
  (s.drive.ch.filter (fun e => e.2.forced.isSome)).foldl (fun (t : State) e =>
    let t1 := t.modDch e.1 DriveCh.letGo
    if e.1 < 4608 then
      t1.putIn true (t1.clk.frame + 1) e.1 .impression (cg (t1.cs e.1) (if t1.cellState e.1 then 0x12 else 0x10) 2)
    else t1.restartLoop e.1) s

/-- The banks that still wait when Start-up Calibration ends are not run (R528). -/
def State.dropWaiting (s : State) : State :=
  { s with cal := { s.cal with scopes := s.cal.scopes.map (fun e => (e.1, { e.2 with pending := false })) } }

/-- What leaving a mode does: runs are abandoned (R419), a fabric run that waits too, and the rest image follows a fabric run (R416), Characterize and Service release their
forces, path tests end with Standby (R138), loops leave Hold (R185). -/
def State.leave (s : State) (m : Mode) : State :=
  let a0 := when ((s.scope 0x300).pending) (fun t => t.abandonRun 0x300) s.abandonRuns
  let s0 := when (s.sys.mode == .startupCal) State.dropWaiting a0
  let s1 := when (s.cal.fabric.isSome && s.pair.held) (fun t => t.restImage.restartLoops) s0
  let s2 := when (s.sys.mode == .characterize || s.sys.mode == .service) State.releaseForces s1
  let s3 := when (s.sys.mode == .standby) State.stopTests s2
  when (s.sys.mode == .hold && s.pair.held && m != .hold) State.restartLoops s3

/-- Armed impressions are discarded by a mode (R228, R431). -/
def State.discardAll (s : State) (armedOnly : Bool) : State :=
  (s.imp.armed.filter (fun a => !armedOnly || a.snap.isSome)).foldl (fun t a =>
    if t.imp.armed.any (fun x => decide (x.order = a.order)) then t.discardArmed a stWrongMode true else t) s

/-- The block image at the entry of Dark (R431, R202): no circuits; the changed cells count as changed at this tick. (DESIGN CHOICE, log 28) -/
def State.enterDark (s : State) : State :=
  let old := match s.imp.applied with | some p => p.cells | none => 0
  let s1 := s.supersede (fun _ => true)
  let s2 := s1.blockImage
  let changed := s.geo.cells.filter (fun c => tb old c != tb s.blockCells c)
  let s3 := changed.foldl (fun (t : State) c =>
    let t1 := (t.touch c).beginDwell c (tb old c)
    { t1 with loops := { t1.loops with changedAt := wr t1.loops.changedAt c t.clk.frame } }) s2
  s3.breakChain

def descA0 : Nat := 0x01000000
def descA1 : Nat := 0x01008000

/-- The flash descriptor (R68, R69), unless one was loaded in the Boot-to-Standby interval (R439). -/
def State.flashDescriptor (s : State) : State :=
  if s.desc.inInterval then s
  else match s.recordInForce descA0 descA1 16576 with
  | some (c, _) => s.takeDescriptor (s.flashBytes ((if c then descA1 else descA0) + 16) 16576)
  | none => s.raise 2 .m

/-- What takes effect at the first tick of Standby (R439). -/
def State.firstStandby (s : State) : State :=
  if s.sys.standbySeen then s
  else
    let s1 : State := { s with sys := { s.sys with standbySeen := true } }
    let s2 := s1.flashDescriptor.loadFab.loadRetirement
    when s2.desc.loaded State.defaultTones s2

/-- A module enters Standby: it follows the holder from here (R349, R352 to R354); after a handover its own image stands. -/
def State.enterStandby (s : State) : State :=
  let s1 : State := { s with
    mirror := { s.mirror with lastFrame := none, framesSeen := [], seqRx := none, silent := false },
    pair := { s.pair with standbySince := s.ns } }
  when (s1.paired && s1.mirrorUp) State.startResync s1

/-- A referee starts (R336, R440): ISO released, no holder known, links down. -/
def State.enterReferee (s : State) : State :=
  { s with pair := { s.pair with refSince := s.pair.now, refReady := false, refHolder := none, refArmed := none, refEnd := [],
                                 refEpoch := 0, portA := .init, portB := .init } }

/-- The effects of a mode at its entry tick (R431). -/
def State.enter (s : State) (old m : Mode) : State :=
  match m with
  | .hold =>
    let s1 := s.discardAll true
    { s1 with imp := { s1.imp with locates := [] }, sys := { s1.sys with holdLegacy := decide (old = .legacy) } }
  | .dark => (s.discardAll true).enterDark
  | .characterize | .service => s.discardAll false
  | .standby => s.firstStandby.enterStandby
  | .referee => s.enterReferee
  | _ => s

/-- The mode changes at this tick, with the effects of R431. -/
def State.changeMode (s : State) (m : Mode) : State :=
  if s.sys.mode = m then s
  else
    let old := s.sys.mode
    let s1 := (s.leave m).enterMode m
    let s2 := s1.enter old m
    if old = .referee then { s2 with pair := { s2.pair with portA := .init, portB := .init, refHolder := none, refArmed := none } }
    else s2

/-! ## The mode record (R440) -/

def modeA0 : Nat := 0x01012000
def modeA1 : Nat := 0x01013000

/-- The body of the copy in force, or the default fields. -/
def State.modeBody (s : State) : List Byte :=
  match s.recordInForce modeA0 modeA1 8 with
  | some (c, _) => s.flashBytes ((if c then modeA1 else modeA0) + 16) 8
  | none => bytesLE 4 3 ++ bytesLE 4 31250

/-- The next body: the fields that a write sets, the others kept. -/
def modeFields (b : List Byte) (boot : Option (Nat × Nat)) (policy : Option (Nat × Nat)) : List Byte :=
  let p := match policy with | some (x, y) => bytesLE 1 x ++ bytesLE 2 y | none => sliceB b 1 3
  match boot with
  | some (t, l) => bytesLE 1 t ++ p ++ (if t = 10 then bytesLE 4 l else sliceB b 4 4)
  | none => sliceB b 0 1 ++ p ++ sliceB b 4 4

/-- The mode that start-up ends in (R440). -/
def State.bootTarget (s : State) : Mode := if fieldB s.modeBody 0 1 = 10 then .referee else .standby

/-! ## SET_MODE (R428 to R434, R502) -/

/-- The response of SET_MODE. -/
def State.modeReply (s : State) : List (Nat × Nat) := [(0, s.sys.mode.num), (1, s.sys.target.num)]

/-- The modes that SET_MODE may name (R428). (DESIGN CHOICE, log 28) -/
def State.mayName (s : State) (m : Mode) : Bool :=
  let row : List Mode := [.active, .hold, .dark, .characterize, .service, .standby, .isolated]
  match s.sys.mode with
  | .reset | .boot | .startupCal => false
  | .standby => m.named || m == .service || m == .isolated || m == .referee
  | .active | .dark | .characterize => row.contains m
  | .service => if s.pair.held then row.contains m else m.named || m == .standby || m == .isolated
  | .hold => if s.sys.holdLegacy then [Mode.legacy, .hold, .standby, .isolated].contains m else row.contains m
  | .legacy => [Mode.legacy, .hold, .standby, .isolated].contains m
  | .isolated | .referee => m == .standby

/-- The conditions of R428, R429 and R432 in order; OK when all hold. (DESIGN CHOICE, log 28) -/
def State.modeCondition (s : State) (m : Mode) (force : Bool) : Nat :=
  if m.named && !s.pair.held then
    if !s.desc.loaded then stWrongMode
    else if m = .legacy ∧ s.fuse 2817 1 = 0 then stNotPermitted
    else if !s.pair.solo && !s.pair.enable then stNotPermitted
    else stOk
  else if m = .referee ∧ s.pair.enable then stNotPermitted
  else if m = .standby ∧ s.pair.held ∧ !s.pair.solo ∧ !s.partnerReady ∧ !force then stNotPermitted
  else stOk

/-- The record is written behind a SET_MODE with PERSIST; its end completes the command (R440). -/
def State.modeAnswer (s : State) (c : CmdRef) (persist : Bool) : State :=
  if persist then s.flashJob (.mode (some (s.sys.mode.num, s.pair.refL)) none c s.modeReply)
  else s.answerAt s.clk.tickTime c stOk 0 0 s.modeReply

/-- A SET_MODE is accepted and waits for the next tick (R431, R432). (DESIGN CHOICE, log 28) -/
def State.modeAccept (s : State) (c : CmdRef) (m : Mode) (persist : Bool) : State :=
  { s with sys := { s.sys with modePending := some (c, m), modePersist := persist } }

/-- SET_MODE (R428, R429, R432, R434). (DESIGN CHOICE, log 28) -/
def State.setMode (s : State) (c : CmdRef) (m : Mode) (persist force : Bool) : State :=
  let keep := persist && (m == .standby || m == .referee)
  if s.sys.modePending.isSome || s.pair.swap.isSome then s.answer c stBusy s.modeReply
  else if s.sys.mode = .hold ∧ s.pair.solo ∧ s.faults.overflow ∧ m ≠ .hold then s.answer c stBusy s.modeReply
  else if m = s.sys.mode then (if keep then s.modeAnswer c true else s.answer c stOk s.modeReply)
  else if !s.mayName m then s.answer c stWrongMode s.modeReply
  else if s.modeCondition m force ≠ stOk then s.answer c (s.modeCondition m force) s.modeReply
  else if m.named && !s.pair.held && !s.pair.solo then
    let s1 : State := { s with sys := { s.sys with target := m } }
    s1.answer c stOk s1.modeReply
  else if m = .standby ∧ s.pair.held ∧ s.paired ∧ s.partnerReady then (s.modeAccept c m keep).startSwap (some c) true
  else (s.modeAccept c m keep).due (.setMode c m)

/-! ## Changes due at a tick (R434) -/

/-- The rank of a change of mode; a smaller rank goes first. (DESIGN CHOICE, log 28) -/
def opRank : TickOp → Option Nat
  | .enter .isolated => some 0
  | .setMode _ .isolated => some 0
  | .enter _ => some 1
  | .overflowHold => some 2
  | .setMode _ _ => some 3
  | _ => none

/-- The rank that is performed at this tick. (DESIGN CHOICE, log 28) -/
def winningRank (l : List TickOp) : Nat := (l.filterMap opRank).foldl min 4

/-- A SET_MODE has been performed and completes (R431, R440). -/
def State.modeDone (s : State) (c : CmdRef) : State :=
  let keep := s.sys.modePersist
  ({ s with sys := { s.sys with modePending := none, modePersist := false } } : State).modeAnswer c keep

/-- A SET_MODE that a higher change overtakes completes with BUSY (R434). -/
def State.modeLost (s : State) (c : CmdRef) : State :=
  ({ s with sys := { s.sys with modePending := none, modePersist := false } } : State).answerAt s.clk.tickTime c stBusy 0 0 s.modeReply

/-- A lease is given up at this tick (R432). (DESIGN CHOICE, log 28) -/
def State.giveUp (s : State) : State :=
  if s.pair.held then s.sendRelease.endLease false (!s.pair.solo) else s

/-- A solo lease starts at this tick (R341, R429): the epoch held last plus 1, L = 500 µs; not against ISO, nor without
VDD_LEASE. (DESIGN CHOICE, log 28) -/
def State.soloStart (s : State) (c : CmdRef) : State :=
  if s.isoOn then (s.modeLost c).changeMode .isolated
  else if !s.island then s.modeLost c
  else s.startLease ((s.pair.epoch + 1) % 2 ^ 32) 31250 s.pair.now

/-- A change of mode is performed (R427, R431, R432). (DESIGN CHOICE, log 28; DEDUCED, log 45) -/
def State.performMode (s : State) (o : TickOp) : State :=
  match o with
  | .enter m =>
    let s1 := s.changeMode m
    -- ISO that came before the end of start-up leads to Isolated here (R334).
    if m = .standby ∧ s1.isoOn then s1.changeMode .isolated
    else if m = .referee then { s1 with pair := { s1.pair with refL := fieldB s.modeBody 4 4 } }
    else s1
  | .overflowHold => if s.pair.held && s.pair.solo then s.changeMode .hold else s
  | .setMode c m =>
    if m.named && !s.pair.held then s.soloStart c
    else if m = .standby ∨ m = .isolated then (s.giveUp.changeMode m).modeDone c
    else (s.changeMode m).modeDone c
  | _ => s

/-- A change of mode that loses. -/
def State.dropMode (s : State) (o : TickOp) : State :=
  match o with
  | .setMode c _ => s.modeLost c
  | _ => s

/-- One change of mode of a tick, against the rank that is performed. -/
def State.modeOp (s : State) (win : Nat) (o : TickOp) : State :=
  if opRank o = some win then s.performMode o else s.dropMode o

/-! ## The first tick of a lease (R186, R339, R357, R358, R429, R430) -/

/-- The mode that a lease brings up: the holder's at a mirrored takeover, else the mode named or TARGET (R358, R429). -/
def State.leaseMode (s : State) : Mode :=
  let own := match s.sys.modePending with
    | some (_, m) => if m.named then m else s.sys.target
    | none => s.sys.target
  if s.pair.takeover && !s.pair.ownImage then
    match s.mirror.lastFrame with
    | some f => (Mode.ofNum f.mode).getD own
    | none => own
  else own

/-- Results that are outstanding end as NOT_PROVED; their requests complete with OK (R358). (DEDUCED, log 46) -/
def State.endProofs (s : State) : State :=
  let s1 : State := { s with imp := { s.imp with items := [], locates := [], retry := none, fixed := none } }
  let s2 := s.imp.items.foldl (fun t it => t.finalResult it.ingress it.egress (some it.seq) it.first 0) s1
  let l1 := match s.imp.retry with | some (_, l, _) => l | none => []
  let l2 := match s.imp.fixed with | some (.retry l _) => l | _ => []
  let s3 := (s2.endAwaiting (l1 ++ l2) 0)
  let s4 := s3.sched.batches.foldl (fun t b => match b.state with
    | .applied seq _ => b.reqs.foldl (fun t r => t.completeProved seq (dIngress r.desc) 0) t
    | _ => t) s3
  { s4 with imp := { s4.imp with records := s4.imp.records.map (fun r => { r with pending := 0 }) } }

/-- Granted requests whose impression was not confirmed are routed again (R358). (DEDUCED, log 46) -/
def State.regrant (s : State) : State :=
  let own := s.sched.batches.filter (fun (b : Batch) => match b.state with | .applied _ _ => false | _ => true)
  let s1 := s.discardBatches (own.map Batch.id)
  let s2 : State := { s1 with mirror := { s1.mirror with granted := [] } }
  s2.returnReqs (s.mirror.granted.map (fun r => (r.1, 0)))

/-- The trigger and the due time of a mirrored impression (R225, R351): an ON_SYNC impression whose edge has not come has none. -/
def mirroredTrigger (i : ImpressionMsg) : Trigger := if i.trigger = 1 then .asap else if i.trigger = 2 then .atTime else .onSync

def mirroredDue (i : ImpressionMsg) : Option Nat := if i.trigger = 3 ∧ i.due = 0 then none else some i.due

/-- A mirrored IMPRESS that no FRAME message confirmed is armed again with its trigger, its due time and its snapshot (R225, R358), and
its IMPRESSION message begins (R36). STRICT is not mirrored (R351). (DEDUCED, log 40; DEDUCED, log 46) -/
def State.rearm (s : State) : State :=
  let l := s.mirror.impressions.filter (fun i => decide (i.source = 2))
  let s1 : State := { s with mirror := { s.mirror with impressions := [], named := none } }
  l.foldl (fun t i =>
    let img := imgOfBytes i.snapshot
    let a : Armed := { source := 2, trigger := mirroredTrigger i, plate := i.plate, due := mirroredDue i, order := 0, strict := false, late := false,
                       cmd := none, batch := none, frame := none, read := none, snap := some img }
    (t.addArmed a).mirrorArmed a img) s1

/-- The mirrored completion records that the host has not returned are written again with the new epoch (R357). (DEDUCED, log 46) -/
def State.rewriteCpls (s : State) : State :=
  let open_ (c : Nat × Nat × BitVec 256) : Bool :=
    let x := s.domain c.1
    let size := 2 ^ x.cK
    decide (0 < x.cK) && decide ((c.2.1 + size - x.cHead) % size < (x.cWrite + size - x.cHead) % size)
  let s1 : State := { s with mirror := { s.mirror with cpls := [] } }
  (s.mirror.cpls.filter open_).foldl (fun t c =>
    let rcd := stampRecord c.2.2 (tb c.2.2.toNat 63) t.pair.epoch
    (t.mirrorSend 0x04 (bytesLE 2 c.1 ++ bytesLE 2 c.2.1 ++ bytesLE 32 rcd.toNat)).newXfer c.1 (.completion c.2.1) false true
      ((t.domain c.1).cBase + 32 * c.2.1) 32 (bytesLE 32 rcd.toNat)) s1

/-- Reserved ring entries: one for each granted request whose record is not written (R266). (DEDUCED, log 46) -/
def State.recount (s : State) : State :=
  (List.range 128).foldl (fun t d =>
    let n := (t.sched.returned.filter (fun r => decide (r.dom = d))).length +
      (t.sched.batches.flatMap (fun (b : Batch) => b.reqs.filter (fun (r : Req) => decide (r.dom = d)))).length +
      (t.sched.cpls.filter (fun c => decide (c.dom = d))).length
    if (t.domain d).cReserved = n then t else t.setDomain d { t.domain d with cReserved := n }) s

/-- The image and the mode of a first-ever lease (R52, R88, R429, R430). (DEDUCED, log 46) -/
def State.firstEver (s : State) (m : Mode) : State :=
  let s1 := { s with drive := { s.drive with closed := true } }.changeMode m
  if m = .dark then s1.restImage.enterDark else s1.restImage

/-- The image and the mode of a takeover (R88, R344, R358): positions stand; in Dark the block image is the applied plate. (DEDUCED, log 46) -/
def State.takeover (s : State) (m : Mode) : State :=
  let legacy := s.sys.holdLegacy
  let s1 := s.applyNamed.driveStand.changeMode m
  let s2 := if m = .hold then { s1 with sys := { s1.sys with holdLegacy := legacy } } else s1
  if m = .dark then s2.enterDark else s2

/-- The image and the mode of the first lease tick. (DEDUCED, log 46) -/
def State.leaseEnter (s : State) : State :=
  let s1 : State := { s.stopTests with pair := { s.stopTests.pair with firstTick := false } }
  if s.pair.takeover then s1.takeover s.leaseMode else s1.firstEver s.leaseMode

/-- The commands that a lease answers: a PAIR_SWAP that waited for it, and a SET_MODE that named a lease mode. -/
def State.leaseAnswers (s : State) : State :=
  let s1 := match s.pair.swapReq with
    | some (_, some c) => s.answerAt s.clk.tickTime c stOk 0 0 []
    | _ => s
  let s2 : State := { s1 with pair := { s1.pair with swapReq := none } }
  match s2.sys.modePending with
  | some (c, n) => if n.named then s2.modeDone c else s2
  | none => s2

/-- The first tick of a lease. (DEDUCED, log 46) -/
def State.leaseTick (s : State) : State :=
  if !s.pair.held || !s.pair.firstTick then s
  else
    let s1 := ((s.leaseEnter.endProofs.regrant.rearm.rewriteCpls.recount).leaseLoops (!s.pair.takeover)).pinRetired.leaseAnswers
    when s1.swapWanted State.requestSwap s1

end Sys2Proof.Machine
end

