-- ==== Sys2Proof/Machine/Firmware.lean ====
section
/-! DEFINITION. Reset, clocks and supplies (R14, R15, R21, R435, R436, R568 to R570), secure boot and flash recovery (R441 to R446,
R491), flash writes, fuses (R447 to R449), hot restart (R451 to R454), and the health report (R388, R423). -/

namespace Sys2Proof.Machine

/-! ## Reset (R435, R436, R97) -/

/-- The state after power-on reset or RST_N: everything at its reset value, but for flash, fuses, the lease island with
VDD_LEASE present (R336), the lines outside the module, what has left it, and the model's own counters. (DEDUCED, log 22) -/
def State.afterReset (s : State) (rstN coreUp : Bool) : State :=
  { State.reset with
    pending := s.pending,
    clk := { Clk.init with rstN := rstN, coreUp := coreUp, vddLease := s.clk.vddLease, ethref := s.clk.ethref, fuseEn := s.clk.fuseEn },
    burin := { Burin.init with free := s.burin.free },
    imp := { Imp.init with reads := s.imp.reads },
    pair := { Pair.init with now := s.pair.now, epoch := s.pair.epoch, portA := s.pair.portA, portB := s.pair.portB,
                             recovered := s.pair.recovered },
    cal := { Cal.init with runs := s.cal.runs },
    sys := { Sys.init with flash := s.sys.flash, fuses := s.sys.fuses, fusesInForce := s.sys.fusesInForce },
    host := { HostIf.init with out := s.host.out } }

/-- RELEASE of a lease that a reset or a collapse ends. (DEDUCED, log 63) -/
def State.releaseLease (s : State) : State := if s.pair.held then s.sendRelease else s

/-- RST_N falls, or power comes on (R435, R436). (DESIGN CHOICE, log 15; DEDUCED, log 63) -/
def execRstNAssert (s : State) : Host.Outcome State Fault Refusal := .next (s.releaseLease.afterReset false true)

/-- The core supplies collapse (R97): the switches open at once, with no hold; RELEASE is sent. (DESIGN CHOICE, log 15; DEDUCED, log 63) -/
def execCoreSupplyCollapse (s : State) : Host.Outcome State Fault Refusal := .next (s.releaseLease.afterReset s.clk.rstN false)

/-- RST_N rises (R435, R568): straps and fuses are latched. (DESIGN CHOICE, log 15) -/
def execRstNRelease (siteId pref clkMode : Bool) (s : State) : Host.Outcome State Fault Refusal :=
  if s.clk.rstN || !s.clk.coreUp then .next s
  else .next { s with clk := { s.clk with rstN := true, siteId := siteId, pref := pref, clkMode := clkMode },
                      sys := { s.sys with fusesInForce := s.sys.fuses } }

/-! ## Clocks (R14, R15, R21) -/

/-- LPLL locks (R21): frame 0 and fabric time 0 begin here; from Reset the module enters Boot. (DEDUCED, log 22) -/
def execLpllLock (s : State) : Host.Outcome State Fault Refusal :=
  if s.clk.lpll || !s.clk.rstN || !s.clk.coreUp then .next s
  else
    let s1 : State := { s with
      clk := { s.clk with lpll := true, interconnect := true, frame := 0, cycle := 0, tickTime := 0, committed := false, stepped := false,
                          refilled := false, reported := false },
      ft := { s.ft with t := 0, ppsEdge := none, ppsHeld := none, ppsGlitch := false, ppsLast := 0, ppsOutLine := false, ppsOutNext := 0,
                        syncTime := 0, port0 := s.ft.port0.shift (fun _ => 0), port1 := s.ft.port1.shift (fun _ => 0) },
      pair := { s.pair with standbySince := 0, lastChange := 0 }
      drive := { s.drive with holding := false } }
    let s2 := s1.heartbeat
    .next (if s.sys.mode = .reset then s2.enterMode .boot else s2)

/-- LPLL loses lock (R14): ticks and heartbeat stop, the hold islands hold the outputs of a lease (R97). (DEDUCED, log 22; DEDUCED, log 63) -/
def execClockLoss (interconnectRuns : Bool) (s : State) : Host.Outcome State Fault Refusal :=
  if !s.clk.lpll then .next s
  else
    let s1 : State := { s with clk := { s.clk with lpll := false, interconnect := interconnectRuns },
                               drive := { s.drive with holding := s.pair.held } }
    .next (if interconnectRuns then s1.raise 0 .m else s1)

/-- ETHREF is lost (R15): management ports and mirror link go down; under PTP the source is lost with the ports (R318, R319). (DEDUCED,
log 63) -/
def execEthrefLoss (s : State) : Host.Outcome State Fault Refusal :=
  if !s.clk.ethref then .next s
  else
    let s1 : State := { s with clk := { s.clk with ethref := false } }
    let s2 := if s.coreRuns then s1.raise 1 .m else s1
    .next ((((s2.portDown false).portDown true).laneDown false).laneDown true)

/-- ETHREF returns (R15). -/
def execEthrefRestored (s : State) : Host.Outcome State Fault Refusal :=
  .next { s with clk := { s.clk with ethref := true } }

/-! ## Images and slots (R441 to R445) -/

/-- The control block of a slot; its image stands 4 KiB above. -/
def slotBase (b : Bool) : Nat := if b then 0x00800000 else 0

/-- ACTIVATION_SEQ and IMAGE_LENGTH of a control block as they stand. -/
def State.slotSeq (s : State) (b : Bool) : Nat := fieldB (s.flashBytes (slotBase b) 4) 0 4
def State.slotLen (s : State) (b : Bool) : Nat := fieldB (s.flashBytes (slotBase b + 4) 4) 0 4

/-- A control block is valid (R442). -/
def State.slotValid (s : State) (b : Bool) : Bool :=
  decide (crc32 (s.flashBytes (slotBase b) 8) = fieldB (s.flashBytes (slotBase b + 8) 4) 0 4) &&
    decide (513 ≤ s.slotLen b ∧ s.slotLen b ≤ 4194816)

/-- The order in which the Boot ROM tries the slots (R445). (DESIGN CHOICE, log 56) -/
def State.slotOrder (s : State) : List Bool :=
  match s.slotValid false, s.slotValid true with
  | true, true => if later (s.slotSeq true) (s.slotSeq false) then [true, false] else [false, true]
  | false, true => [true, false]
  | _, _ => [false, true]

/-- The octets of a digest, most significant first (R443). (DESIGN CHOICE, log 6) -/
def digest (d : BitVec 384) : List Byte := (bytesLE 48 d.toNat).reverse

/-- The bytes of a key hash in the fuse array (R447, R538). (DESIGN CHOICE, log 6) -/
def State.keyHash (s : State) (lo : Nat) : List Byte := bytesLE 48 (s.fuse lo 384)

/-- The first condition of R444 that an image fails, as BOOT_REASON (R469): header of 512 bytes, IMAGE_LENGTH, body. (DESIGN CHOICE, log 6) -/
def State.imageFault (s : State) (hdr : List Byte) (length : Nat) (body : List Byte) : Option Nat :=
  let vkey := sliceB hdr 0x50 96
  let ckey := sliceB hdr 0xB0 96
  let signed := sliceB hdr 0 0x110
  let customer := s.fuse 2432 384
  if fieldB hdr 0 4 ≠ 0x5746504E ∨ length < fieldB hdr 0x10 4 + 512 then some 2
  else if digest (Config.sha384 vkey) ≠ s.keyHash 2048 then some 3
  else if !Config.ecdsaP384 vkey signed (sliceB hdr 0x110 96) then some 4
  else if customer ≠ 0 ∧ (fieldB hdr 6 2 % 2 = 0 ∨ digest (Config.sha384 ckey) ≠ s.keyHash 2432 ∨
      !Config.ecdsaP384 ckey signed (sliceB hdr 0x170 96)) then some 5
  else if digest (Config.sha384 body) ≠ sliceB hdr 0x20 48 then some 6
  else none

/-- The header of the image in a slot, and its verification (R444). -/
def State.slotHeader (s : State) (b : Bool) : List Byte := s.flashBytes (slotBase b + 4096) 512

/-- DESIGN CHOICE, log 56. -/
def State.slotFault (s : State) (b : Bool) : Option Nat :=
  let hdr := s.slotHeader b
  match s.imageFault hdr (s.slotLen b) (s.flashBytes (slotBase b + 4096 + 512) (fieldB hdr 0x10 4)) with
  | some r => some (if s.slotValid b then r else 1)
  | none => none

/-- The header fields of the image that runs (R443). -/
def State.runImage (s : State) (b : Bool) : State :=
  let h := s.slotHeader b
  { s with sys := { s.sys with slotB := b, version := BitVec.ofNat 32 (fieldB h 8 4), mirrorLevel := fieldB h 0x0C 2,
                               configLevel := fieldB h 0x0E 2 } }

/-- The policy of the mode record in force (R440, R528). -/
def State.loadPolicy (s : State) : State :=
  let b := s.modeBody
  let p := fieldB b 1 1
  if tb p 7 then
    { s with cal := { s.cal with powerup := tb p 0, tempTrigger := tb p 1, persist := tb p 2, dt := fieldB b 2 2 } }
  else s

/-- Start-up Calibration is skipped (R438). -/
def State.skipsStartup (s : State) : Bool := !s.cal.powerup && s.cal.haveRecord && decide (s.fuse 2817 1 = 0)

/-- The Boot ROM selects a slot (R445, R446): firmware runs and the mailbox opens (R437), or BOOT_FAILED. (DESIGN CHOICE, log 56) -/
def State.bootSelect (s : State) : State :=
  let order := s.slotOrder
  match order.find? (fun b => (s.slotFault b).isNone) with
  | none =>
    { s with sys := { s.sys with bootFailed := true, bootReason := (order.filterMap s.slotFault).getLast?.getD 1 } }
  | some b =>
    let back := decide (order.head? ≠ some b)
    let s1 := s.runImage b
    let s2 : State := { s1 with sys := { s1.sys with bootFailed := false, bootReason := 0, mailboxOpen := true, fallback := back } }
    let s3 := s2.loadPolicy.loadConv
    let s4 := if back then s3.raise 6 .m else s3
    s4.due (.enter (if s4.skipsStartup then s4.bootTarget else .startupCal))

/-- The Boot ROM has tried the slots (R445). -/
def execBootComplete (s : State) : Host.Outcome State Fault Refusal :=
  if s.sys.mode ≠ .boot || s.sys.mailboxOpen || s.sys.bootFailed || !s.runs then .next s else .next s.bootSelect

/-- Start-up Calibration ends once its runs have ended (R408). (DEDUCED, log 54) -/
def execStartupCalEnd (s : State) : Host.Outcome State Fault Refusal :=
  if s.sys.mode = .startupCal ∧ s.cal.phase = 3 then .next (s.due (.enter s.bootTarget)) else .next s

/-! ## Flash recovery (R446, R491) -/

/-- A recovery operation is requested: outside BOOT_FAILED the registers ignore it; BUSY, or a sector outside the slots for an
erase or a program, sets ERROR. -/
def State.recovery (s : State) (op : Nat) : State :=
  if !s.sys.bootFailed then s
  else if s.sys.recoveryOp ≠ 0 ∨ (op < 3 ∧ 4096 ≤ s.sys.sector.toNat) then { s with sys := { s.sys with recoveryError := true } }
  else { s with sys := { s.sys with recoveryOp := op } }

def execFlashEraseSector (s : State) : Host.Outcome State Fault Refusal := .next (s.recovery 1)

def execFlashProgramSector (s : State) : Host.Outcome State Fault Refusal := .next (s.recovery 2)

def execFlashReadSector (s : State) : Host.Outcome State Fault Refusal := .next (s.recovery 3)

/-- OP 4: the slot selection runs again (R491). -/
def State.repeatBoot (s : State) : State :=
  if !s.sys.bootFailed then s
  else if s.sys.recoveryOp ≠ 0 then { s with sys := { s.sys with recoveryError := true } }
  else s.bootSelect

def execRepeatBoot (s : State) : Host.Outcome State Fault Refusal := .next s.repeatBoot

/-- The recovery operation ends and BUSY clears. (DESIGN CHOICE, log 58) -/
def execFlashOpDone (ok : Bool) (s : State) : Host.Outcome State Fault Refusal :=
  let op := s.sys.recoveryOp
  let a := 4096 * s.sys.sector.toNat
  let s1 : State := { s with sys := { s.sys with recoveryOp := 0 } }
  if op = 0 then .next s
  else if !ok then .next { s1 with sys := { s1.sys with recoveryError := true } }
  else if op = 1 then .next (s1.flashWrite a (List.replicate 4096 flashDefault))
  else if op = 2 then .next (s1.flashWrite a (Mem.bytes 0 s.sys.recoveryBuf 0 4096))
  else .next { s1 with sys := { s1.sys with recoveryBuf := Mem.store 0 s1.sys.recoveryBuf 0 (s.flashBytes a 4096) } }

/-! ## Flash writes (R67, R378, R423, R440, R450, R451) -/

/-- A two-copy record is written into its older copy (R68). (DESIGN CHOICE, log 56) -/
def State.writeRecord (s : State) (a0 a1 : Nat) (body : List Byte) : State :=
  let n := s.recordNext a0 a1 body.length
  s.flashWrite (if n.1 then a1 else a0) (recordBytes n.2 body)

/-- A slot's control block (R442). -/
def controlBytes (seq len : Nat) : List Byte :=
  let b := bytesLE 4 seq ++ bytesLE 4 len
  b ++ bytesLE 4 (crc32 b) ++ bytesLE 4 0

/-- A control block is erased, and written again. -/
def State.eraseControl (s : State) (b : Bool) : State := s.flashWrite (slotBase b) (List.replicate 4096 flashDefault)

def State.writeControl (s : State) (b : Bool) (seq len : Nat) : State :=
  (s.eraseControl b).flashWrite (slotBase b) (controlBytes seq len)

/-- Staging ends (R450): the image is verified, and its control block is written as the second choice. (DESIGN CHOICE, log 56) -/
def State.stageDone (s : State) (b : Bool) (image : List Byte) (c : CmdRef) : State :=
  let s1 := s.flashWrite (slotBase b + 4096) image
  if (s1.imageFault (image.take 512) image.length (sliceB image 512 (fieldB image 0x10 4))).isSome then s1.answer c stNotPermitted []
  else
    (s1.writeControl b ((s.slotSeq s.sys.slotB + 2 ^ 32 - 1) % 2 ^ 32) image.length).answer c stOk
      [(0, bit b), (4, fieldB image 8 4)]

/-- A write is done, or has failed. After a failed write the copy in force stands (R67, R440); what the older copy then holds is not
given: the model leaves it as it was. (DESIGN CHOICE, log 56) -/
def State.flashDone (s : State) (ok : Bool) (j : FlashJob) : State :=
  let st := if ok then stOk else stInternal
  match j with
  | .descriptor body c => (if ok then s.writeRecord descA0 descA1 body else s).answer c st []
  | .retirement body =>
    if ok then s.writeRecord retireA0 retireA1 body
    else ({ s with faults := { s.faults with recordDue := true } } : State).raise 19 .m
  | .mode boot policy c reply =>
    (if ok then s.writeRecord modeA0 modeA1 (modeFields s.modeBody boot policy) else s).answer c st reply
  | .converter body => if ok then s.writeRecord convA0 convA1 body else { s with cal := { s.cal with convDue := true } }
  | .fabric body => if ok then s.writeRecord fabA0 fabA1 body else { s with cal := { s.cal with fabDue := true } }
  | .stage b image c =>
    let s1 : State := { s with sys := { s.sys with staging := false } }
    if ok then s1.stageDone b image c else s1.answer c stInternal []
  | .control b seq c => (if ok then s.writeControl b seq (s.slotLen b) else s).answer c st []

/-- Staging runs behind all other flash writes (R450). -/
def FlashJob.isStage : FlashJob → Bool
  | .stage _ _ _ => true
  | _ => false

/-- The oldest flash write ends. (DESIGN CHOICE, log 56) -/
def execFlashWriteDone (ok : Bool) (s : State) : Host.Outcome State Fault Refusal :=
  let jobs := s.sys.flashJobs
  match (jobs.filter (fun j => !j.isStage) ++ jobs.filter FlashJob.isStage) with
  | [] => .next s
  | j :: rest => .next (({ s with sys := { s.sys with flashJobs := rest } } : State).flashDone ok j)

/-! ## Fuses (R447 to R449) -/

/-- The bits of an interrupted programming that have been programmed are not given: a free choice among those asked for. (DESIGN CHOICE, log 9) -/
def State.fusePartial (s : State) (want : BitVec 4096) : State :=
  let f := s.fresh
  { f.2 with sys := { f.2.sys with fuseJob := none, fuses := s.sys.fuses ||| (want &&& BitVec.ofNat 4096 (Config.freeNat f.1)) } }

/-- Programming and read-back end (R448): SEALED is set when every bit matches. (DEDUCED, log 57) -/
def execFuseProgramDone (ok : Bool) (s : State) : Host.Outcome State Fault Refusal :=
  match s.sys.fuseJob with
  | none => .next s
  | some (want, c) =>
    if ok then
      .next (({ s with sys := { s.sys with fuseJob := none, fuses := s.sys.fuses ||| want ||| BitVec.ofNat 4096 (2 ^ 2819) } } : State).answer c stOk [])
    else .next ((s.fusePartial want).answer c stInternal [])

/-- FUSE_EN goes low: programming ends (R448). (DEDUCED, log 57) -/
def execFuseEnDeassert (s : State) : Host.Outcome State Fault Refusal :=
  let s1 : State := { s with clk := { s.clk with fuseEn := false } }
  match s.sys.fuseJob with
  | none => .next s1
  | some (want, c) => .next ((s1.fusePartial want).answer c stNotPermitted [])

/-! ## Hot restart (R451 to R454) -/

/-- A restart begins: firmware stops (R452); runs are abandoned (R419), with the rest image at the next tick after a fabric run (R416); a
partner is not READY (R454). (DEDUCED, log 53; DEDUCED, log 55) -/
def State.startRestart (s : State) : State :=
  let s1 : State := { s with sys := { s.sys with restarting := true, restartTick := s.clk.ticks }, mirror := { s.mirror with ready := false } }
  when s.cal.fabric.isSome (fun t => t.due .fabricEnd) s1.abandonRuns

/-- FW_ACTIVATE with NOW restarts once it is the only command that runs (R451). (DEDUCED, log 55) -/
def State.tryActivate (s : State) : State :=
  match s.sys.activate with
  | some _ => if !s.sys.restarting && decide (s.sys.running.length ≤ 1) then s.startRestart else s
  | none => s

/-- The buffer transfers of the commands that a restart meets in execution end (R453). (DEDUCED, log 55) -/
def State.dropBuffers (s : State) : State :=
  let mine (x : Xfer) : Bool := match x.use with | .read _ _ | .write _ _ _ => true | _ => false
  { s with host := { s.host with xfers := s.host.xfers.filter (fun x => !mine x) }, desc := { s.desc with reading := false },
           sys := { s.sys with staging := s.sys.staging && s.sys.flashJobs.any FlashJob.isStage } }

/-- The watchdog expires, or a control core meets a fatal exception (R453). (DEDUCED, log 55) -/
def execWatchdogExpiry (s : State) : Host.Outcome State Fault Refusal :=
  if !s.sys.mailboxOpen || s.sys.restarting then .next s
  else
    let l := s.clk.frame :: s.sys.restarts.filter (fun f => decide (s.clk.frame < f + 5000000))
    let s1 : State := { s with sys := { s.sys with restarts := l, activate := none } }
    let s2 := s1.startRestart.dropBuffers
    .next (if 3 ≤ l.length then
      let s3 := s2.raise 7 .m
      if s3.pair.held then s3.requestSwap else s3.unhealthy
    else s2)

/-- The new firmware is not running 40,000 frames after the start of the restart: the previous image restarts (R451). The command ends with
the restart. (DEDUCED, log 55) -/
def execRestartFallback (s : State) : Host.Outcome State Fault Refusal :=
  if s.sys.restarting && s.sys.activate.isSome && decide (s.sys.restartTick + 40000 ≤ s.clk.ticks) then
    .next (({ s with sys := { s.sys with activate := none } } : State).raise 6 .m)
  else .next s

/-- The events of a restart are delivered in order (R452). (DEDUCED, log 55) -/
def State.deliverLate (s : State) : State :=
  let s1 : State := { s with faults := { s.faults with late := [] } }
  s.faults.late.foldl (fun t e => e.2.foldl (fun u f => u.deliver (fld e.1.toNat 128 16) e.1 f) t) s1

/-- A restart ends: its events are delivered, FW_RESTARTED is raised, commands that it met in execution complete with
INTERNAL (R453), and an activated image is in force (R451). A source lost meanwhile leads to HOLDOVER now (R318, R319). (DEDUCED,
log 55) -/
def State.endRestart (s : State) : State :=
  let s1 : State := { s with sys := { s.sys with restarting := false } }
  let s2 := s1.deliverLate.checkSource
  match s.sys.activate with
  | some (c, b) =>
    let seq := (s.slotSeq s.sys.slotB + 1) % 2 ^ 32
    let s3 : State := { s2.runImage b with sys := { (s2.runImage b).sys with activate := none } }
    ((s3.raise 4 .a).raise 5 .m).flashJob (.control b seq c)
  | none =>
    let s3 := s2.sys.running.foldl (fun t c => t.answer c stInternal []) s2
    s3.raise 4 .a

/-! ## The health report (R388, R423) -/

/-- The health report of a tick whose frame number is a multiple of 50,000, once (R388); firmware publishes it, so not in a
hot restart (R452). Record writes that failed are tried again (R423). (DESIGN CHOICE, log 17; DEDUCED, log 37) -/
def execHealthReport (s : State) : Host.Outcome State Fault Refusal :=
  if s.clk.frame % 50000 ≠ 0 || s.clk.reported || s.sys.restarting || !s.runs || s.sys.mode == .reset || s.sys.mode == .boot then .next s
  else
    let s1 := s.publish
    let s2 := if s1.cal.convDue then s1.writeConv else s1
    .next (if s2.cal.fabDue then s2.writeFab else s2)

/-! ## Lines (R577, R581) -/

/-- GPIO0 to GPIO3 (R577), low in Reset and Boot. -/
def State.gpio (s : State) : Nat :=
  if s.sys.mode == .reset || s.sys.mode == .boot then 0
  else pack [(1, bit s.pair.held), (1, fld (fieldB s.faults.report 0x10 2) 0 1), (1, bit (s.faults.thermalLimit || s.supplyStands)),
    (1, bit (decide (s.clk.cycle < 96) && s.runs))]

/-- SMBALERT_N (R581): low while THERMAL_LIMIT or SUPPLY_FAULT stands. -/
def State.smbalertN (s : State) : Bool := !(s.faults.thermalLimit || s.supplyStands)

end Sys2Proof.Machine
end

