-- ==== Sys2Proof/Machine/Hdma.lean ====
section
/-! DEFINITION. HDMA (R476 to R485), MSI-X and doorbell registers (R469 to R475, R595), resets and power states of the functions
(R463, R486 to R489), bus errors and the reset of a bus master (R546, R552). -/

namespace Sys2Proof.Machine

/-! ## Transfers (R476, R477) -/

/-- CLIENT of a transfer (R476). -/
def Xfer.client (x : Xfer) : Nat :=
  match x.use with
  | .fetch _ => 0 | .completion _ => 1 | .event _ => 2 | .read _ _ => 3 | .write _ _ _ => 4

def Xfer.isEvent (x : Xfer) : Bool := match x.use with | .event _ => true | _ => false

/-- The IOVA of a transfer's next burst: an event record takes the entry that TAIL names when it is issued (R474). -/
def State.burstAddr (s : State) (x : Xfer) : Nat :=
  match x.use with
  | .event fn =>
    let f := s.fn fn
    (f.ringBase + 32 * (f.ringTail % 2 ^ f.ringK)) % 2 ^ 48
  | _ => (x.iova + x.issued) % 2 ^ 48

/-- The bytes of the next burst: at most 256, inside a 256-byte block of IOVA (R476). -/
def State.burstLen (s : State) (x : Xfer) : Nat := min (x.len - x.issued) (256 - s.burstAddr x % 256)

/-- A transfer waits for a walk, in its domain (R479). -/
def State.walkingDom (s : State) (d : Nat) : Bool := s.host.xfers.any (fun x => decide (x.dom = d) && x.walking)

/-- A write that R355 gates by the lease: a completion record, or an event of a gated source (R390), named in its record (R394). -/
def Xfer.gated (x : Xfer) : Bool :=
  match x.use with
  | .completion _ => true
  | .event _ => evGated (fieldB x.data 16 2)
  | _ => false

/-- HDMA may write for a transfer: what is gated issues only under a lease (R355). -/
def State.leaseOpen (s : State) (x : Xfer) : Bool := s.pair.held || !x.gated

/-- A transfer can issue its next burst: bytes are left, no burst of it is in flight, its domain is neither stopped (but for
event records, R481) nor behind a walk; link up, function not in D3hot (R488, R489), and a gated write under a lease (R355).
(DESIGN CHOICE, log 21) -/
def State.canIssue (s : State) (x : Xfer) : Bool :=
  s.leaseOpen x && decide (x.issued < x.len) && decide (x.inFlight = 0) && !x.faulted && !s.walkingDom x.dom && s.host.linkUp && !(s.fn x.dom).d3 &&
    (x.isEvent || !(s.xlate x.dom).stopped)

/-- The ordinary transfer that is next: the domains take turns, each with its oldest (R477). -/
def State.nextOrdinary (s : State) : Option Xfer :=
  let l := s.host.xfers.filter (fun x => !x.urgent && s.canIssue x)
  match (List.range 128).find? (fun k => l.any (fun x => decide (x.dom = (s.host.lastDom + 1 + k) % 128))) with
  | some k => l.find? (fun x => decide (x.dom = (s.host.lastDom + 1 + k) % 128))
  | none => none

/-- The transfer that HDMA serves next. (DEDUCED, log 60) -/
def State.nextXferOf (s : State) : Option Xfer :=
  match s.host.xfers.find? (fun x => x.urgent && s.canIssue x) with
  | some x => some x
  | none => s.nextOrdinary

def State.setXfer (s : State) (x : Xfer) : State :=
  { s with host := { s.host with xfers := s.host.xfers.map (fun y => if y.id = x.id then x else y) } }

def State.dropXfer (s : State) (id : Nat) : State :=
  { s with host := { s.host with xfers := s.host.xfers.filter (fun y => decide (y.id ≠ id)) } }

/-! ## Faults (R480, R481) -/

/-- DATA of a fault record. -/
def faultData (x : Xfer) (reason iova : Nat) : Nat :=
  pack [(48, iova), (8, reason), (4, x.client), (1, bit x.write), (1, bit x.urgent), (1, bit x.preempted), (1, 0)]

/-- A burst faults: its domain stops and XLATE_FAULT is raised, once while it stays stopped. An event record is dropped, with
LOST. -/
def State.xlateFault (s : State) (x : Xfer) (reason iova : Nat) : State :=
  match x.use with
  | .event fn => (s.dropXfer x.id).modFn fn (fun f => { f with ringLost := true })
  | _ =>
    let s1 := s.setXfer { x with walking := false, faulted := true }
    let t := s1.xlate x.dom
    let s2 := s1.setXlate x.dom { t with stopped := true, fault := if t.stopped then t.fault else BitVec.ofNat 64 (faultData x reason iova) }
    if t.stopped then s2 else s2.raise 50 (.d x.dom) { unit := x.dom, data := faultData x reason iova }

/-! ## Bursts (R476, R479) -/

/-- The last byte of a write has been issued. -/
def State.writeDone (s : State) (x : Xfer) : State :=
  let s1 := s.dropXfer x.id
  match x.use with
  | .completion _ => s1.modFn x.dom (fun f => { f with cplMsg := true })
  | .event fn => s1.modFn fn (fun f => { f with ringTail := (f.ringTail + 1) % 2 ^ f.ringK, evMsg := true })
  | .write c status payload => s1.answerAt s1.ns c status 0 x.len payload
  | _ => s1

/-- A burst is issued at a physical address. (DEDUCED, log 60) -/
def State.issue (s : State) (x : Xfer) (addr n : Nat) : State :=
  let x1 : Xfer := { x with issued := x.issued + n, walking := false }
  let s1 := s.tally 0x500 1
  if x.write then
    let s2 := (s1.setXfer x1).emit (.hostWrite x.dom x.client addr (sliceB x.data x.issued n))
    if x.len ≤ x1.issued then s2.writeDone x1 else s2
  else (s1.setXfer { x1 with inFlight := n }).emit (.hostRead x.dom x.client addr n)

/-- The burst of a transfer in a mode: translated through the TLB, or its walk starts, or it faults (R478 to R480). (DESIGN CHOICE, log 9; DEDUCED, log 60) -/
def State.burstIn (s : State) (x : Xfer) (mode : Nat) : State :=
  let a := s.burstAddr x
  let n := s.burstLen x
  let t := s.xlate x.dom
  if mode = 0 then s.xlateFault x 1 a
  else if mode = 2 then s.issue x a n
  else match s.host.tlb.find? (fun e => decide (e.1 = x.dom) && decide (e.2.1 = a / 4096)) with
  | some (_, _, page, r, w) =>
    if x.write && !w then s.xlateFault x 7 a
    else if !x.write && !r then s.xlateFault x 6 a
    else s.issue x (4096 * page + a % 4096) n
  | none =>
    if t.l1Limit ≤ a / 2 ^ 30 then s.xlateFault x 2 a
    else if 4 ≤ (s.host.xfers.filter Xfer.walking).length then s
    else ((s.tally 0x502 1).setXfer { x with walking := true }).emit (.walk x.dom (4096 * t.l1Base + 8 * (a / 2 ^ 30)))

/-- The burst of a transfer. What a MODE outside R478 does is not given: a free choice of OFF and TRANSLATE for each burst. (DEDUCED, log 60) -/
def State.burst (s : State) (x : Xfer) : State :=
  let mode := (s.xlate x.dom).mode
  if mode ≤ 2 then s.burstIn x mode
  else
    let f := s.fresh
    f.2.burstIn x (Config.freeNat f.1 % 2)

/-- HDMA issues its next burst (R477). An urgent burst pre-empts the ordinary transfers that are under way. (DESIGN CHOICE, log 17; DEDUCED, log 60) -/
def execHdmaBurst (s : State) : Host.Outcome State Fault Refusal :=
  match s.nextXferOf with
  | none => .next s
  | some x =>
    if x.urgent then
      let under (y : Xfer) : Bool := !y.urgent && decide (0 < y.issued ∧ y.issued < y.len) && !y.preempted
      let n := (s.host.xfers.filter under).length
      let s1 : State := { s with host := { s.host with xfers := s.host.xfers.map (fun y => if under y then { y with preempted := true } else y) } }
      .next ((s1.tally 0x501 n).burst x)
    else .next (({ s with host := { s.host with lastDom := x.dom } } : State).burst x)

/-- The result of a walk for an access at a: the page with its permissions, or a reason (R478, R480). -/
def walkOf (w : Walk) (a : Nat) : (Nat × Bool × Bool) ⊕ Nat :=
  let index := a / 4096 % 2 ^ 18
  match w with
  | .l1Error => .inr 8
  | .l2Error l1 =>
    if !tb l1.toNat 0 then .inr 3
    else if (fld l1.toNat 1 9 + 1) * 512 ≤ index then .inr 4
    else .inr 8
  | .entries l1 l2 =>
    if !tb l1.toNat 0 then .inr 3
    else if (fld l1.toNat 1 9 + 1) * 512 ≤ index then .inr 4
    else if !tb l2.toNat 0 then .inr 5
    else .inl (fld l2.toNat 12 40, tb l2.toNat 1, tb l2.toNat 2)

/-- The read of the level-2 entry of a walk (R479): made when the level-1 entry is valid and reaches the index. -/
def State.walkLeaf (s : State) (dom : Nat) (w : Walk) (a : Nat) : State :=
  let index := a / 4096 % 2 ^ 18
  let leaf (l1 : BitVec 64) : State :=
    if tb l1.toNat 0 && decide (index < (fld l1.toNat 1 9 + 1) * 512) then s.emit (.walk dom (4096 * fld l1.toNat 12 40 + 8 * index)) else s
  match w with
  | .l1Error => s
  | .l2Error l1 => leaf l1
  | .entries l1 _ => leaf l1

/-- A walk of a domain ends (R479): the leaf is cached, and the waiting burst goes on or faults. (DEDUCED, log 60) -/
def execTranslationWalkDone (dom : BitVec 7) (w : Walk) (s0 : State) : Host.Outcome State Fault Refusal :=
  match s0.host.xfers.find? (fun x => decide (x.dom = dom.toNat) && x.walking) with
  | none => .next s0
  | some x =>
    let a := s0.burstAddr x
    let s := s0.walkLeaf x.dom w a
    match walkOf w a with
    | .inr r => .next (s.xlateFault { x with walking := false } r a)
    | .inl p =>
      let s1 : State := { s with host := { s.host with tlb := ((x.dom, a / 4096, p.1, p.2.1, p.2.2) :: s.host.tlb).take 2048 } }
      let x1 : Xfer := { x with walking := false }
      let s2 := s1.setXfer x1
      -- a burst that may no longer issue waits again
      .next (if s2.canIssue x1 then s2.burst x1 else s2)

/-- Descriptors arrive (R257). Fewer than the burst asked for stand for a failed read (R480). (DEDUCED, log 41) -/
def execDescriptorFetched (dom : BitVec 7) (queue : BitVec 9) (descs : List (BitVec 256)) (s : State) :
    Host.Outcome State Fault Refusal :=
  let d := dom.toNat
  let i := queue.toNat
  match s.host.xfers.find? (fun x => decide (x.dom = d) && decide (x.use = .fetch i) && decide (0 < x.inFlight)) with
  | none => .next s
  | some x =>
    let k := x.inFlight / 32
    if descs.length < k then
      let x1 : Xfer := { x with issued := x.issued - x.inFlight, inFlight := 0 }
      .next ((s.setXfer x1).xlateFault x1 8 ((x1.iova + x1.issued) % 2 ^ 48))
    else
      let q := s.queue d i
      let q1 := { q.setDescs (q.descs ++ descs.take k) with fetching := q.fetching - k }
      let s1 := (s.busAccess 4 true .queueState).setQueue d i q1
      -- the rest of a fetch that has shown an URGENT descriptor is urgent (R275)
      let x1 : Xfer := { x with inFlight := 0, urgent := x.urgent || (descs.take k).any dUrgent }
      .next ((if x.len ≤ x.issued then s1.dropXfer x.id else s1.setXfer x1).mirrorRequestOf d i none)

/-! ## Invalidation and resumption (R483, R484) -/

/-- Cached translations of a domain are removed: all, or those of a page range (R484). -/
def State.invalidate (s : State) (d : Nat) (all : Bool) (page n : Nat) : State :=
  { s with host := { s.host with tlb := s.host.tlb.filter (fun e =>
      !(decide (e.1 = d) && (all || decide (page ≤ e.2.1 ∧ e.2.1 < page + n)))) } }

/-- What the drop of a command's buffer leaves behind (R497). -/
def State.abortUse (s : State) (u : BufUse) : State :=
  match u with
  | .descriptor _ => { s with desc := { s.desc with reading := false } }
  | .stage => { s with sys := { s.sys with staging := false } }
  | _ => s

/-- XLATE_RESUME (R483): STOPPED clears; with ABORT a faulting command buffer transfer is dropped. -/
def State.resume (s : State) (d : Nat) (abort : Bool) : State :=
  let t := s.xlate d
  if !t.stopped then s
  else
    let s1 := s.setXlate d { t with stopped := false }
    let bad := s1.host.xfers.filter (fun x => decide (x.dom = d) && x.faulted)
    bad.foldl (fun u x =>
      match x.use, abort with
      | .read c w, true => ((u.dropXfer x.id).abortUse w).answerAt u.ns c stXlateFault 0 x.issued []
      | .write c _ _, true => (u.dropXfer x.id).answerAt u.ns c stXlateFault 0 x.issued []
      | _, _ => u.setXfer { x with faulted := false }) s1

/-! ## MSI-X, events and the response slot (R469 to R475, R595) -/

/-- A vector becomes unmasked with MSI-X enabled and not function-masked (R595): its pending message is sent. (DEDUCED, log 59) -/
def State.sendPending (s : State) (n v : Nat) : State :=
  let f := s.fn n
  if tb f.vPend.toNat v && !tb f.vMask.toNat v && f.msixEnable && !f.funcMask && !f.d3 && s.host.linkUp then
    (s.setFn n { f with vPend := f.vPend &&& ~~~(BitVec.ofNat 3 (2 ^ v)) }).emit (.msix n (rd f.vAddr v 0) (rd f.vData v 0))
  else s

/-- The host unmasks a vector of a function, with MSI-X enabled and Function Mask clear (R595). (DEDUCED, log 59) -/
def execMsixUnmask (fn : BitVec 7) (vector : Nat) (s : State) : Host.Outcome State Fault Refusal :=
  if 3 ≤ vector then .fault .noSuchUnit
  else if !s.present fn.toNat || (s.fn fn.toNat).d3 then .next s
  else
    let f := s.fn fn.toNat
    .next ((s.setFn fn.toNat { f with vMask := f.vMask &&& ~~~(BitVec.ofNat 3 (2 ^ vector)), msixEnable := true, funcMask := false }).sendPending
      fn.toNat vector)

/-- The response slot is released: the next response that waits is presented (R469, R470). -/
def State.ackRsp (s : State) (n value : Nat) : State :=
  let f := s.fn n
  if !tb value 0 || !f.rspValid then s
  else match f.waiting with
  | [] => s.setFn n { f with rspValid := false }
  | (r, notify) :: rest =>
    let s1 := s.setFn n { f with rsp := r, waiting := rest }
    if notify then s1.msix n 0 else s1

/-- A host access to a function's BAR is decoded: the function is present and not in D3hot (R463, R489). An access is a command
only where the link carried it. (DESIGN CHOICE, log 21) -/
def State.decodes (s : State) (n : Nat) : Bool := s.present n && !(s.fn n).d3

/-- A write of MB_RSP_ACK (R469). -/
def execMbRspAck (fn : BitVec 7) (value : W32) (s : State) : Host.Outcome State Fault Refusal :=
  if s.decodes fn.toNat then .next (s.ackRsp fn.toNat value.toNat) else .next s

/-- A write of EV_STATUSw clears the bits written 1 (R473). -/
def State.clearEv (s : State) (n word value : Nat) : State :=
  s.modFn n (fun f => { f with evStatus := f.evStatus &&& ~~~(BitVec.ofNat 320 (value * 2 ^ (32 * word))) })

def execEvStatusClear (fn : BitVec 7) (word : Nat) (value : W32) (s : State) : Host.Outcome State Fault Refusal :=
  if 10 ≤ word then .fault .noSuchUnit
  else if s.decodes fn.toNat then .next (s.clearEv fn.toNat word value.toNat) else .next s

/-- A write of EV_RING_HEAD (R474). -/
def execEvRingHead (fn : BitVec 7) (value : W32) (s : State) : Host.Outcome State Fault Refusal :=
  if s.decodes fn.toNat then .next (s.modFn fn.toNat (fun f => { f with ringHead := value.toNat % 65536 })) else .next s

/-- The messages at the end of a frame (R267, R475): vector 1 once the event records that may be written are, vector 2 under a lease
(R355). (DEDUCED, log 59) -/
def State.frameMessages (s : State) : State :=
  s.host.fns.foldl (fun (t : State) e =>
    let f := t.fn e.1
    let waits := t.host.xfers.any (fun x => decide (x.use = .event e.1) && t.leaseOpen x)
    let t1 := if f.evMsg && !waits then (t.setFn e.1 { f with evMsg := false }).msix e.1 1 else t
    let g := t1.fn e.1
    if g.cplMsg && t1.pair.held then (t1.setFn e.1 { g with cplMsg := false }).msix e.1 2 else t1) s

/-! ## Resets and power states of functions (R463, R486 to R489) -/

/-- Plate port writes that wait are flushed with their IDs, and other outstanding IDs (R552): they change nothing. -/
def State.busFlush (s : State) (p : PortWrite → Bool) (ids : Nat → Bool) : State :=
  { s with host := { s.host with
    bus := s.host.bus.flush (fun id => ids id || s.host.portWaits.any (fun w => p w && decide (w.id = some id))),
    portWaits := s.host.portWaits.filter (fun w => !p w) } }

/-- What the commands of a domain whose buffer transfers go were reading is free again (R497). -/
def State.freeBuffers (s : State) (n : Nat) : State :=
  (s.host.xfers.filter (fun y => decide (y.dom = n))).foldl (fun t y => match y.use with | .read _ u => t.abortUse u | _ => t) s

/-- Reset of a function (R486): registers, MSI-X table and events take their reset values; the responses of commands that run
are discarded; queues, completion ring configuration and transfers of its domain go. (DEDUCED, log 59) -/
def State.resetFn (s : State) (n : Nat) : State :=
  let s1 := s.setFn n { Fn.init with d3 := (s.fn n).d3, aerUr := (s.fn n).aerUr }
  let s2 := (s1.sched.queues.filter (fun e => decide (e.1 / 512 = n))).foldl (fun t e => t.resetQueue n (e.1 % 512)) s1
  let x := s2.domain n
  let s3 := (s2.busFlush (fun w => s2.host.xfers.any (fun y => decide (y.dom = n ∧ w.job = some y.id))) (fun _ => false)).setDomain n { x with cBase := 0, cK := 0, cWrite := 0, cPhase := true, cHead := 0, cReserved := 0 }
  let s4 := s3.freeBuffers n
  let drop (r : Req) : Req := if r.dom = n then { r with dropped := true } else r
  let mine (c : CmdRef) : Bool := match c.src with | .fn m => decide (m.toNat = n) | .mgmt _ _ _ => false
  { s4 with
    sys := { s4.sys with running := s4.sys.running.filter (fun c => !mine c), held := s4.sys.held.filter (fun e => decide (e.2.src ≠ .fn (BitVec.ofNat 7 n))) },
    sched := { s4.sched with returned := s4.sched.returned.map drop, cpls := s4.sched.cpls.filter (fun c => decide (c.dom ≠ n)),
                             batches := s4.sched.batches.map (fun (b : Batch) => { b with reqs := b.reqs.map drop }) },
    host := { s4.host with xfers := s4.host.xfers.filter (fun y => decide (y.dom ≠ n)),
                           xlate := wr s4.host.xlate n { s4.xlate n with stopped := false } } }

/-- FLR of a VF (R486). (DEDUCED, log 59) -/
def execFlrVf (fn : BitVec 7) (s : State) : Host.Outcome State Fault Refusal :=
  if fn = 0 ∨ !s.present fn.toNat then .next s else .next (s.resetFn fn.toNat)

/-- Every VF is reset and VF Enable is clear (R463). -/
def State.dropVfs (s : State) : State :=
  let s1 := ((s.host.fns.map Prod.fst ++ s.sched.queues.map (fun (e : Nat × Queue) => e.1 / 512) ++ s.sched.domains.map Prod.fst ++
    s.host.xfers.map Xfer.dom).dedup.filter
    (fun n => decide (1 ≤ n))).foldl State.resetFn s
  { s1 with host := { s1.host with vfEnable := false } }

/-- FLR of the PF (R487): also VF Enable, every domain's translation state, and the registers of the PF's blocks that FLR
resets (R556, R558). (DEDUCED, log 59) -/
def State.resetPf (s : State) : State :=
  let s1 := s.dropVfs.resetFn 0
  { s1 with
    host := { s1.host with xlate := [], tlb := [], shadow := HostIf.init.shadow, committed := none, active := HostIf.init.active, rrLast := [],
                           perf := [] },
    clk := { s1.clk with pcCycle := 0, pcHi := 0 } }

def execFlrPf (s : State) : Host.Outcome State Fault Refusal := .next s.resetPf

/-- Conventional Reset (R488): as FLR of the PF, configuration space too, and the link goes down. (DEDUCED, log 59) -/
def execConventionalReset (s : State) : Host.Outcome State Fault Refusal :=
  let s1 := s.resetPf
  .next { s1 with host := { s1.host with linkUp := false, fns := s1.host.fns.map (fun e => (e.1, { e.2 with d3 := false, aerUr := false })) } }

/-- The PCIe link trains (R488, R437). -/
def execPcieLinkTrained (s : State) : Host.Outcome State Fault Refusal :=
  if s.clk.rstN && s.clk.coreUp then .next { s with host := { s.host with linkUp := true } } else .next s

/-- VF Enable is set or cleared (R463). -/
def execVfEnable (on : Bool) (s : State) : Host.Outcome State Fault Refusal :=
  if on then .next { s with host := { s.host with vfEnable := true } } else .next s.dropVfs

/-- A function changes between D0 and D3hot (R489); on return to D0 it keeps its registers, and its pending messages go. (DEDUCED, log 59) -/
def execPowerStateChange (fn : BitVec 7) (d3 : Bool) (s : State) : Host.Outcome State Fault Refusal :=
  if !s.present fn.toNat then .next s
  else
    let s1 := s.modFn fn.toNat (fun f => { f with d3 := d3 })
    .next (if d3 then s1 else (List.range 3).foldl (fun t v => t.sendPending fn.toNat v) s1)

/-! ## The bus matrix (R544 to R552) -/

/-- An access that R545 does not permit, or that decodes to no target (R546). -/
def execBusErrorAccess (master : Nat) (write : Bool) (target : BusTarget) (s : State) : Host.Outcome State Fault Refusal :=
  if 10 ≤ master then .fault .noSuchUnit
  else if busPermits master write target then .next s
  else
    let s1 := s.emit (.busError master)
    .next (if master = 9 then s1 else s1.raiseCore 7 .m)

/-- A bus master is reset in mid-burst (R552): its outstanding transactions are flushed. Read bursts of HDMA that are in flight are
issued again if their transfer stands; its plate port writes have left it. Transactions of other masters are not affected.
(DESIGN CHOICE, log 3; DESIGN CHOICE, log 58) -/
def execMasterResetMidBurst (master : Nat) (s : State) : Host.Outcome State Fault Refusal :=
  if 10 ≤ master then .fault .noSuchUnit
  else if master = 4 then
    .next { s with host := { s.host with xfers := s.host.xfers.map (fun x => { x with issued := x.issued - x.inFlight, inFlight := 0 }) } }
  else .next (s.busFlush (fun w => decide (portMaster w.requester = master)) (fun id => decide (id / 16 = master)))

/-! ## PA and PC registers (R556 to R561) -/

/-- COMMIT latches the four shadows (R557). -/
def State.paCommit (s : State) (value : Nat) : State :=
  if tb value 0 then { s with host := { s.host with committed := some s.host.shadow } } else s

def execPaCommit (fn : BitVec 7) (value : W32) (s : State) : Host.Outcome State Fault Refusal :=
  if fn = 0 ∧ s.decodes 0 then .next (s.paCommit value.toNat) else .next s

/-- A read of PC_CYCLE_LO latches PC_CYCLE_HI (R558); a VF reads 0 (R465). -/
def State.readPcCycle (s : State) : State :=
  ({ s with clk := { s.clk with pcHi := BitVec.ofNat 32 (s.clk.pcCycle.toNat / 2 ^ 32) } } : State).returns (s.clk.pcCycle.toNat % 2 ^ 32)

def execPcCycleLoRead (fn : BitVec 7) (s : State) : Host.Outcome State Fault Refusal :=
  if !s.decodes fn.toNat then .next s
  else if fn = 0 then .next s.readPcCycle
  else .next (s.returns 0)

/-- A read of a counter's low word latches its high word (R559). -/
def State.readCount (s : State) (n : Nat) : State :=
  let c := rd s.host.perf n .init
  ({ s with host := { s.host with perf := wr s.host.perf n { c with hi := c.count / 2 ^ 32 } } } : State).returns (c.count % 2 ^ 32)

def execCountLoRead (fn : BitVec 7) (n : BitVec 3) (s : State) : Host.Outcome State Fault Refusal :=
  if !s.decodes fn.toNat then .next s
  else if fn = 0 then .next (s.readCount n.toNat)
  else .next (s.returns 0)

end Sys2Proof.Machine
end

