-- ==== Sys2Proof/Machine/Operands.lean ====
section
/-! DEFINITION. The operand form of a mailbox command: the 64 bytes of MB_CMD (R467), its payload fields, the taking of a
command (R470), the order of its checks (R492 to R499), and its host buffer. -/

/-! ## Payload fields (R467) -/

namespace Sys2Proof

/-- The payload field of n bytes at an offset from byte 0x18 of the slot. -/
def MbCmd.f (m : MbCmd) (off n : Nat) : Nat := Machine.fld m.payload.toNat (8 * off) (8 * n)

/-- BUF_LENGTH and BUF_ADDR. -/
def MbCmd.buf (m : MbCmd) : Nat := m.bufLength.toNat
def MbCmd.iova (m : MbCmd) : Nat := m.bufAddr.toNat

/-- LENGTH equals n (R492). -/
def MbCmd.len (m : MbCmd) (n : Nat) : Bool := decide (m.length.toNat = n)

/-- A command without a host buffer, or with one of n bytes. -/
def MbCmd.noBuf (m : MbCmd) : Bool := decide (m.buf = 0)
/-- DESIGN CHOICE, log 26. -/
def MbCmd.bufIs (m : MbCmd) (n : Nat) : Bool := decide (m.buf = n)

/-- The domain that the command acts as (R362), and whether it is domain 0. -/
def MbCmd.dom (m : MbCmd) : Nat := Machine.srcDom m.src
def MbCmd.pf (m : MbCmd) : Bool := decide (m.dom = 0)

end Sys2Proof

namespace Sys2Proof.Machine

/-! ## The slot (R467) -/

/-- The 64 bytes of MB_CMD. -/
def slotWord (op : Nat) (m : MbCmd) : BitVec 512 :=
  BitVec.ofNat 512 (pack [(16, op), (8, m.length.toNat), (8, bit m.notify), (32, m.token.toNat), (64, m.bufAddr.toNat),
    (32, m.bufLength.toNat), (32, 0), (320, m.payload.toNat)])

/-- OPCODE of a slot. -/
def slotOp (w : BitVec 512) : Nat := fld w.toNat 0 16

/-- The command in a slot. -/
def slotCmd (src : Src) (w : BitVec 512) : MbCmd :=
  { src := src, length := BitVec.ofNat 8 (fld w.toNat 16 8), notify := tb w.toNat 24, token := BitVec.ofNat 32 (fld w.toNat 32 32),
    bufAddr := BitVec.ofNat 48 (fld w.toNat 64 48), bufLength := BitVec.ofNat 25 (fld w.toNat 128 25),
    payload := BitVec.ofNat 320 (fld w.toNat 192 320) }

/-! ## Taking a command (R470, R471, R453) -/

/-- What the module keeps of a command. -/
def refOf (op : Nat) (m : MbCmd) : CmdRef := { src := m.src, opcode := op, token := m.token, notify := m.notify }

/-- OUTSTANDING (R469): commands of a function that are taken and not yet answered. -/
def State.outstandingOf (s : State) (n : Nat) : Nat :=
  (s.sys.running.filter (fun c => match c.src with | .fn k => decide (k.toNat = n) | .mgmt _ _ _ => false)).length

/-- Commands are taken: the firmware runs with its mailbox open, or the Boot ROM answers (R437, R446); not in a hot restart. (DESIGN CHOICE, log 24) -/
def State.takes (s : State) : Bool :=
  s.clk.rstN && s.clk.coreUp && s.clk.interconnect && (s.sys.mailboxOpen || s.sys.bootFailed) && !s.sys.restarting

/-- A command of this source is taken now: at most 8 of one function run (R470). (DESIGN CHOICE, log 24) -/
def State.mayTake (s : State) (src : Src) : Bool :=
  s.takes && match src with | .fn n => decide (s.outstandingOf n.toNat < 8) | .mgmt _ _ _ => true

/-- The source reaches the module: a function that decodes its BAR, or a management port. (DESIGN CHOICE, log 24) -/
def State.reached (s : State) (src : Src) : Bool := match src with | .fn n => s.decodes n.toNat | .mgmt _ _ _ => true

/-- A command that cannot be taken stays in its slot, or is held for the end of a hot restart (R453, R470). (DESIGN CHOICE, log 24) -/
def State.keepCmd (s : State) (op : Nat) (m : MbCmd) : State :=
  match m.src with
  | .fn n => s.modFn n.toNat (fun f => { f with cmd := slotWord op m, cmdFull := true })
  | .mgmt _ _ _ => if s.sys.restarting then { s with sys := { s.sys with held := s.sys.held ++ [(op, m)] } } else s

/-- A command is taken: CMD_FULL clears, LAST_SEQ takes its SEQ, and it runs. (DESIGN CHOICE, log 24) -/
def State.take (s : State) (c : CmdRef) : State :=
  let s1 : State := { s with sys := { s.sys with running := s.sys.running ++ [c] } }
  match c.src with
  | .fn n => s1.modFn n.toNat (fun f => { f with cmdFull := false, lastSeq := f.seq })
  | .mgmt _ _ _ => s1

/-! ## The checks (R493) -/

/-- The first four steps of R493. -/
structure Rules where
  sel : Bool
  len : Bool
  perm : Bool
  mode : Bool
  deriving DecidableEq, Repr

/-- The first step that fails gives the status, and nothing of the command is performed. (DESIGN CHOICE, log 24) -/
def State.judged (s : State) (c : CmdRef) (r : Rules) (act : State → State) : State :=
  if !r.sel then s.answer c stBadOpcode []
  else if !r.len then s.answer c stBadLength []
  else if !r.perm then s.answer c stNotPermitted []
  else if !r.mode then s.answer c stWrongMode []
  else act s

/-- A mailbox command of opcode op: taken, judged, performed. While BOOT_FAILED every command ends with INTERNAL (R446). (DESIGN CHOICE, log 24) -/
def State.command (s : State) (op : Nat) (m : MbCmd) (rules : State → Rules) (act : CmdRef → State → State) : State :=
  if !s.reached m.src then s
  else if !s.mayTake m.src then s.keepCmd op m
  else
    let c := refOf op m
    let s1 := s.take c
    if s1.sys.bootFailed then s1.answer c stInternal [] else s1.judged c (rules s1) (act c)

/-- The Boot-to-Standby interval (R439). -/
def State.bootInterval (s : State) : Bool := s.sys.mailboxOpen && (s.sys.mode == .boot || s.sys.mode == .startupCal)

/-- Modes 3 to 11, and those without Referee (R499). -/
def anyMode : List Mode := [.standby, .active, .hold, .dark, .characterize, .service, .isolated, .referee, .legacy]
def anyNoRf : List Mode := [.standby, .active, .hold, .dark, .characterize, .service, .isolated, .legacy]

/-- The mode meets the Modes column (R499), the interval (R439) and Legacy (R455, R456, R458). (DESIGN CHOICE, log 26) -/
def State.modeOk (s : State) (src : Src) (modes : List Mode) (interval legacy : Bool) : Bool :=
  if s.bootInterval then interval
  else if s.legacyGeo then legacy && decide (srcDom src = 0) && modes.contains s.sys.mode
  else modes.contains s.sys.mode

/-- A row of R499. A management port sends only remote commands without a buffer (R498). (DESIGN CHOICE, log 26) -/
def State.row (s : State) (m : MbCmd) (sel len perm remote : Bool) (modes : List Mode) (interval legacy : Bool) : Rules :=
  { sel := sel, len := len, perm := perm && (!srcRemote m.src || (remote && m.noBuf)),
    mode := s.modeOk m.src modes interval legacy }

/-- A plate lies inside a domain's window (R515); in Legacy only plates 0 to 255 are accepted (R455). -/
def State.inWindow (s : State) (d p : Nat) : Bool :=
  let x := s.domain d
  decide (x.first ≤ p ∧ p < x.first + x.count) && (!s.legacyGeo || decide (p < 256))

/-! ## Buffers (R470, R476, R497) -/

/-- A command writes its buffer and completes with the buffer's last byte. -/
def State.bufferOut (s : State) (c : CmdRef) (iova : Nat) (data : List Byte) (payload : List (Nat × Nat)) : State :=
  if data.isEmpty then s.answer c stOk payload
  else s.newXfer (srcDom c.src) (.write c stOk payload) false true iova data.length data

/-- A command reads its buffer. -/
def State.bufferIn (s : State) (c : CmdRef) (m : MbCmd) (u : BufUse) (urgent : Bool) : State :=
  s.newXfer (srcDom c.src) (.read c u) urgent false m.iova m.buf []

/-- A change is due at the next tick, and the command is answered at once. (DEDUCED, log 27) -/
def State.dueNow (s : State) (c : CmdRef) (o : TickOp) (payload : List (Nat × Nat)) : State := (s.due o).answer c stOk payload

/-- A change is due at the next tick, and the command completes at that tick. (DEDUCED, log 27) -/
def State.dueThen (s : State) (c : CmdRef) (o : TickOp) : State := (s.due o).answerDue c stOk []

end Sys2Proof.Machine
end

