-- ==== Sys2Proof/Machine/MailPlates.lean ====
section
/-! DEFINITION. Mailbox commands of module, mode and descriptor, and of plates, impressions and proof (R500 to R509). -/

namespace Sys2Proof.Machine

/-! ## Module, mode and descriptor (R500 to R504) -/

/-- The response of GET_INFO (R500). (DESIGN CHOICE, log 28) -/
def State.info (s : State) (dom : Nat) : List (Nat × Nat) :=
  let legacy := s.legacyGeo
  [(0x00, if legacy then 0x2304 else 0x5124), (0x02, if legacy then 0x5124 else 0), (0x04, 0xA0),
   (0x05, bit s.sys.slotB + 2 * bit s.sys.fallback), (0x06, s.sys.mirrorLevel), (0x08, s.sys.version.toNat),
   (0x0C, s.sys.configLevel), (0x0E, if s.desc.loaded then s.geo.code else 0xFF), (0x0F, s.sys.mode.num),
   (0x10, s.dsc 0x08 4), (0x14, s.dsc 0x0C 4), (0x18, s.fuse 3072 64),
   (0x20, s.fuse 2816 4 + 16 * bit (s.fuse 2432 384 != 0)), (0x22, dom)]

def State.getInfo (m : MbCmd) (s : State) : State :=
  s.command 0x0001 m (fun t => t.row m true (m.len 0 && m.noBuf) true true anyMode true true)
    (fun c t => t.answer c stOk (t.info m.dom))

/-- GET_INFO. -/
def execGetInfo (m : MbCmd) (s : State) : Host.Outcome State Fault Refusal := .next (s.getInfo m)

/-- GET_HEALTH (R501): the last report, 40 bytes of it in the response. -/
def State.getHealth (m : MbCmd) (s : State) : State :=
  s.command 0x0002 m (fun t => t.row m true (m.len 0 && (m.noBuf || m.bufIs 64)) true true anyMode true true)
    (fun c t => t.bufferOut c m.iova (if m.noBuf then [] else t.faults.report) [(0, fieldB t.faults.report 0 40)])

def execGetHealth (m : MbCmd) (s : State) : Host.Outcome State Fault Refusal := .next (s.getHealth m)

/-- SET_MODE (R502, R428). A number that names no mode cannot be named from any. (DESIGN CHOICE, log 26) -/
def State.setModeCmd (m : MbCmd) (s : State) : State :=
  s.command 0x0003 m (fun t => t.row m true (m.len 8 && m.noBuf) m.pf true anyMode false true)
    (fun c t => match Mode.ofNum (m.f 0 1) with
      | some n => t.setMode c n (tb (m.f 1 1) 0) (tb (m.f 1 1) 1)
      | none => t.answer c stWrongMode t.modeReply)

def execSetMode (m : MbCmd) (s : State) : Host.Outcome State Fault Refusal := .next (s.setModeCmd m)

/-- LOAD_DESCRIPTOR (R62, R63, R67, R503). -/
def State.loadDescriptor (m : MbCmd) (s : State) : State :=
  s.command 0x0010 m
    (fun t => t.row m true (m.len 4 && m.bufIs 16576) m.pf false [.standby, .service, .isolated] true false)
    (fun c t =>
      if t.desc.reading then t.answer c stBusy []
      else ({ t with desc := { t.desc with reading := true } } : State).bufferIn c m (.descriptor (tb (m.f 0 1) 0)) false)

def execLoadDescriptor (m : MbCmd) (s : State) : Host.Outcome State Fault Refusal := .next (s.loadDescriptor m)

/-- READ_DESCRIPTOR (R504). -/
def State.readDescriptor (m : MbCmd) (s : State) : State :=
  s.command 0x0011 m (fun t => t.row m true (m.len 0 && m.bufIs 16576) true false anyMode true true)
    (fun c t => if t.desc.loaded then t.bufferOut c m.iova t.desc.bytes [(0, 1)] else t.answer c stOk [(0, 0)])

def execReadDescriptor (m : MbCmd) (s : State) : Host.Outcome State Fault Refusal := .next (s.readDescriptor m)

/-! ## Plates (R505 to R507) -/

/-- PLATE, OFFSET and BUF_LENGTH lie inside one slot. -/
def plateSpan (m : MbCmd) : Bool :=
  decide (m.f 0 2 < 512) && decide (1 ≤ m.buf ∧ m.buf ≤ 4096) && decide (m.f 2 2 + m.buf ≤ 4096)

/-- PLATE_WRITE (R505): each burst is written as it arrives. -/
def State.plateWrite (m : MbCmd) (s : State) : State :=
  s.command 0x0020 m
    (fun t => t.row m true (m.len 8 && plateSpan m) (t.inWindow m.dom (m.f 0 2) && decide (m.f 0 2 < 480)) false anyNoRf false true)
    (fun c t => t.bufferIn c m (.plate (m.f 0 2) (m.f 2 2)) (tb (m.f 4 1) 0))

def execPlateWrite (m : MbCmd) (s : State) : Host.Outcome State Fault Refusal := .next (s.plateWrite m)

/-- PLATE_READ (R505): the copy starts at the next tick. Domain 0 may read the request ring. -/
def State.plateRead (m : MbCmd) (s : State) : State :=
  s.command 0x0021 m
    (fun t => t.row m true (m.len 8 && plateSpan m)
      (t.inWindow m.dom (m.f 0 2) || (m.pf && decide (480 ≤ m.f 0 2) && !t.legacyGeo)) false anyNoRf false true)
    (fun c t => t.due (.plateCopy c m.iova (m.f 0 2) (m.f 2 2) m.buf))

def execPlateRead (m : MbCmd) (s : State) : Host.Outcome State Fault Refusal := .next (s.plateRead m)

/-- A plate and a base that a route can name. -/
def routeNames (m : MbCmd) : Bool :=
  decide (m.f 0 2 < 512) && (decide (m.f 2 2 < 512) || decide (m.f 2 2 = 0xFFFE) || decide (m.f 2 2 = 0xFFFF))

/-- The destination lies in the window and below 480, a base slot in the window (R506). -/
def State.routeWindow (s : State) (m : MbCmd) : Bool :=
  s.inWindow m.dom (m.f 0 2) && decide (m.f 0 2 < 480) && (decide (512 ≤ m.f 2 2) || s.inWindow m.dom (m.f 2 2))

/-- A job of a command arrives at the engine (R204). (DEDUCED, log 38) -/
def State.submit (s : State) (c : CmdRef) (dest base : Nat) (delta : Option (List Change)) : State :=
  if !s.desc.loaded then s.answer c stWrongMode []
  else if 9 ≤ s.burin.queue.length + bit s.burin.running.isSome then s.answer c stBusy []
  else
    { s with burin := { s.burin with queue := s.burin.queue ++ [{ dest := dest, base := base, delta := delta, owner := .cmd c }] } }

/-- PLATE_ROUTE (R506). -/
def State.plateRoute (m : MbCmd) (s : State) : State :=
  s.command 0x0022 m
    (fun t => t.row m true (m.len 4 && m.noBuf && routeNames m) (t.routeWindow m) false anyNoRf false true)
    (fun c t => t.submit c (m.f 0 2) (m.f 2 2) none)

def execPlateRoute (m : MbCmd) (s : State) : Host.Outcome State Fault Refusal := .next (s.plateRoute m)

/-- A change (R507) from its 8 bytes. -/
def changeOf (x : Nat) : Change :=
  { ingress := fld x 0 10, egress := fld x 16 10, action := fld x 10 2, target := fld x 32 16 }

/-- The inline changes of a command. -/
def inlineChanges (m : MbCmd) (n : Nat) : List Change := (List.range n).map (fun k => changeOf (m.f (8 + 8 * k) 8))

/-- Every ACTION is defined. -/
def actionsOk (l : List Change) : Bool := l.all (fun c => decide (c.action ≠ 3))

/-- Every port is a port (R507): an egress counts in CONNECT and REPLACE. -/
def portsOk (l : List Change) : Bool := l.all (fun c => decide (c.ingress < 512) && (decide (c.action = 1) || decide (c.egress < 512)))

/-- Every port lies inside the mask of a domain other than 0. -/
def State.changesMask (s : State) (d : Nat) (l : List Change) : Bool :=
  decide (d = 0) || l.all (fun c => s.inMask d c.ingress && (decide (c.action = 1) || s.inMask d c.egress))

/-- The checks of a list of changes, before the job starts (R507). -/
def State.judgeChanges (s : State) (c : CmdRef) (l : List Change) (act : State → State) : State :=
  if !actionsOk l then s.answer c stBadOpcode []
  else if !portsOk l then s.answer c stBadLength []
  else if !s.changesMask (srcDom c.src) l then s.answer c stNotPermitted []
  else act s

/-- PLATE_ROUTE_DELTA (R507). (DESIGN CHOICE, log 26) -/
def State.plateRouteDelta (m : MbCmd) (s : State) : State :=
  let n := m.f 4 2
  let inline := m.noBuf
  let count := decide (1 ≤ n) && (if inline then decide (n ≤ 4) else decide (n ≤ 512))
  let l := if inline && count then inlineChanges m n else []
  s.command 0x0023 m
    (fun t => t.row m (actionsOk l)
      (count && (if inline then m.len (8 + 8 * n) else m.len 8 && m.bufIs (8 * n)) && routeNames m && portsOk l)
      (t.routeWindow m && t.changesMask m.dom l) false anyNoRf false false)
    (fun c t =>
      if inline then t.submit c (m.f 0 2) (m.f 2 2) (some l)
      else if !t.desc.loaded then t.answer c stWrongMode []
      else t.bufferIn c m (.changes (m.f 0 2) (m.f 2 2)) false)

def execPlateRouteDelta (m : MbCmd) (s : State) : Host.Outcome State Fault Refusal := .next (s.plateRouteDelta m)

/-! ## Impressions and proof (R508, R509) -/

/-- An IMPRESS is accepted (R224 to R229): ASAP and ON_SYNC read their snapshot now, AT_TIME when it is due next. A STRICT
time whose tick can no longer be taken ends with LATE. -/
def State.armImpress (s : State) (c : CmdRef) (plate trigger time : Nat) (strict : Bool) : State :=
  let next := s.clk.frame + 1 + bit s.clk.committed
  let tr : Trigger := if trigger = 0 then .asap else if trigger = 1 then .atTime else .onSync
  let a : Armed :=
    { source := 2, trigger := tr, plate := plate,
      due := if trigger = 0 then some s.ns else if trigger = 1 then some time else none, order := 0,
      strict := strict && decide (trigger = 1), late := false, cmd := some c, batch := none, frame := none, read := none, snap := none }
  if 4 ≤ s.sharedTaken ∨ (trigger = 2 ∧ s.imp.armed.any (fun x => decide (x.trigger = .onSync))) then s.answer c stBusy []
  else if a.strict ∧ a.dueFrame < next then s.answer c stLate []
  else if trigger = 1 ∧ s.clk.frame + 1 < a.dueFrame then s.addArmed a
  else
    let r := s.startRead a
    r.2.addArmed r.1

/-- IMPRESS (R508). (DESIGN CHOICE, log 26) -/
def State.impress (m : MbCmd) (s : State) : State :=
  s.command 0x0024 m
    (fun t => t.row m (decide (m.f 2 1 ≤ 2)) (m.len 16 && m.noBuf && decide (m.f 0 2 < 512))
      (t.inWindow m.dom (m.f 0 2) && (m.pf || (t.domain m.dom).impressEn)) true [.standby, .active, .legacy] false true)
    (fun c t =>
      if !t.pair.held then t.answer c stNotLeaseHolder []
      else t.armImpress c (m.f 0 2) (m.f 2 1) (m.f 8 8) (tb (m.f 3 1) 0))

def execImpress (m : MbCmd) (s : State) : Host.Outcome State Fault Refusal := .next (s.impress m)

/-- PROOF_READ (R509). -/
def State.proofRead (m : MbCmd) (s : State) : State :=
  s.command 0x0025 m (fun t => t.row m true (m.len 4 && m.bufIs 576) true false anyNoRf false true)
    (fun c t => match t.proofRec (m.f 0 4) with
      | some r =>
        t.bufferOut c m.iova (r.bytes (fun i => m.pf || t.inMask m.dom i)) [(0, 1 + 2 * bit (t.recFinal r))]
      | none => t.answer c stOk [(0, 0)])

def execProofRead (m : MbCmd) (s : State) : Host.Outcome State Fault Refusal := .next (s.proofRead m)

end Sys2Proof.Machine
end

