-- ==== Sys2Proof/Machine/MailSched.lean ====
section
/-! DEFINITION. Mailbox commands of the schedule, domains and queues (R510 to R517). -/

namespace Sys2Proof.Machine

/-- A value that a command field sets; 0 keeps the value (R512). -/
def orKeep (new old : Nat) : Nat := if new = 0 then old else new

/-- BATCH_MAX, BUDGET and PROOF_DEFER_MAX from the next tick on (R512). -/
def State.gatesNext (s : State) : Nat × Nat × Nat :=
  s.atTick.foldl (fun g o => match o with
    | .gate x y z => (orKeep x g.1, orKeep y g.2.1, orKeep z g.2.2)
    | _ => g) (s.sched.batchMax, s.sched.budget, s.sched.deferMax)

/-! ## Slot table (R510, R511) -/

/-- SLOT_TABLE_WRITE (R289, R510): LIVE is judged when the command is taken. (DESIGN CHOICE, log 26; DEDUCED, log 27; DEDUCED, log 42) -/
def State.slotWrite (m : MbCmd) (s : State) : State :=
  let n := m.f 4 2
  let first := m.f 2 2
  let bank := decide (m.f 0 1 = 1)
  let inline := m.noBuf
  s.command 0x0030 m
    (fun t => t.row m true
      (decide (m.f 0 1 ≤ 1) && decide (1 ≤ n) && decide (first + n ≤ 512) &&
        (if inline then decide (n ≤ 3) && m.len (8 + 8 * n) else m.len 8 && m.bufIs (8 * n)))
      m.pf false anyNoRf false true)
    (fun c t =>
      if bank = t.sched.active ∧ !tb (m.f 1 1) 0 then t.answer c stNotPermitted []
      else if inline then t.dueNow c (.slots bank first ((List.range n).map (fun k => m.f (8 + 8 * k) 8))) []
      else t.bufferIn c m (.slots bank first) false)

def execSlotTableWrite (m : MbCmd) (s : State) : Host.Outcome State Fault Refusal := .next (s.slotWrite m)

/-- SLOT_TABLE_SWAP (R290, R291, R511). (DEDUCED, log 42) -/
def State.slotSwapCmd (m : MbCmd) (s : State) : State :=
  s.command 0x0031 m
    (fun t => t.row m (decide (m.f 0 1 ≤ 2)) (m.len 16 && m.noBuf && (decide (m.f 0 1 ≠ 1) || decide (m.f 2 1 ≤ 1))) m.pf true anyNoRf
      false true)
    (fun c t => t.slotSwap c (m.f 0 1) (tb (m.f 1 1) 0) (tb (m.f 1 1) 1) (decide (m.f 2 1 = 1)) (m.f 8 8))

def execSlotTableSwap (m : MbCmd) (s : State) : Host.Outcome State Fault Refusal := .next (s.slotSwapCmd m)

/-- GATE_CONFIG (R512) answers at once with the values of the next tick. (DEDUCED, log 27) -/
def State.gateConfig (m : MbCmd) (s : State) : State :=
  s.command 0x0032 m (fun t => t.row m true (m.len 8 && m.noBuf) m.pf true anyNoRf false true)
    (fun c t =>
      let t1 := t.due (.gate (m.f 0 1) (m.f 1 1) (m.f 2 2))
      t1.answer c stOk [(0, t1.gatesNext.1), (1, t1.gatesNext.2.1), (2, t1.gatesNext.2.2)])

def execGateConfig (m : MbCmd) (s : State) : Host.Outcome State Fault Refusal := .next (s.gateConfig m)

/-! ## Domains (R513) -/

/-- The settings and balances of a domain (R513, OP 2). (DEDUCED, log 61) -/
def State.policyReply (s : State) (d : Nat) : List (Nat × Nat) :=
  let x := s.domain d
  [(0, d), (1, 2), (2, bit x.enable + 2 * bit x.police + 4 * bit x.impressEn), (3, x.weight), (4, x.cir),
   (8, x.pir + x.cbs * 2 ^ 24 + x.pbs * 2 ^ 40), (0x10, x.first), (0x12, x.count), (0x14, unsigned 32 x.balC),
   (0x18, unsigned 32 x.balP), (0x1C, x.tag)]

/-- The completion ring of a domain (R513, OP 3). -/
def State.ringReply (s : State) (d : Nat) : List (Nat × Nat) := [(0, d), (1, 3), (8, (s.domain d).cBase), (0x10, (s.domain d).cK)]

/-- DOMAIN_CONFIG (R513). (DESIGN CHOICE, log 26; DEDUCED, log 27) -/
def State.domainConfig (m : MbCmd) (s : State) : State :=
  let d := m.f 0 1
  let op := m.f 1 1
  s.command 0x0040 m
    (fun t => t.row m (decide (op ≤ 3))
      (m.len 24 && m.noBuf && decide (d < 128) && (decide (op ≠ 0) || decide (m.f 0x10 2 + m.f 0x12 2 ≤ 480)))
      (if op % 2 = 0 then m.pf else decide (d = m.dom)) false anyNoRf false false)
    (fun c t =>
      if op = 0 then t.dueNow c (.domain d m.payload.toNat) []
      else if op = 1 then
        if (t.domain d).cReserved ≠ 0 ∨ (t.domain d).cHead ≠ (t.domain d).cWrite then t.answer c stBusy []
        else t.dueNow c (.ring d (fld (m.f 8 8) 12 36 * 4096) (m.f 0x10 2 % 32)) []
      else t.answer c stOk (if op = 2 then t.policyReply d else t.ringReply d))

def execDomainConfig (m : MbCmd) (s : State) : Host.Outcome State Fault Refusal := .next (s.domainConfig m)

/-! ## Queues (R516, R517) -/

/-- QUEUE_CONFIG (R516). (DESIGN CHOICE, log 62) -/
def State.queueConfig (m : MbCmd) (s : State) : State :=
  let i := m.f 0 2
  s.command 0x0041 m
    (fun t => t.row m (decide (m.f 2 1 ≤ 1)) (m.len 16 && m.noBuf && decide (i < 512)) (t.inMask m.dom i) false anyNoRf false true)
    (fun c t =>
      let q := t.queue m.dom i
      if m.f 2 1 = 1 then t.answer c stOk [(0, q.word.toNat)]
      else if q.on && (q.head != q.tail || q.get 96 3 != 0 || q.inFlight) then t.answer c stBusy []
      else t.due (.queue c m.dom i (m.f 8 8)))

def execQueueConfig (m : MbCmd) (s : State) : Host.Outcome State Fault Refusal := .next (s.queueConfig m)

/-- QUEUE_RESET (R259, R517). -/
def State.queueReset (m : MbCmd) (s : State) : State :=
  let i := m.f 0 2
  s.command 0x0042 m
    (fun t => t.row m true (m.len 8 && m.noBuf && decide (i < 512)) (t.inMask m.dom i) false anyNoRf false true)
    (fun c t => (t.resetQueue m.dom i).answer c stOk [])

def execQueueReset (m : MbCmd) (s : State) : Host.Outcome State Fault Refusal := .next (s.queueReset m)

end Sys2Proof.Machine
end

