-- ==== Sys2Proof/Machine/MailChannels.lean ====
section
/-! DEFINITION. Mailbox commands of loops and channels (R518 to R524). -/

namespace Sys2Proof.Machine

/-! ## Loops (R518 to R521) -/

/-- LOOP_CONFIG (R518). (DESIGN CHOICE, log 26) -/
def State.loopConfig (m : MbCmd) (s : State) : State :=
  let first := m.f 0 2
  let n := m.f 2 2
  let item := m.f 4 1
  let size := m.f 5 1
  s.command 0x0050 m
    (fun t => t.row m (decide (1 ≤ item ∧ item ≤ 7))
      (m.len 16 && m.noBuf && decide (1 ≤ n ∧ first + n ≤ 10240) &&
        (decide (item ≠ 7) || ([1, 2, 4].contains size && decide (m.f 6 1 + size ≤ 64))))
      m.pf false anyNoRf false true)
    (fun c t => t.due (.loop c first n item size (m.f 6 1) (m.f 8 4) (m.f 12 4)))

def execLoopConfig (m : MbCmd) (s : State) : Host.Outcome State Fault Refusal := .next (s.loopConfig m)

/-- LOOP_READ (R519): the states of the next tick. -/
def State.loopReadCmd (m : MbCmd) (s : State) : State :=
  let first := m.f 0 2
  let n := m.f 2 2
  s.command 0x0051 m
    (fun t => t.row m true (m.len 4 && decide (1 ≤ n ∧ first + n ≤ 10240) && m.bufIs (64 * n)) m.pf false anyNoRf false true)
    (fun c t => t.due (.loopRead c m.iova first n))

def execLoopRead (m : MbCmd) (s : State) : Host.Outcome State Fault Refusal := .next (s.loopReadCmd m)

/-- TONE_ASSIGN (R520). (DESIGN CHOICE, log 26) -/
def State.toneAssign (m : MbCmd) (s : State) : State :=
  let first := m.f 0 2
  let n := m.f 2 2
  let dflt := tb (m.f 4 1) 0
  let uniform := tb (m.f 4 1) 1
  s.command 0x0052 m
    (fun t => t.row m true
      (m.len 12 && (if dflt then m.noBuf
        else decide (4608 ≤ first) && decide (1 ≤ n ∧ first + n ≤ 10240) && (if uniform then m.noBuf else m.bufIs (4 * n))))
      m.pf false anyNoRf false true)
    (fun c t =>
      if dflt then t.dueThen c .toneDefault
      else if uniform then
        t.dueThen c (.tones ((List.range n).map (fun k => (first + k, m.f 5 1 % 64, m.f 6 1, m.f 8 2 % 1024))))
      else t.bufferIn c m (.tones first) false)

def execToneAssign (m : MbCmd) (s : State) : Host.Outcome State Fault Refusal := .next (s.toneAssign m)

/-- HATCH_LOAD (R166, R521). (DESIGN CHOICE, log 26) -/
def State.hatchLoad (m : MbCmd) (s : State) : State :=
  let first := m.f 0 2
  let n := m.f 2 2
  s.command 0x0053 m
    (fun t => t.row m true (m.len 4 && decide (1 ≤ n ∧ first + n ≤ 5632) && m.bufIs (32 * n)) m.pf false anyNoRf false true)
    (fun c t => t.bufferIn c m (.hatch first) false)

def execHatchLoad (m : MbCmd) (s : State) : Host.Outcome State Fault Refusal := .next (s.hatchLoad m)

/-! ## CHANNEL_READ (R522) -/

/-- The response for a drive channel. -/
def State.driveReply (s : State) (i : Nat) : List (Nat × Nat) :=
  let c := s.dch i
  let code (q : Option QCode) : Nat := match q with | some x => x.code | none => 0
  let thermal (v : Nat) : Nat := if i < 4608 then 0 else v
  [(0, s.driveStatus i), (2, c.position), (4, c.dac), (6, code c.next), (8, code c.follow),
   (10, bit c.next.isSome + 2 * bit c.follow.isSome), (12, c.rbV % 4096 + thermal (c.rbI % 4096 * 65536)), (16, c.rbFrame % 2 ^ 32),
   (20, thermal (c.m + c.a * 256 + c.phi * 65536)), (24, thermal (c.step - 1 + (c.rate - 1) * 65536))]

/-- The entry of a table that names a channel. -/
def entryIn (t : List W16) (x : Nat) : Option Nat :=
  (validEntries t).find? (fun e => decide ((entryOf t e).map Prod.fst = some x))

/-- The response for a sense channel. -/
def State.senseReply (s : State) (x : Nat) : List (Nat × Nat) :=
  let sv := s.serving x
  let core := match sv with | some p => p.1 | none => homeCore x
  let k := s.core core
  let even := entryIn k.even x
  let odd := entryIn k.odd x
  let shared := match sv with | some p => p.2 | none => true
  [(0, (s.sch x).last.toNat), (4, core), (5, (even.orElse (fun _ => odd)).getD (homeEntry x)), (6, bit even.isSome + 2 * bit odd.isSome),
   (7, (s.sch x).range),
   (8, bit (s.retired 2 x) + 2 * bit (!s.sensePresent x) + 4 * bit (core % 17 == 16) + 8 * bit shared)]

/-- Sticky bits clear when they are returned (R105). -/
def State.clearSticky (s : State) (i : Nat) : State := s.modDch i (fun c => { c with sticky := 0 })

/-- A capture of a sense channel is possible (R133, R134): its pair is served by its own two cores. -/
def State.mayCapture (s : State) (x : Nat) : Bool :=
  let p := homeCore x
  decide (s.converter p = some p) && decide (s.converter (pairMate p) = some (pairMate p))

/-- CAPTURE starts at the next tick (R133). The permission of R134 is judged here, when the command is taken. (DESIGN CHOICE, log 33)
RANGE 4 keeps the range in force; FILTER and any other RANGE are applied truncated
(R494). -/
def State.capture (s : State) (c : CmdRef) (m : MbCmd) : State :=
  let x := m.f 2 2
  let asked := s.atTick.any (fun o => match o with | .capture _ _ _ _ _ _ => true | _ => false)
  if s.sense.capture.isSome || asked then s.answer c stBusy []
  else if !s.mayCapture x then s.answer c stNotPermitted []
  else s.due (.capture c m.iova (pairOf (homeCore x)) x (m.f 1 1 % 2) (if m.f 4 1 = 4 then 4 else m.f 4 1 % 4))

/-- CHANNEL_READ (R522). (DESIGN CHOICE, log 26) -/
def State.channelRead (m : MbCmd) (s : State) : State :=
  let kind := m.f 0 1
  let x := m.f 2 2
  s.command 0x0060 m
    (fun t => t.row m (decide (kind ≤ 2))
      (m.len 8 && (if kind = 2 then m.bufIs 65536 else m.noBuf) &&
        decide (x < if kind = 0 then 10240 else 5632))
      m.pf false (if kind = 2 then [.characterize, .service, .standby, .isolated] else anyNoRf) false true)
    (fun c t =>
      if kind = 0 then (t.clearSticky x).answer c stOk (t.driveReply x)
      else if kind = 1 then t.answer c stOk (t.senseReply x)
      else t.capture c m)

def execChannelRead (m : MbCmd) (s : State) : Host.Outcome State Fault Refusal := .next (s.channelRead m)

/-! ## CHANNEL_FORCE (R523) -/

/-- A code is forced: other writers' codes in the queue go, and CODE enters it with force precedence; one that falls into a
range-change hold applies at its release. (DEDUCED, log 30) -/
def State.force (s : State) (i code : Nat) : State :=
  let drop (q : Option QCode) : Option QCode := match q with | some x => if x.writer = .force then some x else none | none => none
  let lim := s.limited i code
  let tick := s.clk.frame + (if s.clk.committed then 2 else 1)
  (s.modDch i (fun c => { c with
    next := drop c.next, follow := drop c.follow, forced := some lim.1, sticky := c.sticky ||| (4 * bit lim.2),
    hold := c.hold.map (fun h => if tick ≤ h.release then { h with force := some lim.1 } else h) })).putCode i .force code

/-- A force is released: a thermal loop restarts from the forced code, an EO channel takes the stored code of its state. (DEDUCED, log 30) -/
def State.unforce (s : State) (i : Nat) : State :=
  let s1 := s.modDch i DriveCh.letGo
  if (s.dch i).forced.isNone then s
  else if i < 4608 then s1.putCode i .impression (cg (s1.cs i) (if s1.cellState i then 0x12 else 0x10) 2)
  else s1.restartLoop i

/-- CHANNEL_FORCE. -/
def State.channelForce (m : MbCmd) (s : State) : State :=
  let i := m.f 0 2
  s.command 0x0061 m (fun t => t.row m true (m.len 8 && m.noBuf && decide (i < 10240)) m.pf false [.service] false false)
    (fun c t =>
      if t.retired 1 i then t.answer c stRetired []
      else (if tb (m.f 4 1) 0 then t.unforce i else t.force i (m.f 2 2)).answer c stOk [])

def execChannelForce (m : MbCmd) (s : State) : Host.Outcome State Fault Refusal := .next (s.channelForce m)

/-! ## CHANNEL_RETIRE and CHANNEL_RESTORE (R524) -/

/-- The units of a KIND. -/
def kindCount (kind : Nat) : Nat := if kind = 0 then 10240 else if kind = 1 then 5632 else if kind = 2 then 4608 else if kind = 3 then 136 else 18

/-- CHANNEL_RETIRE (R370), with reason HOST. -/
def State.channelRetire (m : MbCmd) (s : State) : State :=
  let kind := m.f 0 1
  let i := m.f 2 2
  s.command 0x0062 m (fun t => t.row m (decide (kind ≤ 2)) (m.len 4 && m.noBuf && decide (i < kindCount kind)) m.pf true [.service] false false)
    (fun c t => if t.retired (kind + 1) i then t.answer c stRetired [] else t.dueThen c (.retire (kind + 1) i 11))

def execChannelRetire (m : MbCmd) (s : State) : Host.Outcome State Fault Refusal := .next (s.channelRetire m)

/-- CHANNEL_RESTORE (R61, R377). -/
def State.channelRestore (m : MbCmd) (s : State) : State :=
  let kind := m.f 0 1
  let i := m.f 2 2
  s.command 0x0063 m (fun t => t.row m (decide (kind ≤ 4)) (m.len 4 && m.noBuf && decide (i < kindCount kind)) m.pf true [.service] false false)
    (fun c t => (t.due (.restore (kind + 1) i)).answerDue c (t.restoreStatus (kind + 1) i) [])

def execChannelRestore (m : MbCmd) (s : State) : Host.Outcome State Fault Refusal := .next (s.channelRestore m)

end Sys2Proof.Machine
end

