-- ==== Sys2Proof/Machine/MailCal.lean ====
section
/-! DEFINITION. Mailbox commands of calibration and of time (R525 to R530). -/

namespace Sys2Proof.Machine

/-! ## CAL_RUN (R398, R401, R525) -/

/-- The modes in which CAL_RUN takes a scope (R398). -/
def calModes (n : Nat) : List Mode :=
  if n = 0x300 then [.characterize] else [.standby, .active, .hold, .dark, .characterize, .service, .isolated]

/-- A scope already has a run, or a CAL_RUN that waits. (DEDUCED, log 52) -/
def State.calBusy (s : State) (n : Nat) : Bool :=
  let x := s.scope n
  let all := match s.cal.all with | some (_, l, _, _) => l.contains n | none => false
  x.running.isSome || x.cmd.isSome || all

/-- CAL_RUN. ALL_CONVERTERS asks for every converter scope. (DESIGN CHOICE, log 26; DEDUCED, log 52) -/
def State.calRun (m : MbCmd) (s : State) : State :=
  let n := m.f 0 2
  s.command 0x0070 m
    (fun t => t.row m (isScope n || decide (n = 0x400)) (m.len 8 && m.noBuf) m.pf true (calModes n) false false)
    (fun c t =>
      if n = 0x400 then
        if converterScopes.any t.calBusy then t.answer c stBusy []
        else converterScopes.foldl (fun u k => u.askRun k none) { t with cal := { t.cal with all := some (c, converterScopes, 0xFFFF, 0) } }
      else if t.calBusy n then t.answer c stBusy []
      else if n = 0x300 then
        if !t.pair.held then t.answer c stWrongMode []
        else ({ t with cal := { t.cal with fabricNext := (m.f 2 1 % 2, tb (m.f 3 1) 0, m.f 4 2) } } : State).askRun n (some c)
      else t.askRun n (some c))

def execCalRun (m : MbCmd) (s : State) : Host.Outcome State Fault Refusal := .next (s.calRun m)

/-! ## CAL_STATUS (R527) -/

/-- The number of bits set in the low n bits. -/
def popcount (x n : Nat) : Nat := ((List.range n).filter (tb x)).length

/-- The response of CAL_STATUS. -/
def State.calReplyOf (s : State) (n : Nat) : List (Nat × Nat) :=
  let x := s.scope n
  let fab := decide (n = 0x300)
  let due := if fab then s.cal.fabDue else s.cal.convDue
  [(0, x.count), (4, x.time), (0x0C, unsigned 16 x.temp),
   (0x0E, x.flags % 8 + 8 * bit x.running.isSome + 16 * bit x.pending + 32 * bit due), (0x10, x.lastReason),
   (0x11, if fab then s.cal.patterns else 0), (0x12, x.lastFail),
   (0x14, match x.running with | some f => (s.clk.frame - f) % 2 ^ 32 | none => 0),
   (0x18, if fab then popcount s.cal.excluded 4608 else 0)]

/-- The buffer of the fabric scope: excluded cells, then PHASE_PER_MW of every cell. -/
def State.calDetail (s : State) : List Byte :=
  bytesLE 576 s.cal.excluded ++ (List.range 4608).flatMap (fun c => bytesLE 2 (fld (rd s.cal.cells c 0).toNat 80 16))

def State.calStatus (m : MbCmd) (s : State) : State :=
  let n := m.f 0 2
  s.command 0x0071 m
    (fun t => t.row m (isScope n) (m.len 4 && (m.noBuf || (decide (n = 0x300) && m.bufIs 9792))) true true anyMode true true)
    (fun c t => t.bufferOut c m.iova (if m.noBuf then [] else t.calDetail) (t.calReplyOf n))

def execCalStatus (m : MbCmd) (s : State) : Host.Outcome State Fault Refusal := .next (s.calStatus m)

/-! ## CAL_POLICY (R400, R528) -/

/-- TEMP_TRIGGER, POWERUP_CAL, PERSIST and DT_CAL from the next tick on. (DEDUCED, log 54) -/
def State.policyNext (s : State) : Bool × Bool × Bool × Nat :=
  s.atTick.foldl (fun p o => match o with
    | .calPolicy a b c d => (a, b, c, d)
    | _ => p) (s.cal.tempTrigger, s.cal.powerup, s.cal.persist, s.cal.dt)

/-- Start-up Calibration ends at the next tick (R438, R528). (DEDUCED, log 54) -/
def State.endsStartup (s : State) : Bool :=
  s.sys.mode == .startupCal && s.cal.haveRecord && decide (s.fuse 2817 1 = 0)

/-- DEDUCED, log 27; DEDUCED, log 54. -/
def State.calPolicy (m : MbCmd) (s : State) : State :=
  let write := tb (m.f 0 1) 0
  let save := tb (m.f 0 1) 1
  s.command 0x0072 m
    (fun t => t.row m true (m.len 8 && m.noBuf) (m.pf || (!write && !save)) true anyMode true false)
    (fun c t =>
      let t1 := if write then t.due (.calPolicy (tb (m.f 1 1) 0) (tb (m.f 2 1) 0) (tb (m.f 3 1) 0) (m.f 4 2)) else t
      let t2 := if write && !tb (m.f 2 1) 0 && t.endsStartup then t1.due (.enter t1.bootTarget) else t1
      let p := t2.policyNext
      let reply := [(0, m.f 0 1), (1, bit p.1), (2, bit p.2.1), (3, bit p.2.2.1), (4, p.2.2.2)]
      if save then t2.flashJob (.mode none (some (bit p.2.1 + 2 * bit p.1 + 4 * bit p.2.2.1 + 128, p.2.2.2)) c reply)
      else t2.answer c stOk reply)

def execCalPolicy (m : MbCmd) (s : State) : Host.Outcome State Fault Refusal := .next (s.calPolicy m)

/-! ## Time (R529, R530) -/

/-- A step asked for by TIME_CONFIG (R308). -/
def State.askStep (s : State) (c : CmdRef) (absolute : Option Nat) (offset : Int) : State :=
  if s.pair.held then s.answer c stWrongMode []
  else if s.ft.step.isSome then s.answer c stBusy []
  else { s with ft := { s.ft with step := some { absolute := absolute, offset := offset, cmd := some c, armed := false } } }

/-- TIME_CONFIG (R529). (DEDUCED, log 27) -/
def State.timeConfig (m : MbCmd) (s : State) : State :=
  let item := m.f 0 1
  let port := decide (m.f 1 1 = 1)
  let read := tb (m.f 2 1) 0
  s.command 0x0080 m
    (fun t => t.row m (decide (1 ≤ item ∧ item ≤ 16) && !(read && decide (14 ≤ item))) (m.len 16 && m.noBuf && decide (m.f 1 1 ≤ 1)) m.pf
      true anyMode false true)
    (fun c t =>
      if read then t.answer c stOk [(0, t.timeValue item port)]
      else if item = 14 then t.askStep c (some (m.f 8 8)) 0
      else if item = 15 then t.askStep c none (signed 64 (m.f 8 8) * 65536)
      else if item = 16 then
        if t.ft.source ≠ .host then t.answer c stNotPermitted [] else (t.hostOffset (signed 64 (m.f 8 8))).answer c stOk []
      else t.dueNow c (.time item port (m.f 8 8)) [])

def execTimeConfig (m : MbCmd) (s : State) : Host.Outcome State Fault Refusal := .next (s.timeConfig m)

/-- TIME_STATUS (R530), taken at the next tick. -/
def State.timeStatus (m : MbCmd) (s : State) : State :=
  s.command 0x0081 m (fun t => t.row m true (m.len 0 && (m.noBuf || m.bufIs 128)) true true anyMode false true)
    (fun c t => t.due (.timeStatus c m.iova m.buf))

def execTimeStatus (m : MbCmd) (s : State) : Host.Outcome State Fault Refusal := .next (s.timeStatus m)

end Sys2Proof.Machine
end

