-- ==== Sys2Proof/Machine/MailPair.lean ====
section
/-! DEFINITION. Mailbox commands of pairing, firmware, fuses, events, counters and translation (R531 to R543). -/

namespace Sys2Proof.Machine

/-! ## Pairing (R531 to R534) -/

/-- VALUE of a setting (R531). -/
def State.pairValue (s : State) (item index : Nat) : Nat :=
  if item = 1 then bit s.pair.solo
  else if item = 2 then bit s.pair.enable
  else if item = 3 then bit s.pair.refB
  else if item = 4 then s.pair.revertDelay
  else if item = 5 then s.pair.swapInterval
  else if item = 6 then rd s.pair.addresses index 0
  else rd s.pair.clients index 0

/-- A lease mode, or Service with a lease (R426). -/
def State.inLeaseMode (s : State) : Bool :=
  s.sys.mode.named || s.sys.mode == .hold || (s.sys.mode == .service && s.pair.held)

/-- PAIR_CONFIG. ITEM 1 is accepted only in Standby, Isolated, and Service without a lease. (DESIGN CHOICE, log 26; DEDUCED, log 27) -/
def State.pairConfig (m : MbCmd) (s : State) : State :=
  let item := m.f 0 1
  let index := m.f 1 1
  let read := tb (m.f 2 1) 0
  let value := m.f 8 32
  s.command 0x0090 m
    (fun t => t.row m (decide (1 ≤ item ∧ item ≤ 7))
      (m.len 40 && m.noBuf && (decide (item ≠ 6) || decide (index ≤ 1)) && (decide (item ≠ 7) || decide (index ≤ 7)))
      (m.pf && (decide (item ≠ 1) || read || !tb value 0 || decide (t.fuse 2818 1 = 1))) true
      (if item = 1 then (if t.pair.held then [.standby, .isolated] else [.standby, .isolated, .service]) else anyNoRf) false false)
    (fun c t => if read then t.answer c stOk [(0, t.pairValue item index)] else t.dueNow c (.pair item index value) [])

def execPairConfig (m : MbCmd) (s : State) : Host.Outcome State Fault Refusal := .next (s.pairConfig m)

/-- The response of PAIR_STATUS (R532): the last STANDBY_STATUS stands when its link goes (R364). -/
def State.pairReply (s : State) : List (Nat × Nat) :=
  let p := s.pair
  let lease := if !p.held then 0 else if p.solo then 3 else if p.extended then 2 else 1
  let both := s.mirror.lane0 && s.mirror.lane1
  let st := s.mirror.statusLast
  let flags := match st with
    | some x => pack [(1, bit x.ready), (1, bit x.armed), (1, bit x.refUp), (1, bit x.healthy), (1, bit x.swapReq)]
    | none => 0
  [(0, lease),
   (1, pack [(1, bit s.mirror.ready), (1, bit p.armed.isSome), (1, bit s.linkUp), (1, bit s.mirrorUp), (1, bit (s.mirrorUp && !both)),
     (1, bit (s.mirror.resync || s.mirror.resyncOut)), (1, bit !s.levelOk), (1, bit s.clk.pref)]),
   (2, bit s.clk.siteId), (3, bit p.solo + 2 * bit p.enable + 4 * bit p.refB), (4, p.epoch), (8, if p.held then p.em - p.now else 0),
   (0x10, p.lastChange), (0x18, flags), (0x1C, match st with | some x => x.lastSeq.toNat | none => 0),
   (0x20, match st with | some x => unsigned 32 x.offset | none => 0), (0x24, s.mirror.statusFrame % 2 ^ 32)]

def State.pairStatus (m : MbCmd) (s : State) : State :=
  s.command 0x0091 m (fun t => t.row m true (m.len 0 && m.noBuf) true true anyMode false true)
    (fun c t => t.answer c stOk t.pairReply)

def execPairStatus (m : MbCmd) (s : State) : Host.Outcome State Fault Refusal := .next (s.pairStatus m)

/-- PAIR_SWAP (R346, R533). (DEDUCED, log 51) -/
def State.pairSwap (m : MbCmd) (s : State) : State :=
  s.command 0x0092 m
    (fun t => t.row m true (m.len 0 && m.noBuf) m.pf true
      ([Mode.standby, .active, .hold, .dark, .characterize, .legacy] ++ if t.pair.held then [.service] else []) false true)
    (fun c t =>
      if t.pair.solo then t.answer c stNotPermitted []
      else if t.pair.held then t.startSwap (some c) false
      else match t.pair.swapReq with
      | some (_, some _) => t.answer c stBusy []
      | _ => { t with pair := { t.pair with swapReq := some (t.clk.frame, some c) } })

def execPairSwap (m : MbCmd) (s : State) : Host.Outcome State Fault Refusal := .next (s.pairSwap m)

/-- The response of REFEREE_CONFIG (R534). -/
def State.refereeReply (s : State) : List (Nat × Nat) :=
  let p := s.pair
  [(0, match p.refHolder with | some h => bit h | none => 0xFF), (1, match p.refArmed with | some a => bit a.1 | none => 0xFF),
   (2, bit p.portA.up + 2 * bit p.portB.up), (3, bit p.portA.iso + 2 * bit p.portB.iso), (4, p.refEpoch), (8, p.refL),
   (0x0C, match p.refHolder with | some _ => p.refX - p.now | none => 0)]

/-- REFEREE_CONFIG (R334, R335, R534). (DESIGN CHOICE, log 26) -/
def State.refereeConfig (m : MbCmd) (s : State) : State :=
  let setL := tb (m.f 0 1) 0
  let setIso := tb (m.f 0 1) 1
  let l := m.f 4 4
  s.command 0x0093 m (fun t => t.row m true (m.len 8 && m.noBuf) m.pf true [.referee] false false)
    (fun c t =>
      if setL && !decide (6250 ≤ l ∧ l ≤ 625000) then t.answer c stBadLength []
      else
        let t1 : State := if setL then { t with pair := { t.pair with refL := l } } else t
        let t2 := if setIso then (t1.refereeIso false (tb (m.f 1 1) 0)).refereeIso true (tb (m.f 1 1) 1) else t1
        t2.answer c stOk t2.refereeReply)

def execRefereeConfig (m : MbCmd) (s : State) : Host.Outcome State Fault Refusal := .next (s.refereeConfig m)

/-! ## Firmware (R450, R451, R535, R536) -/

/-- FW_STAGE: the control block of the slot that does not run is erased, then the image is read. -/
def State.fwStage (m : MbCmd) (s : State) : State :=
  s.command 0x00A0 m
    (fun t => t.row m true (m.len 0 && decide (513 ≤ m.buf ∧ m.buf ≤ 4194816)) m.pf false anyMode false true)
    (fun c t =>
      if t.sys.staging then t.answer c stBusy []
      else (({ t with sys := { t.sys with staging := true } } : State).eraseControl (!t.sys.slotB)).bufferIn c m .stage false)

def execFwStage (m : MbCmd) (s : State) : Host.Outcome State Fault Refusal := .next (s.fwStage m)

/-- CONFIG_LEVEL of the image in a slot (R443). -/
def State.slotLevel (s : State) (b : Bool) : Nat := fieldB (s.slotHeader b) 0x0E 2

/-- FW_ACTIVATE. -/
def State.fwActivate (m : MbCmd) (s : State) : State :=
  let slot := decide (m.f 0 1 = 1)
  s.command 0x00A1 m
    (fun t => t.row m (decide (m.f 1 1 ≤ 1)) (m.len 4 && m.noBuf && decide (m.f 0 1 ≤ 1)) m.pf true anyMode false true)
    (fun c t =>
      if slot = t.sys.slotB ∨ !t.slotValid slot then t.answer c stNotPermitted []
      else if m.f 1 1 = 0 then t.flashJob (.control slot ((t.slotSeq t.sys.slotB + 1) % 2 ^ 32) c)
      else if t.sys.activate.isSome then t.answer c stBusy []
      else if t.slotLevel slot ≠ t.sys.configLevel then t.answer c stNotPermitted []
      else ({ t with sys := { t.sys with activate := some (c, slot) } } : State).tryActivate)

def execFwActivate (m : MbCmd) (s : State) : Host.Outcome State Fault Refusal := .next (s.fwActivate m)

/-! ## Fuses (R447 to R449, R537, R538) -/

/-- FUSE_READ. (DEDUCED, log 57) -/
def State.fuseRead (m : MbCmd) (s : State) : State :=
  let o := m.f 0 2
  s.command 0x00A2 m
    (fun t => t.row m true (m.len 4 && m.noBuf && decide (o % 32 = 0 ∧ o ≤ 480)) true true anyMode true true)
    (fun c t => t.answer c stOk [(0, fld t.sys.fuses.toNat (8 * o) 256)])

def execFuseRead (m : MbCmd) (s : State) : Host.Outcome State Fault Refusal := .next (s.fuseRead m)

/-- FUSE_PROGRAM: FUSE_EN and SEALED permit it, in Service without a lease. (DEDUCED, log 57) -/
def State.fuseProgram (m : MbCmd) (s : State) : State :=
  s.command 0x00A3 m
    (fun t => t.row m true (m.len 0 && m.bufIs 320) (m.pf && t.clk.fuseEn && !tb t.sys.fuses.toNat 2819) false
      (if t.pair.held then [] else [.service]) false false)
    (fun c t => if t.sys.fuseJob.isSome then t.answer c stBusy [] else t.bufferIn c m .fuses false)

def execFuseProgram (m : MbCmd) (s : State) : Host.Outcome State Fault Refusal := .next (s.fuseProgram m)

/-! ## Events, fault log and counters (R539 to R541) -/

/-- EV_ENABLE of a function with the bits of a word under a mask replaced. -/
def enableWord (e : BitVec 320) (word mask bits : Nat) : BitVec 320 :=
  let old := fld e.toNat (32 * word) 32
  BitVec.ofNat 320 (setFld e.toNat (32 * word) 32 ((old &&& (0xFFFFFFFF - mask)) ||| (bits &&& mask)))

/-- EV_ENABLE of a function from the next tick on. -/
def State.enableNext (s : State) (n : Nat) : BitVec 320 :=
  s.atTick.foldl (fun e o => match o with
    | .evEnable k w mask bits => if k = n then enableWord e w mask bits else e
    | _ => e) (s.fn n).evEnable

/-- The thresholds (R539, OP 3). (DEDUCED, log 61) -/
def State.thresholdReply (s : State) : List (Nat × Nat) :=
  [(0, 3), (4, s.faults.tempHigh + s.faults.procDrift * 65536)] ++
    (List.range 8).map (fun g => (8 + 2 * g, rd s.faults.vhtrNominal g 5000))

/-- EVENT_CONFIG. (DESIGN CHOICE, log 26; DEDUCED, log 27) -/
def State.eventConfig (m : MbCmd) (s : State) : State :=
  let op := m.f 0 1
  let word := m.f 4 4
  let group := word / 2 ^ 24
  s.command 0x00B0 m
    (fun t => t.row m (decide (op ≤ 3))
      (m.len 24 && m.noBuf && (decide (op ≠ 0) || decide (word ≤ 9)) && (decide (op ≠ 2) || decide (group ≤ 7) || decide (group = 0xFF)))
      (decide (op ≤ 1) || m.pf) true anyMode false true)
    (fun c t =>
      if op = 0 then
        let t1 := t.due (.evEnable m.dom word (fld (m.f 8 8) 0 32) (fld (m.f 8 8) 32 32))
        t1.answer c stOk [(0, fld (t1.enableNext m.dom).toNat (32 * word) 32)]
      else if op = 1 then t.dueNow c (.evRing m.dom (fld (m.f 8 8) 12 36 * 4096) (m.f 0x10 1)) []
      else if op = 2 then t.dueNow c (.thresholds word (fld (m.f 8 8) 0 16)) []
      else t.answer c stOk t.thresholdReply)

def execEventConfig (m : MbCmd) (s : State) : Host.Outcome State Fault Refusal := .next (s.eventConfig m)

/-- LOG_SEQ of a record (R394). -/
def logSeq (r : BitVec 256) : Nat := fld r.toNat 0 32

/-- The records that a FAULT_LOG_READ returns (R540), oldest first. -/
def State.logFrom (s : State) (first count : Nat) : List (BitVec 256) :=
  let l := s.faults.log.reverse.map Prod.fst
  match l.head?, l.getLast? with
  | some o, some z =>
    if later first (logSeq z) then []
    else
      let start := if later (logSeq o) first then logSeq o else first
      (l.filter (fun r => !later start (logSeq r))).take count
  | _, _ => []

/-- FAULT_LOG_READ. (DEDUCED, log 61) -/
def State.faultLogRead (m : MbCmd) (s : State) : State :=
  let n := m.f 4 2
  s.command 0x00B1 m
    (fun t => t.row m true (m.len 8 && decide (1 ≤ n ∧ n ≤ 4096) && m.bufIs (32 * n)) m.pf false anyMode false true)
    (fun c t =>
      let l := t.logFrom (m.f 0 4) n
      let first := match l.head? with | some r => logSeq r | none => t.faults.logNext
      let next := match l.getLast? with | some r => (logSeq r + 1) % 2 ^ 32 | none => t.faults.logNext
      let t1 : State := { t with faults := { t.faults with
        wrapRaised := false, log := t.faults.log.map (fun e => (e.1, e.2 || l.contains e.1)) } }
      t1.bufferOut c m.iova (l.flatMap (fun r => bytesLE 32 r.toNat)) [(0, first), (4, l.length), (8, next)])

def execFaultLogRead (m : MbCmd) (s : State) : Host.Outcome State Fault Refusal := .next (s.faultLogRead m)

/-- PERF_CONFIG (R541, R559). (DEDUCED, log 27) -/
def State.perfConfig (m : MbCmd) (s : State) : State :=
  s.command 0x00C0 m (fun t => t.row m true (m.len 8 && m.noBuf && decide (m.f 0 1 ≤ 7)) m.pf false anyMode false false)
    (fun c t =>
      t.dueNow c (.perf (m.f 0 1) (m.f 2 2 + bit (tb (m.f 1 1) 0) * 2 ^ 31) (m.f 4 4) (tb (m.f 1 1) 1)) [])

def execPerfConfig (m : MbCmd) (s : State) : Host.Outcome State Fault Refusal := .next (s.perfConfig m)

/-! ## Translation (R478, R483, R484, R542, R543) -/

/-- A SET: a change of MODE or L1_BASE invalidates every entry of the domain. (DEDUCED, log 60) -/
def State.setTranslation (s : State) (d mode limit base : Nat) : State :=
  let x := s.xlate d
  let s1 := s.setXlate d { x with mode := mode, l1Limit := limit, l1Base := base }
  if x.mode = mode ∧ x.l1Base = base then s1 else s1.invalidate d true 0 0

/-- The response of READ. -/
def State.xlateReply (s : State) (d : Nat) : List (Nat × Nat) :=
  let x := s.xlate d
  [(0, x.mode), (1, bit x.stopped), (4, x.l1Limit), (8, x.l1Base * 4096), (0x10, x.fault.toNat)]

/-- XLATE_CONFIG. -/
def State.xlateConfig (m : MbCmd) (s : State) : State :=
  let d := m.f 0 1
  let op := m.f 1 1
  s.command 0x00D0 m
    (fun t => t.row m (decide (op ≤ 2)) (m.len 32 && m.noBuf && decide (d < 128))
      (m.pf && (decide (op ≠ 0) || decide (d = 0) || decide (m.f 2 1 ≠ 2))) false anyMode false false)
    (fun c t =>
      if op = 0 then (t.setTranslation d (m.f 2 1) (m.f 4 4) (fld (m.f 8 8) 12 40)).answer c stOk []
      else if op = 1 then (t.invalidate d (tb (m.f 3 1) 0) (fld (m.f 0x10 8) 12 36) (m.f 0x18 4)).answer c stOk []
      else t.answer c stOk (t.xlateReply d))

def execXlateConfig (m : MbCmd) (s : State) : Host.Outcome State Fault Refusal := .next (s.xlateConfig m)

/-- XLATE_RESUME. -/
def State.xlateResume (m : MbCmd) (s : State) : State :=
  s.command 0x00D1 m
    (fun t => t.row m (decide (m.f 1 1 ≤ 1)) (m.len 4 && m.noBuf && decide (m.f 0 1 < 128)) m.pf false anyMode false false)
    (fun c t => (t.resume (m.f 0 1) (decide (m.f 1 1 = 1))).answer c stOk [])

def execXlateResume (m : MbCmd) (s : State) : Host.Outcome State Fault Refusal := .next (s.xlateResume m)

end Sys2Proof.Machine
end

