-- ==== Sys2Proof/Machine/Mailbox.lean ====
section
/-! DEFINITION. The mailbox as a whole: the opcode table (R499), doorbells (R469, R470), management datagrams (R362, R363), the end of
a hot restart (R452, R453), the data of command buffers (R476, R497), and the end of a PLATE_READ copy (R505, R553). -/

namespace Sys2Proof.Machine

/-! ## The opcode table (R499) -/

/-- A command with an opcode that the table does not hold. (DESIGN CHOICE, log 24) -/
def State.unknownOpcode (op : Nat) (m : MbCmd) (s : State) : State :=
  s.command op m (fun _ => { sel := false, len := true, perm := true, mode := true }) (fun _ t => t)

/-- The meaning of an opcode. -/
def opMeaning (op : Nat) : MbCmd → State → State :=
  match op with
  | 0x0001 => State.getInfo | 0x0002 => State.getHealth | 0x0003 => State.setModeCmd
  | 0x0010 => State.loadDescriptor | 0x0011 => State.readDescriptor
  | 0x0020 => State.plateWrite | 0x0021 => State.plateRead | 0x0022 => State.plateRoute | 0x0023 => State.plateRouteDelta
  | 0x0024 => State.impress | 0x0025 => State.proofRead
  | 0x0030 => State.slotWrite | 0x0031 => State.slotSwapCmd | 0x0032 => State.gateConfig
  | 0x0040 => State.domainConfig | 0x0041 => State.queueConfig | 0x0042 => State.queueReset
  | 0x0050 => State.loopConfig | 0x0051 => State.loopReadCmd | 0x0052 => State.toneAssign | 0x0053 => State.hatchLoad
  | 0x0060 => State.channelRead | 0x0061 => State.channelForce | 0x0062 => State.channelRetire | 0x0063 => State.channelRestore
  | 0x0070 => State.calRun | 0x0071 => State.calStatus | 0x0072 => State.calPolicy
  | 0x0080 => State.timeConfig | 0x0081 => State.timeStatus
  | 0x0090 => State.pairConfig | 0x0091 => State.pairStatus | 0x0092 => State.pairSwap | 0x0093 => State.refereeConfig
  | 0x00A0 => State.fwStage | 0x00A1 => State.fwActivate | 0x00A2 => State.fuseRead | 0x00A3 => State.fuseProgram
  | 0x00B0 => State.eventConfig | 0x00B1 => State.faultLogRead
  | 0x00C0 => State.perfConfig | 0x00D0 => State.xlateConfig | 0x00D1 => State.xlateResume
  | _ => State.unknownOpcode op

/-- The command in a function's slot is taken, once it can be. (DESIGN CHOICE, log 24) -/
def State.takeSlot (s : State) (n : Nat) : State :=
  let f := s.fn n
  if f.cmdFull && s.mayTake (.fn (BitVec.ofNat 7 n)) then
    opMeaning (slotOp f.cmd) (slotCmd (.fn (BitVec.ofNat 7 n)) f.cmd) s
  else s

/-- The slots that wait are served, in function order (R470). (DESIGN CHOICE, log 24) -/
def State.takeWaiting (s : State) : State := (s.host.fns.map Prod.fst).foldl State.takeSlot s

/-- A doorbell (R469): it presents MB_CMD, or is ignored and noted while CMD_FULL is set. (DESIGN CHOICE, log 24) -/
def State.doorbell (s : State) (n : Nat) (seq : W16) : State :=
  let f := s.fn n
  if f.cmdFull then s.setFn n { f with dbIgnored := true }
  else (s.setFn n { f with cmdFull := true, seq := seq }).takeSlot n

/-- DESIGN CHOICE, log 24. -/
def execMbDoorbell (fn : BitVec 7) (seq : W16) (s : State) : Host.Outcome State Fault Refusal :=
  if s.decodes fn.toNat then .next (s.doorbell fn.toNat seq) else .next s

/-! ## Management datagrams (R362, R363) -/

/-- A client and its address stand in the list of PAIR_CONFIG. (DESIGN CHOICE, log 25) -/
def State.knowsClient (s : State) (d : Datagram) : Bool :=
  decide (d.client ≠ 0) && s.pair.clients.any (fun e => decide (fld e.2 0 32 = d.client.toNat) && decide (fld e.2 32 128 = d.source.toNat))

/-- A management port has an address. (DESIGN CHOICE, log 25) -/
def State.hasAddress (s : State) (port : Bool) : Bool :=
  let a := rd s.pair.addresses (bit port) 0
  decide (fld a 0 32 ≠ 0) || decide (fld a 64 128 ≠ 0)

/-- A sequence number is older than the oldest one kept. (DESIGN CHOICE, log 25) -/
def tooOld (l : List (Nat × BitVec 512)) (seq : Nat) : Bool :=
  match l with
  | [] => false
  | e :: r => later (r.foldl (fun o x => if later o x.1 then x.1 else o) e.1) seq

/-- A management datagram: refused for an unknown client, answered from the store for a duplicate, too old, or executed once. A
copy of a command that still runs is answered with it. (DESIGN CHOICE, log 25) -/
def State.datagram (s : State) (port : Bool) (d : Datagram) : State :=
  let client := d.client.toNat
  let seq := d.seq.toNat
  let l := rd s.pair.answered client []
  let runs (c : CmdRef) : Bool := match c.src with | .mgmt k q _ => decide (k = d.client ∧ q = d.seq) | .fn _ => false
  let held (e : Nat × MbCmd) : Bool := match e.2.src with | .mgmt k q _ => decide (k = d.client ∧ q = d.seq) | .fn _ => false
  if tb d.flags.toNat 0 || !s.hasAddress port || !(s.ptp port).up then s
  else if !s.sys.mailboxOpen then s
  else if !s.knowsClient d then s.emit (.mgmtTx port client seq 1 0)
  else match l.find? (fun e => decide (e.1 = seq)) with
  | some e => s.emit (.mgmtTx port client seq 0 e.2)
  | none =>
    if s.sys.running.any runs || s.sys.held.any held then { s with pair := { s.pair with copies := s.pair.copies ++ [(client, seq, port)] } }
    else if tooOld l seq then s.emit (.mgmtTx port client seq 2 0)
    else opMeaning (slotOp d.body) (slotCmd (.mgmt d.client d.seq port) d.body) s

/-- DESIGN CHOICE, log 25. -/
def execMgmtDatagram (port : Bool) (d : Datagram) (s : State) : Host.Outcome State Fault Refusal := .next (s.datagram port d)

/-! ## The end of a hot restart (R452, R453) -/

/-- Commands that were held run now, in the order in which they came. (DESIGN CHOICE, log 25; DEDUCED, log 55) -/
def State.runHeld (s : State) : State :=
  s.sys.held.foldl (fun t e => opMeaning e.1 e.2 t) { s with sys := { s.sys with held := [] } }

/-- DEDUCED, log 55. -/
def execHotRestartEnd (s : State) : Host.Outcome State Fault Refusal :=
  if s.sys.restarting then .next s.endRestart.runHeld.takeWaiting else .next s

/-! ## The data of command buffers (R62, R166, R450, R476, R497, R505, R507, R510, R520, R538) -/

/-- The fuse bits that FUSE_PROGRAM asks for (R538), and the bits that it may program. (DEDUCED, log 57) -/
def fuseWant (l : List Byte) : BitVec 4096 :=
  BitVec.ofNat 4096 (fieldB l 0 256 + fieldB l 256 48 * 2 ^ 2432 + fieldB l 304 1 % 8 * 2 ^ 2816)

/-- DEDUCED, log 57. -/
def fuseMask : BitVec 4096 := BitVec.ofNat 4096 ((2 ^ 2048 - 1) + (2 ^ 384 - 1) * 2 ^ 2432 + 7 * 2 ^ 2816)

/-- Programming starts (R448), unless a programmed 1 would have to become 0, or FUSE_EN has gone low. (DEDUCED, log 57) -/
def State.startFuses (s : State) (c : CmdRef) (l : List Byte) : State :=
  if !s.clk.fuseEn || (s.sys.fuses &&& fuseMask &&& ~~~(fuseWant l)) != 0 then s.answer c stNotPermitted []
  else if s.sys.fuseJob.isSome then s.answer c stBusy []
  else { s with sys := { s.sys with fuseJob := some (fuseWant l, c) } }

/-- The changes of a buffer. -/
def bufferChanges (l : List Byte) : List Change := (List.range (l.length / 8)).map (fun k => changeOf (fieldB l (8 * k) 8))

/-- The tone settings of a buffer (R520). -/
def bufferTones (first : Nat) (l : List Byte) : List (Nat × Nat × Nat × Nat) :=
  (List.range (l.length / 4)).map (fun k =>
    (first + k, fieldB l (4 * k) 1 % 64, fieldB l (4 * k + 1) 1, fieldB l (4 * k + 2) 2 % 1024))

/-- A command whose buffer has been read. -/
def State.bufferRead (s : State) (c : CmdRef) (u : BufUse) (l : List Byte) : State :=
  match u with
  | .plate _ _ => s.answer c stOk []
  | .descriptor persist => s.due (.descriptor c persist l)
  | .hatch first => (s.due (.hatch first l)).answerDue c stOk []
  | .tones first => (s.due (.tones (bufferTones first l))).answerDue c stOk []
  | .slots bank first =>
    (s.due (.slots bank first ((List.range (l.length / 8)).map (fun k => fieldB l (8 * k) 8)))).answer c stOk []
  | .changes dest base => s.judgeChanges c (bufferChanges l) (fun t => t.submit c dest base (some (bufferChanges l)))
  | .stage => s.flashJob (.stage (!s.sys.slotB) l c)
  | .fuses => s.startFuses c l

/-- The plate bytes of a burst go to the plate port as they arrive (R199, R505). (DEDUCED, log 39) -/
def State.plateBurst (s : State) (x : Xfer) (data : List Byte) : State :=
  match x.use with
  | .read _ (.plate p off) => s.portWrite 4 p (off + x.data.length) data (some x.id)
  | _ => s

/-- The buffer bytes that a command has read are noted for its response. -/
def State.noteRead (s : State) (c : CmdRef) (n : Nat) : State :=
  { s with sys := { s.sys with bufDone := s.sys.bufDone ++ [(c, n)] } }

/-- A transfer whose last byte has been read; a plate's also waits for its last write. -/
def State.readDone (s : State) (x : Xfer) : State :=
  if s.host.portWaits.any (fun w => decide (w.job = some x.id)) then s
  else match x.use with
  | .read c u => ((s.dropXfer x.id).noteRead c x.data.length).bufferRead c u x.data
  | _ => s

/-- The data of the oldest read burst arrive, or its read fails with HOST_ERROR (R480). -/
def execCommandBufferReadDone (ok : Bool) (data : List Byte) (s : State) : Host.Outcome State Fault Refusal :=
  match s.host.xfers.find? (fun x => decide (x.client = 3) && decide (0 < x.inFlight)) with
  | none => .next s
  | some x =>
    if !ok || decide (data.length ≠ x.inFlight) then
      let x1 : Xfer := { x with issued := x.issued - x.inFlight, inFlight := 0 }
      .next ((s.setXfer x1).xlateFault x1 8 (s.burstAddr x1))
    else
      let x1 : Xfer := { x with inFlight := 0, data := x.data ++ data }
      let s1 := (s.setXfer x1).plateBurst x data
      .next (if x.len ≤ x.issued then s1.readDone x1 else s1)

/-! ## PLATE_READ copies (R505, R553) -/

/-- The bytes of a copy: a request-ring slot may mix bytes from before and after a route. (DESIGN CHOICE, log 4) -/
def State.copyBytes (s : State) (c : Copy) : List Byte :=
  let after := s.plateBytes c.plate c.offset c.before.length
  if c.plate < 480 then c.before
  else (List.range c.before.length).map (fun j =>
    if Config.copyMix c.ordinal j then (after[j]?).getD 0 else (c.before[j]?).getD 0)

/-- The plate port write that the next decision grants (R553): the highest priority, then round robin, then arrival. (DEDUCED, log 39) -/
def State.nextWrite (s : State) : Option PortWrite :=
  let act := s.host.committed.getD s.host.active
  let l := s.host.portWaits.filter (fun w => !s.underCopy w.plate && w.id.isSome)
  let top := l.foldl (fun p w => max p (portPrio act w.requester)) 0
  let last := rd s.host.rrLast top 7
  match (List.range 8).find? (fun k =>
    l.any (fun w => decide (portPrio act w.requester = top) && decide (w.requester = (last + 1 + k) % 8))) with
  | some k => l.find? (fun w => decide (w.requester = (last + 1 + k) % 8))
  | none => none

/-- The first occurrence of a waiting write is taken out. -/
def dropFirst (w : PortWrite) : List PortWrite → List PortWrite
  | [] => []
  | x :: r => if x = w then r else x :: dropFirst w r

/-- The writes that a copy held back proceed. (DEDUCED, log 39) -/
def State.drainPort : Nat → State → State
  | 0, s => s
  | n + 1, s =>
    match s.nextWrite with
    | none => s
    | some w =>
      let s1 : State := { s with host := { s.host with portWaits := dropFirst w s.host.portWaits } }
      State.drainPort n (((s1.portDecision w.requester).storePlate w.plate w.offset w.bytes).portServed w)

/-- PLATE_WRITE transfers whose last write has been made are done. (DEDUCED, log 39) -/
def State.finishWrites (s : State) : State :=
  (s.host.xfers.filter (fun x => decide (x.len ≤ x.data.length))).foldl (fun t x =>
    match x.use with
    | .read _ (.plate _ _) => t.readDone x
    | _ => t) s

/-- The oldest copy ends: its bytes go to the buffer, single-bit errors that it met are corrected (R192), and the writes that it held
back proceed. -/
def execPlateReadCopyEnd (s : State) : Host.Outcome State Fault Refusal :=
  match s.host.copies with
  | [] => .next s
  | c :: rest =>
    let data := s.copyBytes c
    let s1 := ({ s with host := { s.host with copies := rest } } : State).eccCorrect c.plate c.offset c.before.length
    let s2 := if s1.sys.running.contains c.cmd then s1.bufferOut c.cmd c.iova data [] else s1
    .next (State.drainPort s2.host.portWaits.length s2).finishWrites

end Sys2Proof.Machine
end

