-- ==== Sys2Proof/Machine/Registers.lean ====
section
/-! DEFINITION. Host accesses to registers and windows that are commands of their own (R462, R465 to R474, R490, R491, R556), the board
management port (R581, R582), and the debug port (R449, R545). -/

namespace Sys2Proof.Machine

/-! ## Registers that clear on read (R7) -/

/-- MB_STATUS (R469). -/
def State.mbStatus (s : State) (n : Nat) : Nat :=
  let f := s.fn n
  pack [(1, bit f.cmdFull), (1, bit f.rspValid), (1, bit s.sys.restarting), (1, bit s.sys.bootFailed),
    (4, if s.sys.bootFailed then s.sys.bootReason else 0), (4, s.outstandingOf n), (1, bit f.dbIgnored), (3, 0), (16, f.lastSeq.toNat)]

/-- EV_RING_STATUS (R474). -/
def State.evRingStatus (s : State) (n : Nat) : Nat :=
  let f := s.fn n
  pack [(1, bit (f.ringK != 0)), (1, bit f.ringLost), (1, bit (s.xlate n).stopped)]

/-- The flash recovery status (R491). -/
def State.flashStatus (s : State) : Nat :=
  if s.sys.bootFailed then pack [(1, 1), (1, bit (s.sys.recoveryOp != 0)), (1, bit s.sys.recoveryError)] else 0

/-- A read of the flash recovery status. -/
def State.readFlashStatus (s : State) : State :=
  let s1 := s.returns s.flashStatus
  if s.sys.bootFailed then { s1 with sys := { s1.sys with recoveryError := false } } else s1

/-- A read of PC_CNTn's high word (R559); a VF reads 0 (R465). -/
def State.readOvf (s : State) (n : Nat) : State :=
  let c := rd s.host.perf n .init
  ({ s with host := { s.host with perf := wr s.host.perf n { c with ovf := false } } } : State).returns (c.hi + bit c.ovf * 2 ^ 31)

/-- The identification registers (R466). -/
def State.idWord (s : State) (n k : Nat) : Nat :=
  if k = 0 then pack [(16, 0x5124), (8, 0xA0), (8, 0)]
  else if k = 1 then pack [(7, n), (1, bit (n != 0)), (1, bit s.clk.siteId), (1, bit s.clk.pref), (22, 0)]
  else if k = 2 then s.sys.version.toNat
  else if k = 3 then pack [(4, s.sys.mode.num), (1, bit s.pair.held), (27, 0)]
  else if k = 4 then s.fuse 3072 32
  else if k = 5 then s.fuse 3104 32
  else if k = 6 then s.mask n
  else s.pair.epoch % 2 ^ 32

/-- A word of the MSI-X table (R595). -/
def Fn.msixWord (f : Fn) (v word : Nat) : Nat :=
  if word = 0 then fld (rd f.vAddr v 0) 0 32
  else if word = 1 then fld (rd f.vAddr v 0) 32 32
  else if word = 2 then fld (rd f.vData v 0) 0 32
  else bit (tb f.vMask.toNat v)

/-- PA_STATUS (R556). Between steps no burst holds the port. -/
def State.paStatus (s : State) : Nat :=
  pack [(3, 7), (5, 0), (7, bitmap ((List.range 7).filter (fun r => s.host.portWaits.any (fun w => decide (w.requester = r)))))]

/-- The PA_ registers (R556). -/
def State.paWord (s : State) (k : Nat) : Nat :=
  if k < 4 then (s.host.shadow[k]?).getD 0
  else if k = 4 then 2 * bit s.host.committed.isSome
  else if 8 ≤ k ∧ k < 12 then (s.host.active[k - 8]?).getD 0
  else if k = 12 then s.paStatus
  else 0

/-- The PC_ registers that a read does not change (R558, R559). -/
def State.pcWord (s : State) (o : Nat) : Nat :=
  let x (n : Nat) : PerfCtr := rd s.host.perf n .init
  if o = 0x2004 then s.clk.pcHi.toNat
  else if 0x2100 ≤ o ∧ o < 0x2140 then (let c := x ((o - 0x2100) / 8); if o % 8 = 0 then c.ctl else c.threshold)
  else 0

/-- What a word of a function's BAR0 reads as (R300, R465 to R474, R556 to R559, R595): WO fields and addresses that hold no register
read 0 (R6, R7), and so do the PF's blocks and TM_ADJ in a VF. -/
def State.bar0Word (s : State) (n o : Nat) : Nat :=
  let f := s.fn n
  if o < 0x20 then s.idWord n (o / 4)
  else if 0x100 ≤ o ∧ o < 0x140 then fld f.cmd.toNat (8 * (o - 0x100)) 32
  else if 0x140 ≤ o ∧ o < 0x180 then fld f.rsp.toNat (8 * (o - 0x140)) 32
  else if o = 0x184 then s.mbStatus n
  else if o = 0x188 then (s.domain n).cHead % 65536
  else if 0x200 ≤ o ∧ o < 0x228 then fld f.evStatus.toNat (8 * (o - 0x200)) 32
  else if 0x240 ≤ o ∧ o < 0x268 then fld f.evEnable.toNat (8 * (o - 0x240)) 32
  else if o = 0x280 then f.ringTail % 65536
  else if o = 0x284 then f.ringHead % 65536
  else if o = 0x288 then s.evRingStatus n
  else if o = 0x1000 then s.ns % 2 ^ 32
  else if o = 0x1004 then s.frame32
  else if o = 0x1008 then (if n = 0 then unsigned 32 s.ft.freq else 0)
  else if o = 0x100C then s.tmStatus
  else if o = 0x1010 then f.frameLat.toNat
  else if 0x2000 ≤ o ∧ o < 0x3000 then (if n = 0 then s.pcWord o else 0)
  else if 0x3000 ≤ o ∧ o < 0x4000 then (if n = 0 then s.paWord ((o - 0x3000) / 4) else 0)
  else if 0x8000 ≤ o ∧ o < 0x8030 then f.msixWord ((o - 0x8000) / 16) ((o - 0x8000) % 16 / 4)
  else if o = 0x8800 then f.vPend.toNat
  else 0

/-- A read of a word of BAR0: the value, and what the read does: RC fields clear (R7), TM_NS loads TM_FRAME_LAT (R301), a low word of a
count latches its high word (R558, R559). -/
def State.readBar0 (s : State) (n o : Nat) : State :=
  let s1 := s.returns (s.bar0Word n o)
  if o = 0x184 then s1.modFn n (fun f => { f with dbIgnored := false })
  else if o = 0x288 then s1.modFn n (fun f => { f with ringLost := false })
  else if o = 0x1000 then s1.modFn n (fun f => { f with frameLat := BitVec.ofNat 32 s.frame32 })
  else if n = 0 ∧ o = 0x2000 then s.readPcCycle
  else if n = 0 ∧ 0x2200 ≤ o ∧ o < 0x2240 then (if o % 8 = 0 then s.readCount ((o - 0x2200) / 8) else s.readOvf ((o - 0x2200) / 8))
  else s1

/-- The configuration space of a function (R461, R463, R447): constants, and the fields of State that it shows. SR-IOV stands in the PF
alone, and Advanced Error Reporting logs the errors of a VF there too. -/
def State.configField (s : State) (n : Nat) : CfgField → Nat
  | .vendorId | .subsystemVendorId => 0x1F4B
  | .deviceId => if n = 0 then 0x5124 else 0x5125
  | .classCode => 0x120000
  | .revisionId => 0xA0
  | .maxPayload => 512
  | .msixVectors => 3
  | .msixTable => 0x8000
  | .msixPba => 0x8800
  | .msixEnable => bit (s.fn n).msixEnable
  | .functionMask => bit (s.fn n).funcMask
  | .powerState => if (s.fn n).d3 then 3 else 0
  | .unsupportedRequest => if n = 0 then bit (s.host.fns.any (fun e => e.2.aerUr)) else 0
  | .initialVfs | .totalVfs => if n = 0 then 127 else 0
  | .firstVfOffset | .vfStride => if n = 0 then 1 else 0
  | .vfDeviceId => if n = 0 then 0x5125 else 0
  | .vfBar0Size => if n = 0 then 65536 else 0
  | .vfEnable => if n = 0 then bit s.host.vfEnable else 0
  | .serialNumber => s.fuse 3072 64

/-- A configuration request (R437, R488, R489): retried until the firmware, or the Boot ROM in its place, runs; answered in D3hot too. -/
def State.readConfig (s : State) (n : Nat) (f : CfgField) : State :=
  if !s.present n then s
  else if s.sys.mailboxOpen || s.sys.bootFailed then s.returns (s.configField n f)
  else s.emit (.configRetry n)

/-- A read returns an RC field and clears it. -/
def execClearedByRead (r : RcReg) (s : State) : Host.Outcome State Fault Refusal :=
  match r with
  | .bar0 fn off => if s.decodes fn.toNat && decide (off.toNat % 4 = 0) then .next (s.readBar0 fn.toNat off.toNat) else .next s
  | .config fn field => .next (s.readConfig fn.toNat field)
  | .mbStatus fn =>
    if s.decodes fn.toNat then .next ((s.returns (s.mbStatus fn.toNat)).modFn fn.toNat (fun f => { f with dbIgnored := false })) else .next s
  | .evRingStatus fn =>
    if s.decodes fn.toNat then .next ((s.returns (s.evRingStatus fn.toNat)).modFn fn.toNat (fun f => { f with ringLost := false })) else .next s
  | .pcOverflow fn n =>
    if !s.decodes fn.toNat then .next s else if fn = 0 then .next (s.readOvf n.toNat) else .next (s.returns 0)
  | .flashStatus => if s.decodes 0 then .next s.readFlashStatus else .next s

/-- An access that is not aligned and of 32 bits (R462): a write is discarded, a read returns all ones; AER logs it. (DEDUCED, log 59) -/
def execBarBadAccess (fn : BitVec 7) (write : Bool) (s : State) : Host.Outcome State Fault Refusal :=
  if !s.decodes fn.toNat then .next s
  else
    let s1 := s.modFn fn.toNat (fun f => { f with aerUr := true })
    .next (if write then s1 else s1.returns 0xFFFFFFFF)

/-! ## Register writes (R7, R465 to R474, R491, R556) -/

/-- A word of MB_CMD (R467, R470). -/
def State.writeCmd (s : State) (n word value : Nat) : State :=
  s.modFn n (fun f => { f with cmd := BitVec.ofNat 512 (setFld f.cmd.toNat (32 * word) 32 value) })

/-- A word of the MSI-X table (R595): a vector that becomes unmasked sends its pending message. (DESIGN CHOICE, log 62) -/
def State.writeMsix (s : State) (n v word value : Nat) : State :=
  let f := s.fn n
  if word = 0 then s.setFn n { f with vAddr := wr f.vAddr v (setFld (rd f.vAddr v 0) 0 32 value) }
  else if word = 1 then s.setFn n { f with vAddr := wr f.vAddr v (setFld (rd f.vAddr v 0) 32 32 value) }
  else if word = 2 then s.setFn n { f with vData := wr f.vData v value }
  else if tb value 0 then s.setFn n { f with vMask := f.vMask ||| BitVec.ofNat 3 (2 ^ v) }
  else (s.setFn n { f with vMask := f.vMask &&& ~~~(BitVec.ofNat 3 (2 ^ v)) }).sendPending n v

/-- A shadow register of the plate port arbiter (R556). (DESIGN CHOICE, log 62) -/
def State.writeShadow (s : State) (k value : Nat) : State :=
  let v := fld value 0 3 + (if k = 3 then 0 else fld value 16 3 * 65536)
  { s with host := { s.host with shadow := s.host.shadow.set k v } }

/-- OP of flash recovery (R491): any write while BUSY sets ERROR, and else an OP that names no operation does nothing. (DESIGN CHOICE, log 58) -/
def State.recoveryWrite (s : State) (op : Nat) : State :=
  if op = 4 then s.repeatBoot else if (1 ≤ op ∧ op ≤ 3) ∨ s.sys.recoveryOp ≠ 0 then s.recovery op else s

/-- A write to BAR2 (R490, R491): only flash recovery can be written. -/
def State.writeBar2 (s : State) (off value : Nat) : State :=
  if !s.sys.bootFailed then s
  else if off = 0x300000 then { s with sys := { s.sys with sector := BitVec.ofNat 13 (fld value 12 13) } }
  else if off = 0x300004 then s.recoveryWrite (value % 8)
  else if 0x301000 ≤ off ∧ off < 0x302000 then
    { s with sys := { s.sys with recoveryBuf := Mem.store 0 s.sys.recoveryBuf (off - 0x301000) (bytesLE 4 value) } }
  else s

/-- A write of a register of a function's BAR0, or of BAR2 of the PF. Registers that are read-only, and addresses that hold none,
ignore it. -/
def execRegisterWrite (fn : BitVec 7) (bar2 : Bool) (off : BitVec 22) (value : W32) (s : State) : Host.Outcome State Fault Refusal :=
  let n := fn.toNat
  let o := off.toNat
  let v := value.toNat
  if !s.decodes n || decide (o % 4 ≠ 0) then .next s
  else if bar2 then (if n = 0 then .next (s.writeBar2 o v) else .next s)
  else if 0x100 ≤ o ∧ o < 0x140 then .next (s.writeCmd n ((o - 0x100) / 4) v)
  else if o = 0x180 then .next (s.doorbell n (BitVec.ofNat 16 v))
  else if o = 0x188 then execQdCplHead fn value s
  else if o = 0x18C then .next (s.ackRsp n v)
  else if 0x200 ≤ o ∧ o < 0x228 then .next (s.clearEv n ((o - 0x200) / 4) v)
  else if o = 0x284 then .next (s.modFn n (fun f => { f with ringHead := v % 65536 }))
  else if o = 0x1008 then execTmAdj fn value s
  else if 0x3000 ≤ o ∧ o < 0x3010 then (if n = 0 then .next (s.writeShadow ((o - 0x3000) / 4) v) else .next s)
  else if o = 0x3010 then (if n = 0 then .next (s.paCommit v) else .next s)
  else if 0x4000 ≤ o ∧ o < 0x4800 then execQdTail fn (BitVec.ofNat 9 ((o - 0x4000) / 4)) value s
  else if 0x8000 ≤ o ∧ o < 0x8030 then .next (s.writeMsix n ((o - 0x8000) / 16) ((o - 0x8000) % 16 / 4) v)
  else .next s

/-! ## BAR2 windows (R490) -/

/-- A 32-bit word from the bytes of a store. -/
def word32 (f : Nat → Byte) (a : Nat) : Nat := ofBytesLE ((List.range 4).map (fun k => f (a + k)))

/-- A word of the plate store through the debug path; an uncorrectable one reads as all ones and raises PLATE_ECC_UNCORR (R490), a single-bit
error is corrected (R192). (DESIGN CHOICE, log 33) -/
def State.plateWord (s : State) (a : Nat) : State :=
  if s.badIn (a / 4096) (a % 4096) 4 then (s.returns 0xFFFFFFFF).raise 11 .m { unit := a / 4096 }
  else (s.returns (word32 (Mem.byte plateDefault s.burin.store) a)).eccCorrect (a / 4096) (a % 4096) 4

/-- A read of BAR2 of the PF. (DESIGN CHOICE, log 33; DESIGN CHOICE, log 58) -/
def execBar2WindowRead (fn : BitVec 7) (off : BitVec 22) (s : State) : Host.Outcome State Fault Refusal :=
  let o := off.toNat
  let off_ := s.sys.mode == .reset || s.sys.mode == .boot
  if fn ≠ 0 || !s.decodes 0 || decide (o % 4 ≠ 0) then .next s
  else if o < 0x200000 then .next (if off_ then s.returns 0 else (s.busAccess 9 false .plateStore).plateWord o)
  else if o < 0x2A0000 then
    let a := o - 0x200000
    .next (if off_ then s.returns 0 else (s.busAccess 9 false .channelState).returns (fld (s.cs (a / 64)).toNat (8 * (a % 64)) 32))
  else if o = 0x300000 then .next (s.returns (if s.sys.bootFailed then s.sys.sector.toNat * 4096 else 0))
  else if o = 0x300008 then .next s.readFlashStatus
  else if 0x301000 ≤ o ∧ o < 0x302000 ∧ s.sys.bootFailed then
    .next (s.returns (word32 (Mem.byte 0 s.sys.recoveryBuf) (o - 0x301000)))
  else .next (s.returns 0)

/-! ## Board management (R581, R582) -/

/-- The content of a command code, as a Read Byte, Read Word or Block Read (R582). (DESIGN CHOICE, log 58) -/
def State.smbusData (s : State) (op : SmbusOp) (code : Nat) : Option (List Byte) :=
  let temps := s.loops.temps
  match op with
  | .write => none
  | .readByte =>
    if code = 1 then
      some (bytesLE 1 (pack [(4, s.sys.mode.num), (1, bit s.pair.held), (1, bit s.faults.healthy), (1, bit s.faults.thermalLimit),
        (1, bit s.supplyStands)]))
    else none
  | .readWord =>
    if code = 0 then some (bytesLE 2 0x5124)
    else if code = 2 then some (bytesLE 2 (unsigned 16 (temps.foldl max (-640))))
    else if 0x10 ≤ code ∧ code < 0x30 then some (bytesLE 2 (unsigned 16 ((temps[code - 0x10]?).getD 0)))
    else if 0x30 ≤ code ∧ code < 0x48 then some (bytesLE 2 ((s.faults.volts[code - 0x30]?).getD 0))
    else none
  | .blockRead =>
    if code = 0x50 then some (bytesLE 8 (s.fuse 3072 64))
    else if code = 0x51 then some (s.faults.report.take 32)
    else none

/-- The target's address. -/
def State.smbusAddr (s : State) : Nat := if s.clk.siteId then 0x5B else 0x5A

/-- A transaction: the target answers at its address, and at the Alert Response Address while SMBALERT_N is low; it answers
none in Reset. (DESIGN CHOICE, log 58) -/
def execSmbusRead (addr : BitVec 7) (op : SmbusOp) (cmd : BitVec 8) (s : State) : Host.Outcome State Fault Refusal :=
  if s.sys.mode == .reset then .next (s.emit (.smbus none))
  else if addr.toNat = s.smbusAddr then .next (s.emit (.smbus (s.smbusData op cmd.toNat)))
  else if addr = 0x0C ∧ op = .readByte ∧ s.smbalertN = false then .next (s.emit (.smbus (some (bytesLE 1 (2 * s.smbusAddr)))))
  else .next (s.emit (.smbus none))

/-- The clock stays low: the target abandons the transaction, which ends without data. (DESIGN CHOICE, log 58) -/
def execSmbusClockLowTimeout (s : State) : Host.Outcome State Fault Refusal := .next (s.emit (.smbus none))

/-! ## The debug port (R449, R545) -/

/-- A byte of the tightly coupled memory: the one that a debug write has set, or what stands there. (DESIGN CHOICE, log 5) -/
def State.tcmAt (s : State) (a : Nat) : Byte := (find? s.sys.tcm a).getD (Config.tcmByte a)

/-- A debug read of a target. Slot bank B stands above bank A. The register map of the configuration target is not given. (DESIGN CHOICE, log 9; DESIGN CHOICE, log 58) -/
def State.debugRead (s : State) (t : BusTarget) (a : Nat) : State :=
  match t with
  | .plateStore => if a < 2 ^ 21 then s.plateWord a else s.returns 0
  | .queueState => s.returns (fld (s.queue (a / 16 / 512) (a / 16 % 512)).word.toNat (8 * (a % 16)) 32)
  | .channelState => s.returns (fld (s.cs (a / 64)).toNat (8 * (a % 64)) 32)
  | .hatch => s.returns (fld (s.hatchRow (a / 32)) (8 * (a % 32)) 32)
  | .tcm => s.returns (word32 s.tcmAt a)
  | .slotTable => s.returns (fld (s.slotEntry (decide (4096 ≤ a)) (a % 4096 / 8)) (8 * (a % 8)) 32)
  | .config => let f := s.fresh; f.2.returns (Config.freeNat f.1 % 2 ^ 32)
  | .flash => s.returns (word32 (Mem.byte flashDefault s.sys.flash) a)
  | .fuse => s.returns (fld s.sys.fuses.toNat (8 * a) 32)
  | .none => s

/-- Four bytes of the tightly coupled memory are written. (DESIGN CHOICE, log 5) -/
def State.tcmWrite (s : State) (a value : Nat) : State :=
  { s with sys := { s.sys with tcm := ((bytesLE 4 value).foldl (fun (t : Mem × Nat) b => (wr t.1 t.2 b, t.2 + 1)) (s.sys.tcm, a)).1 } }

/-- A JTAG access of the DBG master: with DEBUG_LOCK clear, in Service and Isolated only. A debug write reaches the tightly coupled
memory; what it does to a configuration register is not given. (DESIGN CHOICE, log 58) -/
def execJtagDebugAccess (write : Bool) (target : BusTarget) (addr : Nat) (value : W32) (s : State) : Host.Outcome State Fault Refusal :=
  if s.fuse 2816 1 = 1 || !(s.sys.mode == .service || s.sys.mode == .isolated) then .next s
  else if !busPermits 9 write target then .next (s.emit (.busError 9))
  else
    let s1 := s.busAccess 9 write target
    if write then (if target = .tcm then .next (s1.tcmWrite addr value.toNat) else .next s1)
    else .next (s1.debugRead target addr)

end Sys2Proof.Machine
end

