-- ==== Sys2Proof/Machine/Frame.lean ====
section
/-! DEFINITION. The frame (R17 to R26): the commit point, and the tick with everything that changes together at it. -/

namespace Sys2Proof.Machine

/-! ## Settings that take effect at a tick (R26) -/

/-- DOMAIN_CONFIG OP 0 (R513): a domain that becomes enabled takes every setting now and starts with full buckets; else rates
and depths wait for the next refill (R271). -/
def Domain.policy (x : Domain) (payload : Nat) : Domain :=
  let f (lo w : Nat) : Nat := fld payload lo w
  let cir := f 32 24
  let pir := f 64 24
  let cbs := f 88 16
  let pbs := f 104 16
  let x1 : Domain := { x with enable := tb payload 16, police := tb payload 17, impressEn := tb payload 18, weight := max 1 (f 24 8),
                              first := f 128 16, count := f 144 16 }
  if x1.enable && !x.enable then
    { x1 with cir := cir, pir := pir, cbs := cbs, pbs := pbs, nextRates := none, balC := (cbs * 256 : Nat), balP := (pbs * 256 : Nat) }
  else { x1 with nextRates := some (cir, pir, cbs, pbs) }

/-- DOMAIN_CONFIG OP 1 (R513). -/
def Domain.ring (x : Domain) (base k : Nat) : Domain := { x with cBase := base, cK := k, cWrite := 0, cHead := 0, cPhase := true }

/-- RING of R254 with its reserved bits 0. (DESIGN CHOICE, log 62) -/
def ringField (v : Nat) : Nat := fld v 0 5 + fld v 12 36 * 2 ^ 12

/-- A write of QUEUE_CONFIG (R516): a queue that becomes enabled starts empty. -/
def Queue.config (q : Queue) (ring : Nat) : Queue :=
  if tb ring 4 && !q.on then { Queue.init with word := BitVec.ofNat 128 (ringField ring) } else q.put 0 64 (ringField ring)

/-- Thresholds (R539, OP 2). -/
def State.thresholds (s : State) (word value : Nat) : State :=
  let g := fld word 24 8
  { s with faults := { s.faults with
    tempHigh := fld word 0 16, procDrift := fld word 16 8,
    vhtrNominal := if g < 8 then wr s.faults.vhtrNominal g (value % 65536) else s.faults.vhtrNominal } }

/-- KI or PP_KI of a bandwidth in hertz (R158, R176). -/
def bandwidthGain (hz : Nat) : Nat := (roundDiv (hz * 823545 : Nat) 1000000).toNat

/-- An item of LOOP_CONFIG on one channel, DRIVE_RANGE apart (R518). Values are truncated to their fields (R147). (DEDUCED, log 34; DESIGN CHOICE, log 62) -/
def State.loopItem (s : State) (item size offset v v2 i : Nat) : State :=
  let w := s.cs i
  let thermal := decide (4608 ≤ i) && s.drivePresent i
  if item = 1 then s.setCs i (cpb w 0 2 1 (v % 2))
  else if item = 2 ∧ thermal then s.setCs i (cpb w 0 3 1 (v % 2))
  else if item = 3 ∧ thermal then s.setCs i (cp w (if i < 9216 then 0x30 else 0x1C) 2 (bandwidthGain v % 65536))
  else if item = 5 ∧ 4608 ≤ i ∧ s.slew then s.modDch i (fun c => { c with step := v % 4096 + 1, rate := v2 % 256 + 1 })
  else if item = 6 ∧ thermal then s.writeTia (senseOf i) (v % 4)
  else if item = 7 then
    let w1 := cp w offset size (v % 2 ^ (8 * size)) &&& ~~~csReserved i
    let s1 := s.setCs i w1
    -- a change of ψ restarts both states of a cell (R162)
    if thermal ∧ i < 9216 ∧ cg w 0x16 2 ≠ cg w1 0x16 2 then s1.restartCell i else s1
  else s

/-- DRIVE_RANGE of a command on one channel (R77 to R79, R518). (DEDUCED, log 29) -/
def State.rangeItem (s : State) (c : CmdRef) (v i : Nat) : State :=
  if i < 4608 then s
  else
    let held := (s.dch i).hold.isSome
    let s1 := s.rangeAt i (v % 4)
    if held then s1.modDch i (fun d => { d with rangeWait := d.rangeWait ++ [c] })
    else if (s1.dch i).hold.isSome then s1.modDch i (fun d => { d with rangeCmds := [c] })
    else s1

/-- Rows of the hatch matrix (R166). -/
def State.hatchRows (s : State) (first : Nat) (bytes : List Byte) : State :=
  { s with loops := { s.loops with
    hatch := (List.range (bytes.length / 32)).foldl (fun t k =>
      wr t (first + k) (BitVec.ofNat 256 (fieldB bytes (32 * k) 32))) s.loops.hatch } }

/-- The reserved bytes of ADDRESS and of CLIENT are 0 (R6, R531). -/
def addressField (v : Nat) : Nat := fld v 0 40 + fld v 64 136 * 2 ^ 64

/-- PAIR_CONFIG (R364, R531). -/
def State.pairItem (s : State) (item index v : Nat) : State :=
  let p := s.pair
  if item = 1 then { s with pair := { p with solo := tb v 0 } }
  else if item = 2 then { s with pair := { p with enable := tb v 0 } }
  else if item = 3 then s.selectRef (tb v 0)
  else if item = 4 then { s with pair := { p with revertDelay := v % 2 ^ 32 } }
  else if item = 5 then { s with pair := { p with swapInterval := v % 2 ^ 32 } }
  else if item = 6 then { s with pair := { p with addresses := wr p.addresses index (addressField v) } }
  else { s with pair := { p with clients := wr p.clients index (fld v 0 160) } }

/-- PERF_CONFIG (R541, R559): CLEAR sets the count to 0. (DESIGN CHOICE, log 64) -/
def State.perfItem (s : State) (n ctl threshold : Nat) (clear : Bool) : State :=
  let x := rd s.host.perf n .init
  { s with host := { s.host with
    perf := wr s.host.perf n { x with ctl := ctl, threshold := threshold, count := if clear then 0 else x.count } } }

/-- A descriptor takes effect (R63, R67, R439): range changes of channels that it makes idle count as released, and the
command completes, or its record is written. The default tones that the first Standby could not assign follow here (R161).
(DEDUCED, log 31) -/
def State.descriptorOp (s : State) (c : CmdRef) (persist : Bool) (bytes : List Byte) : State :=
  let cmds := (s.drive.ch.flatMap (fun e => e.2.rangeCmds ++ e.2.rangeWait)).dedup
  let s1 : State := { s with desc := { s.desc with inInterval := s.desc.inInterval || s.bootInterval } }
  let s2 := (s1.takeDescriptor bytes).rangeDone cmds
  let s2 := when (s.sys.standbySeen && !s.loops.toneAssigned) State.defaultTones s2
  if persist then s2.flashJob (.descriptor bytes c) else s2.answerAt s2.clk.tickTime c stOk 0 0 []

/-- A setting takes effect at this tick, before the codes of the tick apply. `win` is the rank of the change of mode that is
performed (R434). -/
def State.settingOp (s : State) (win : Nat) (o : TickOp) : State :=
  match o with
  | .freq v => { s with ft := { s.ft with freq := v } }
  | .time item port value => s.timeItem item port value
  | .gate batch budget wait =>
    { s with sched := { s.sched with batchMax := orKeep batch s.sched.batchMax, budget := orKeep budget s.sched.budget,
                                     deferMax := orKeep wait s.sched.deferMax } }
  | .domain d payload => s.setDomain d ((s.domain d).policy payload)
  | .ring d base k => s.setDomain d ((s.domain d).ring base k)
  | .queue c d i ring =>
    let q := (s.queue d i).config ring
    (s.setQueue d i q).answerAt s.clk.tickTime c stOk 0 0 [(0, q.word.toNat)]
  | .evEnable n word mask bits => s.modFn n (fun f => { f with evEnable := enableWord f.evEnable word mask bits })
  | .evRing n base k => s.modFn n (fun f => { f with ringBase := base, ringK := k, ringTail := 0, ringHead := 0 })
  | .thresholds word value => s.thresholds word value
  | .loop c first count item size offset value value2 =>
    if item = 4 then s
    else ((List.range count).foldl (fun t j => t.loopItem item size offset value value2 (first + j)) s).answerAt s.clk.tickTime c stOk 0 0 []
  | .tones l => l.foldl (fun t e => t.setTone e.1 e.2.1 e.2.2.1 e.2.2.2) s
  | .toneDefault => s.defaultTones
  | .hatch first bytes => s.hatchRows first bytes
  | .calPolicy temp powerup persist dt =>
    { s with cal := { s.cal with tempTrigger := temp, powerup := powerup, persist := persist, dt := dt } }
  | .pair item index value => s.pairItem item index value
  | .perf n ctl threshold clear => s.perfItem n ctl threshold clear
  | .slots bank first entries => s.writeSlots bank first entries
  | .descriptor c persist bytes => s.descriptorOp c persist bytes
  | .setMode _ _ | .overflowHold | .enter _ => s.modeOp win o
  | .modeDone c => s.modeDone c
  | .calForce n => s.calForce n
  | .calStart n => s.calBegin n
  | .fabricEnd => when s.pair.held (fun t => t.restImage.restartLoops) s
  | .spareBack g => s.returnSpare g
  | .captureEnd => s.stopCapture
  | .imageInstall => s.imageTick
  | .loopsetInstall => s.loopsetTick
  | _ => s

/-! ## What follows the codes of the tick -/

/-- A TIA range that a loop engine steps (R128, R181): an up-step of a tap that a proof uses waits (R182), and a channel under calibration keeps the range of its step (R138). (DEDUCED, log 32) -/
def State.tiaStep (s : State) (x range : Nat) : State :=
  if (find? s.sense.rangeBack x).isSome then s
  else if range ≤ (s.sch x).range then s.setTia x range
  else if s.proofTaps.contains x then s.due (.tiaRange x range)
  else if range = (s.sch x).range + 1 then s.setTia x range
  else s

/-- The channel states of a LOOP_READ (R519), as they stand at this tick. -/
def State.loopBytes (s : State) (first count : Nat) : List Byte :=
  (List.range count).flatMap (fun j => bytesLE 64 ((s.tickStatus (first + j)).cs (first + j)).toNat)

/-- A PLATE_READ copy starts at this tick (R505). (DEDUCED, log 39) -/
def State.startCopy (s : State) (c : CmdRef) (iova plate offset len : Nat) : State :=
  let r := s.fresh
  { r.2 with host := { r.2.host with copies := r.2.host.copies ++
    [{ cmd := c, iova := iova, plate := plate, offset := offset, before := s.plateBytes plate offset len, ordinal := r.1 }] } }

/-- The in-service run of a group whose spare stands in for its core is abandoned when the spare is needed for a failed core (R376). -/
def State.retireFor (s : State) (kind index reason : Nat) : State :=
  let g := index / 17
  let inRun := match find? s.sense.spare g with | some (_, false) => (s.scope g).running.isSome | _ => false
  (when (decide (kind = 4 ∧ index < 136) && inRun) (fun t => t.abandonRun g) s).retireAt kind index reason

/-- An ECC error (R192; sources 8 and 9 of R391). A queue state word resets its queue as QUEUE_RESET does. (DEDUCED, log 66) -/
def State.eccError (s : State) (e : EccError) : State :=
  match e with
  | .corrected => s.raise 8 .m
  | .channel i => if i < 10240 then s.fail 1 i 10 s.clk.frame [9] true false else s
  | .queue d i => if d < 128 ∧ i < 512 then (s.resetQueue d i).raise 9 .m else s
  | .plate w double =>
    if 262144 ≤ w then s
    else if double then { s with burin := { s.burin with badWords := w :: s.burin.badWords.erase w, softWords := s.burin.softWords.erase w } }
    else if s.burin.badWords.contains w then s
    else { s with burin := { s.burin with softWords := w :: s.burin.softWords.erase w } }

/-- A change of this tick that follows the codes and the impression of the tick: range changes (R77), retirements, which pin
the applied state (R372), what reads the state of the tick, and the responses that are due. (DESIGN CHOICE, log 18) -/
def State.lateOp (s : State) (o : TickOp) : State :=
  match o with
  | .answer c status flags done payload => s.answerAt s.clk.tickTime c status flags done payload
  | .loop c first count item _ _ value _ =>
    if item = 4 then ((List.range count).foldl (fun t j => t.rangeItem c value (first + j)) s).rangeDone [c] else s
  | .retire kind index reason => s.retireFor kind index reason
  | .restore kind index => s.restoreAt kind index
  | .tiaRange x range => s.tiaStep x range
  | .capture c iova pair index filter range => s.startCapture c iova pair index filter range
  | .loopRead c iova first count => s.bufferOut c iova (s.loopBytes first count) []
  | .timeStatus c iova len => s.bufferOut c iova (if len = 0 then [] else s.timeDetail) s.timeReply
  | .plateCopy c iova plate offset len => s.startCopy c iova plate offset len
  | _ => s

/-! ## The commit point and the tick -/

/-- The work of the commit point (R23, R25, R233, R348), once in a frame. (DESIGN CHOICE, log 23) -/
def State.commit (s : State) : State := if s.clk.committed then s else s.swapCommit.overruns.commitWork

/-- The commit point: 24 cycles before the tick. (DESIGN CHOICE, log 23) -/
def execCommitPoint (s : State) : Host.Outcome State Fault Refusal :=
  if !s.runs then .next s else .next (s.atCycle (s.frameLen - 24)).commit

/-- The frame ends: its messages leave (R267, R475), and the mirror load is counted (R560). (DESIGN CHOICE, log 18; DESIGN CHOICE, log 64) -/
def State.endFrame (s : State) : State :=
  let s1 := s.frameMessages.tallyIf 0x700 (fun n => decide (n < s.mirror.txBytes)) 1
  { s1 with mirror := { s1.mirror with txBytes := 0 },
            loops := { s1.loops with prevState := match s1.imp.applied with | some p => p.cells | none => 0 } }

/-- The changes that are due are taken out. (DESIGN CHOICE, log 18) -/
def State.takeDue (s : State) : State := { s with atTick := [] }

/-- The settings and the mode of the tick, and the first tick of a lease. A step that is accepted has met its tick (R308). (DESIGN CHOICE, log 18) -/
def State.tickSettings (s : State) (l : List TickOp) : State :=
  let s1 := (l.foldl (fun t o => t.settingOp (winningRank l) o) s).leaseTick.swapChoose.slotTick.startupPhase
  { s1 with ft := { s1.ft with step := s1.ft.step.map (fun q => { q with armed := true }) } }

/-- The codes of the tick apply, and the impression that the commit point fixed takes effect (R22, R235). (DESIGN CHOICE, log 18) -/
def State.tickCodes (s : State) : State :=
  let s1 := s.checkFixed.fabricTick
  ((if s1.pair.held then s1.driveTick else s1.driveIdle).applyFixed.discardStale.strictLate.startReads.armWaiting).setRate

/-- What the units of the module do in the frame that begins: steps of calibration, path tests, the scan, proof requests,
fetches, the loops on the samples of frame k. (DESIGN CHOICE, log 18) -/
def State.tickUnits (s : State) (inp : TickIn) (k : Nat) : State :=
  (s.calTick.pathTests.startCores.locateTick.proofTick.engineBudget inp).loopFrame inp k

/-- What firmware and the mirror link do at a tick. (DESIGN CHOICE, log 18) -/
def State.tickMessages (s : State) : State := s.timedTick.fetchAll.recordTick.mirrorTick.tryActivate.takeWaiting

/-- The tick (R17, R22, R26). The commit point has passed when it comes. (DESIGN CHOICE, log 18; DESIGN CHOICE, log 23) -/
def execFrameTick (i : TickIn) (s : State) : Host.Outcome State Fault Refusal :=
  if !s.runs then .next s
  else
    let s1 := s.commit.endFrame
    let s2 := s1.toNextFrame.takeDue.heartbeat.swapBanks.tempTick i.temps
    let s3 := i.ecc.foldl State.eccError (s2.tickSettings s1.atTick)
    let s4 := s3.tickCodes.latchLoads s3 i.charge
    .next ((s1.atTick.foldl State.lateOp s4).rangeWaits.tickUnits i s1.clk.frame).tickMessages

end Sys2Proof.Machine
end

