-- ==== Sys2Proof/Machine/Dispatch.lean ====
section
/-! DEFINITION. One arm per command: the effect of a command on everything but the queue. -/

namespace Sys2Proof.Machine

/-- The effect of a command. -/
def exec (i : Instr) (s : State) : Host.Outcome State Fault Refusal :=
  match i with
  | .getInfo c => Sys2Proof.Machine.execGetInfo c s
  | .getHealth c => Sys2Proof.Machine.execGetHealth c s
  | .setMode c => Sys2Proof.Machine.execSetMode c s
  | .loadDescriptor c => Sys2Proof.Machine.execLoadDescriptor c s
  | .readDescriptor c => Sys2Proof.Machine.execReadDescriptor c s
  | .plateWrite c => Sys2Proof.Machine.execPlateWrite c s
  | .plateRead c => Sys2Proof.Machine.execPlateRead c s
  | .plateRoute c => Sys2Proof.Machine.execPlateRoute c s
  | .plateRouteDelta c => Sys2Proof.Machine.execPlateRouteDelta c s
  | .impress c => Sys2Proof.Machine.execImpress c s
  | .proofRead c => Sys2Proof.Machine.execProofRead c s
  | .slotTableWrite c => Sys2Proof.Machine.execSlotTableWrite c s
  | .slotTableSwap c => Sys2Proof.Machine.execSlotTableSwap c s
  | .gateConfig c => Sys2Proof.Machine.execGateConfig c s
  | .domainConfig c => Sys2Proof.Machine.execDomainConfig c s
  | .queueConfig c => Sys2Proof.Machine.execQueueConfig c s
  | .queueReset c => Sys2Proof.Machine.execQueueReset c s
  | .loopConfig c => Sys2Proof.Machine.execLoopConfig c s
  | .loopRead c => Sys2Proof.Machine.execLoopRead c s
  | .toneAssign c => Sys2Proof.Machine.execToneAssign c s
  | .hatchLoad c => Sys2Proof.Machine.execHatchLoad c s
  | .channelRead c => Sys2Proof.Machine.execChannelRead c s
  | .channelForce c => Sys2Proof.Machine.execChannelForce c s
  | .channelRetire c => Sys2Proof.Machine.execChannelRetire c s
  | .channelRestore c => Sys2Proof.Machine.execChannelRestore c s
  | .calRun c => Sys2Proof.Machine.execCalRun c s
  | .calStatus c => Sys2Proof.Machine.execCalStatus c s
  | .calPolicy c => Sys2Proof.Machine.execCalPolicy c s
  | .timeConfig c => Sys2Proof.Machine.execTimeConfig c s
  | .timeStatus c => Sys2Proof.Machine.execTimeStatus c s
  | .pairConfig c => Sys2Proof.Machine.execPairConfig c s
  | .pairStatus c => Sys2Proof.Machine.execPairStatus c s
  | .pairSwap c => Sys2Proof.Machine.execPairSwap c s
  | .refereeConfig c => Sys2Proof.Machine.execRefereeConfig c s
  | .fwStage c => Sys2Proof.Machine.execFwStage c s
  | .fwActivate c => Sys2Proof.Machine.execFwActivate c s
  | .fuseRead c => Sys2Proof.Machine.execFuseRead c s
  | .fuseProgram c => Sys2Proof.Machine.execFuseProgram c s
  | .eventConfig c => Sys2Proof.Machine.execEventConfig c s
  | .faultLogRead c => Sys2Proof.Machine.execFaultLogRead c s
  | .perfConfig c => Sys2Proof.Machine.execPerfConfig c s
  | .xlateConfig c => Sys2Proof.Machine.execXlateConfig c s
  | .xlateResume c => Sys2Proof.Machine.execXlateResume c s
  | .mgmtDatagram port d => Sys2Proof.Machine.execMgmtDatagram port d s
  | .mbRspAck fn value => Sys2Proof.Machine.execMbRspAck fn value s
  | .qdTail fn queue value => Sys2Proof.Machine.execQdTail fn queue value s
  | .qdCplHead fn value => Sys2Proof.Machine.execQdCplHead fn value s
  | .tmNsRead fn => Sys2Proof.Machine.execTmNsRead fn s
  | .tmAdj fn value => Sys2Proof.Machine.execTmAdj fn value s
  | .evStatusClear fn word value => Sys2Proof.Machine.execEvStatusClear fn word value s
  | .evRingHead fn value => Sys2Proof.Machine.execEvRingHead fn value s
  | .paCommit fn value => Sys2Proof.Machine.execPaCommit fn value s
  | .pcCycleLoRead fn => Sys2Proof.Machine.execPcCycleLoRead fn s
  | .countLoRead fn n => Sys2Proof.Machine.execCountLoRead fn n s
  | .clearedByRead r => Sys2Proof.Machine.execClearedByRead r s
  | .msixUnmask fn vector => Sys2Proof.Machine.execMsixUnmask fn vector s
  | .barBadAccess fn write => Sys2Proof.Machine.execBarBadAccess fn write s
  | .registerWrite fn bar2 off value => Sys2Proof.Machine.execRegisterWrite fn bar2 off value s
  | .flashEraseSector => Sys2Proof.Machine.execFlashEraseSector s
  | .flashProgramSector => Sys2Proof.Machine.execFlashProgramSector s
  | .flashReadSector => Sys2Proof.Machine.execFlashReadSector s
  | .repeatBoot => Sys2Proof.Machine.execRepeatBoot s
  | .flashOpDone ok => Sys2Proof.Machine.execFlashOpDone ok s
  | .flashWriteDone ok => Sys2Proof.Machine.execFlashWriteDone ok s
  | .rstNAssert => Sys2Proof.Machine.execRstNAssert s
  | .rstNRelease siteId pref clkMode => Sys2Proof.Machine.execRstNRelease siteId pref clkMode s
  | .lpllLock => Sys2Proof.Machine.execLpllLock s
  | .bootComplete => Sys2Proof.Machine.execBootComplete s
  | .clockLoss interconnectRuns => Sys2Proof.Machine.execClockLoss interconnectRuns s
  | .ethrefLoss => Sys2Proof.Machine.execEthrefLoss s
  | .coreSupplyCollapse => Sys2Proof.Machine.execCoreSupplyCollapse s
  | .vddLeaseLoss => Sys2Proof.Machine.execVddLeaseLoss s
  | .flrVf fn => Sys2Proof.Machine.execFlrVf fn s
  | .flrPf => Sys2Proof.Machine.execFlrPf s
  | .conventionalReset => Sys2Proof.Machine.execConventionalReset s
  | .vfEnable on => Sys2Proof.Machine.execVfEnable on s
  | .powerStateChange fn d3 => Sys2Proof.Machine.execPowerStateChange fn d3 s
  | .masterResetMidBurst master => Sys2Proof.Machine.execMasterResetMidBurst master s
  | .busErrorAccess master write target => Sys2Proof.Machine.execBusErrorAccess master write target s
  | .frameTick inp => Sys2Proof.Machine.execFrameTick inp s
  | .commitPoint => Sys2Proof.Machine.execCommitPoint s
  | .conversionBoundary core raw => Sys2Proof.Machine.execConversionBoundary core raw s
  | .readbackConversion conv r => Sys2Proof.Machine.execReadbackConversion conv r s
  | .rangeChangeRelease channel => Sys2Proof.Machine.execRangeChangeRelease channel s
  | .snapshotComplete => Sys2Proof.Machine.execSnapshotComplete s
  | .proofResult => Sys2Proof.Machine.execProofResult s
  | .localisationEnd => Sys2Proof.Machine.execLocalisationEnd s
  | .slotLatch => Sys2Proof.Machine.execSlotLatch s
  | .slotStart => Sys2Proof.Machine.execSlotStart s
  | .tokenRefill => Sys2Proof.Machine.execTokenRefill s
  | .healthReport => Sys2Proof.Machine.execHealthReport s
  | .voltSample v => Sys2Proof.Machine.execVoltSample v s
  | .procMonitorCount v => Sys2Proof.Machine.execProcMonitorCount v s
  | .calTempCheck => Sys2Proof.Machine.execCalTempCheck s
  | .calStart => Sys2Proof.Machine.execCalStart s
  | .calInForce scope d => Sys2Proof.Machine.execCalInForce scope d s
  | .startupCalEnd => Sys2Proof.Machine.execStartupCalEnd s
  | .captureEnd => Sys2Proof.Machine.execCaptureEnd s
  | .descriptorFetched dom queue descs => Sys2Proof.Machine.execDescriptorFetched dom queue descs s
  | .descriptorCheck dom queue => Sys2Proof.Machine.execDescriptorCheck dom queue s
  | .arbitrationDecision => Sys2Proof.Machine.execArbitrationDecision s
  | .batchSubmit => Sys2Proof.Machine.execBatchSubmit s
  | .routeJobStart => Sys2Proof.Machine.execRouteJobStart s
  | .routeJobComplete traceFails => Sys2Proof.Machine.execRouteJobComplete traceFails s
  | .completionWrite dom => Sys2Proof.Machine.execCompletionWrite dom s
  | .hdmaBurst => Sys2Proof.Machine.execHdmaBurst s
  | .translationWalkDone dom w => Sys2Proof.Machine.execTranslationWalkDone dom w s
  | .faultEntryHandled => Sys2Proof.Machine.execFaultEntryHandled s
  | .go port now => Sys2Proof.Machine.execGo port now s
  | .arm port f now => Sys2Proof.Machine.execArm port f now s
  | .renew port f now => Sys2Proof.Machine.execRenew port f now s
  | .disarm port f now => Sys2Proof.Machine.execDisarm port f now s
  | .refStatus port f now => Sys2Proof.Machine.execRefStatus port f now s
  | .refLinkDown port now => Sys2Proof.Machine.execRefLinkDown port now s
  | .refIsolated port now => Sys2Proof.Machine.execRefIsolated port now s
  | .leaseEnd now => Sys2Proof.Machine.execLeaseEnd now s
  | .claimSend now => Sys2Proof.Machine.execClaimSend now s
  | .statusSend port now => Sys2Proof.Machine.execStatusSend port now s
  | .heartbeatStale now => Sys2Proof.Machine.execHeartbeatStale now s
  | .recoveredClockLoss now => Sys2Proof.Machine.execRecoveredClockLoss now s
  | .refereeStart now => Sys2Proof.Machine.execRefereeStart now s
  | .refereeClaim f now => Sys2Proof.Machine.execRefereeClaim f now s
  | .refereeRelease site now => Sys2Proof.Machine.execRefereeRelease site now s
  | .refereeStatusDriving f now => Sys2Proof.Machine.execRefereeStatusDriving f now s
  | .refereeExpiry now => Sys2Proof.Machine.execRefereeExpiry now s
  | .refereeArm now => Sys2Proof.Machine.execRefereeArm now s
  | .refereeGo now => Sys2Proof.Machine.execRefereeGo now s
  | .mirrorFrame h m => Sys2Proof.Machine.execMirrorFrame h m s
  | .mirrorImpression h m => Sys2Proof.Machine.execMirrorImpression h m s
  | .mirrorRequest h m => Sys2Proof.Machine.execMirrorRequest h m s
  | .mirrorCompletion h dom index record => Sys2Proof.Machine.execMirrorCompletion h dom index record s
  | .mirrorProof h record => Sys2Proof.Machine.execMirrorProof h record s
  | .mirrorPin h cell pin => Sys2Proof.Machine.execMirrorPin h cell pin s
  | .mirrorImage h capture segment codes => Sys2Proof.Machine.execMirrorImage h capture segment codes s
  | .mirrorLoopset h capture segment bytes => Sys2Proof.Machine.execMirrorLoopset h capture segment bytes s
  | .mirrorPlate h plate offset bytes => Sys2Proof.Machine.execMirrorPlate h plate offset bytes s
  | .mirrorResyncData h d => Sys2Proof.Machine.execMirrorResyncData h d s
  | .standbyStatus h m => Sys2Proof.Machine.execStandbyStatus h m s
  | .swapReady h frame => Sys2Proof.Machine.execSwapReady h frame s
  | .mirrorBadCheck => Sys2Proof.Machine.execMirrorBadCheck s
  | .mirrorLaneDown lane => Sys2Proof.Machine.execMirrorLaneDown lane s
  | .mirrorResyncEnd => Sys2Proof.Machine.execMirrorResyncEnd s
  | .imageInstall => Sys2Proof.Machine.execImageInstall s
  | .loopsetInstall => Sys2Proof.Machine.execLoopsetInstall s
  | .swapCapture => Sys2Proof.Machine.execSwapCapture s
  | .swapHandover => Sys2Proof.Machine.execSwapHandover s
  | .swapTimeout => Sys2Proof.Machine.execSwapTimeout s
  | .revertDelay => Sys2Proof.Machine.execRevertDelay s
  | .swapInterval => Sys2Proof.Machine.execSwapInterval s
  | .ptpSync port h seq twoStep logInterval t1 corr => Sys2Proof.Machine.execPtpSync port h seq twoStep logInterval t1 corr s
  | .ptpFollowUp port m t1 corr => Sys2Proof.Machine.execPtpFollowUp port m t1 corr s
  | .ptpDelayResp port r logInterval t4 corr => Sys2Proof.Machine.execPtpDelayResp port r logInterval t4 corr s
  | .ptpAnnounce port m => Sys2Proof.Machine.execPtpAnnounce port m s
  | .ptpPdelayReq port h seq corr => Sys2Proof.Machine.execPtpPdelayReq port h seq corr s
  | .ptpPdelayResp port m requester twoStep t2 corr => Sys2Proof.Machine.execPtpPdelayResp port m requester twoStep t2 corr s
  | .ptpPdelayRespFollowUp port r t3 corr => Sys2Proof.Machine.execPtpPdelayRespFollowUp port r t3 corr s
  | .delayReqSend port peer => Sys2Proof.Machine.execDelayReqSend port peer s
  | .announceTimeout port => Sys2Proof.Machine.execAnnounceTimeout port s
  | .timeStep => Sys2Proof.Machine.execTimeStep s
  | .ppsInEdge => Sys2Proof.Machine.execPpsInEdge s
  | .ppsInAccept => Sys2Proof.Machine.execPpsInAccept s
  | .ppsLoss => Sys2Proof.Machine.execPpsLoss s
  | .ppsOutRise => Sys2Proof.Machine.execPpsOutRise s
  | .ppsOutFall => Sys2Proof.Machine.execPpsOutFall s
  | .syncInEdge => Sys2Proof.Machine.execSyncInEdge s
  | .syncStuck => Sys2Proof.Machine.execSyncStuck s
  | .watchdogExpiry => Sys2Proof.Machine.execWatchdogExpiry s
  | .hotRestartEnd => Sys2Proof.Machine.execHotRestartEnd s
  | .restartFallback => Sys2Proof.Machine.execRestartFallback s
  | .smbusRead addr op cmd => Sys2Proof.Machine.execSmbusRead addr op cmd s
  | .mbDoorbell fn seq => Sys2Proof.Machine.execMbDoorbell fn seq s
  | .isoRelease port now => Sys2Proof.Machine.execIsoRelease port now s
  | .refereeStatusReceived f now => Sys2Proof.Machine.execRefereeStatusReceived f now s
  | .mirrorLaneUp lane => Sys2Proof.Machine.execMirrorLaneUp lane s
  | .ethrefRestored => Sys2Proof.Machine.execEthrefRestored s
  | .ethPortDown port => Sys2Proof.Machine.execEthPortDown port s
  | .ethPortUp port rate25 => Sys2Proof.Machine.execEthPortUp port rate25 s
  | .vddLeaseApply => Sys2Proof.Machine.execVddLeaseApply s
  | .pcieLinkTrained => Sys2Proof.Machine.execPcieLinkTrained s
  | .fuseProgramDone ok => Sys2Proof.Machine.execFuseProgramDone ok s
  | .fuseEnDeassert => Sys2Proof.Machine.execFuseEnDeassert s
  | .commandBufferReadDone ok data => Sys2Proof.Machine.execCommandBufferReadDone ok data s
  | .plateReadCopyEnd => Sys2Proof.Machine.execPlateReadCopyEnd s
  | .smbusClockLowTimeout => Sys2Proof.Machine.execSmbusClockLowTimeout s
  | .bar2WindowRead fn off => Sys2Proof.Machine.execBar2WindowRead fn off s
  | .jtagDebugAccess write target addr value => Sys2Proof.Machine.execJtagDebugAccess write target addr value s
  | .mirrorDelayEcho delay => Sys2Proof.Machine.execMirrorDelayEcho delay s

end Sys2Proof.Machine
end

