-- ==== Sys2Proof/Safety.lean ====
section
/-! DEFINITION. The terms in which claims about the machine are stated: the invariant of every step, which mailbox command a
constructor of `Instr` is, when one is admitted, and what its taking and its response leave. -/

namespace Sys2Proof.Machine

/-! ## The invariant -/

/-- What holds in every state that steps from a state in which it holds: the lines of the fabric field are driven only under a
lease (R94); the plate store, the flash and its recovery buffer stand in canonical form; no fuse of the factory is cleared
(R447). -/
structure State.Inv (s : State) : Prop where
  lines : s.drive.closed = true → s.pair.held = true
  store : Mem.wf plateDefault s.burin.store = true
  flash : Mem.wf flashDefault s.sys.flash = true
  buffer : Mem.wf 0 s.sys.recoveryBuf = true
  fuses : ∀ k, Config.factoryFuses.getLsbD k = true → s.sys.fuses.getLsbD k = true

/-! ## Mailbox commands -/

/-- The opcode (R499) and the operands of a constructor that is a mailbox command. -/
def mailboxOf : Instr → Option (Nat × MbCmd)
  | .getInfo c => some (0x0001, c)
  | .getHealth c => some (0x0002, c)
  | .setMode c => some (0x0003, c)
  | .loadDescriptor c => some (0x0010, c)
  | .readDescriptor c => some (0x0011, c)
  | .plateWrite c => some (0x0020, c)
  | .plateRead c => some (0x0021, c)
  | .plateRoute c => some (0x0022, c)
  | .plateRouteDelta c => some (0x0023, c)
  | .impress c => some (0x0024, c)
  | .proofRead c => some (0x0025, c)
  | .slotTableWrite c => some (0x0030, c)
  | .slotTableSwap c => some (0x0031, c)
  | .gateConfig c => some (0x0032, c)
  | .domainConfig c => some (0x0040, c)
  | .queueConfig c => some (0x0041, c)
  | .queueReset c => some (0x0042, c)
  | .loopConfig c => some (0x0050, c)
  | .loopRead c => some (0x0051, c)
  | .toneAssign c => some (0x0052, c)
  | .hatchLoad c => some (0x0053, c)
  | .channelRead c => some (0x0060, c)
  | .channelForce c => some (0x0061, c)
  | .channelRetire c => some (0x0062, c)
  | .channelRestore c => some (0x0063, c)
  | .calRun c => some (0x0070, c)
  | .calStatus c => some (0x0071, c)
  | .calPolicy c => some (0x0072, c)
  | .timeConfig c => some (0x0080, c)
  | .timeStatus c => some (0x0081, c)
  | .pairConfig c => some (0x0090, c)
  | .pairStatus c => some (0x0091, c)
  | .pairSwap c => some (0x0092, c)
  | .refereeConfig c => some (0x0093, c)
  | .fwStage c => some (0x00A0, c)
  | .fwActivate c => some (0x00A1, c)
  | .fuseRead c => some (0x00A2, c)
  | .fuseProgram c => some (0x00A3, c)
  | .eventConfig c => some (0x00B0, c)
  | .faultLogRead c => some (0x00B1, c)
  | .perfConfig c => some (0x00C0, c)
  | .xlateConfig c => some (0x00D0, c)
  | .xlateResume c => some (0x00D1, c)
  | _ => none

/-- A command is at its source, is taken at once (R469, R470), and the firmware runs it (R446). -/
structure State.Takes (s : State) (m : MbCmd) : Prop where
  reached : s.reached m.src = true
  taken : s.mayTake m.src = true
  booted : s.sys.bootFailed = false

/-- A command of the given row of R499 is taken, its source may send it (R498), and the mode admits it (R439, R455, R499). -/
structure State.Admits (s : State) (m : MbCmd) (remote : Bool) (modes : List Mode) (interval legacy : Bool) : Prop
    extends s.Takes m where
  source : srcRemote m.src = true → remote = true ∧ m.buf = 0
  mode : s.modeOk m.src modes interval legacy = true

/-- The command has been taken. -/
def State.taken (s : State) (op : Nat) (m : MbCmd) : State := s.take (refOf op m)

/-- The command has been taken and answered at once. -/
def State.replied (s : State) (op : Nat) (m : MbCmd) (status : Nat) (payload : List (Nat × Nat)) : State :=
  (s.taken op m).answer (refOf op m) status payload

/-- A state after which the command is answered at once. -/
def State.thenReplied (t : State) (op : Nat) (m : MbCmd) (status : Nat) (payload : List (Nat × Nat)) : State :=
  t.answer (refOf op m) status payload

/-- The command writes its buffer and is answered with the last byte of it (R470, R476). -/
def State.buffered (s : State) (op : Nat) (m : MbCmd) (data : List Byte) (payload : List (Nat × Nat)) : State :=
  (s.taken op m).newXfer m.dom (.write (refOf op m) stOk payload) false true m.iova data.length data

/-- The command reads its buffer (R476). -/
def State.reads (s : State) (op : Nat) (m : MbCmd) (use : BufUse) (urgent : Bool) : State :=
  (s.taken op m).newXfer m.dom (.read (refOf op m) use) urgent false m.iova m.buf []

end Sys2Proof.Machine
end

