-- ==== Sys2Proof/Certificates/Slice0/Obligations.lean ====
section
/-! DEFINITION. The statements for the provers. -/

open Sys2Proof Sys2Proof.Machine

/-! ## Mailbox commands: what each does when its row of R499 admits it -/

/-- Commands of module, mode and descriptor (R500 to R504, R428, R429, R432): GET_INFO and GET_HEALTH answer at once, or write
their buffer; SET_MODE answers at once where it names the mode in force or only sets TARGET, and else waits for the next
tick; LOAD_DESCRIPTOR reads its buffer; READ_DESCRIPTOR writes it, or answers that no descriptor is in force. -/
def Obligations.ModuleCommandsComplete : Prop :=
  ∀ (s : State) (m : MbCmd),
    (s.Admits m true anyMode true true → m.length.toNat = 0 → m.buf = 0 →
      exec (.getInfo m) s = .next (s.replied 0x0001 m stOk (s.info m.dom))) ∧
    (s.Admits m true anyMode true true → m.length.toNat = 0 →
      (m.buf = 0 → exec (.getHealth m) s = .next (s.replied 0x0002 m stOk [(0, fieldB s.faults.report 0 40)])) ∧
      (m.buf = 64 → s.faults.report ≠ [] →
        exec (.getHealth m) s = .next (s.buffered 0x0002 m s.faults.report [(0, fieldB s.faults.report 0 40)]))) ∧
    (∀ n : Mode, s.Admits m true anyMode false true → m.length.toNat = 8 → m.buf = 0 → m.dom = 0 →
      Mode.ofNum (m.f 0 1) = some n → s.sys.modePending = none → s.pair.swap = none →
      (s.sys.mode = .hold → s.pair.solo = true → s.faults.overflow = false) →
      (n = s.sys.mode → tb (m.f 1 1) 0 = false →
        exec (.setMode m) s = .next (s.replied 0x0003 m stOk [(0, n.num), (1, s.sys.target.num)])) ∧
      (n ≠ s.sys.mode → s.mayName n = true → s.modeCondition n (tb (m.f 1 1) 1) = stOk →
        (n.named = true → s.pair.held = false → s.pair.solo = false →
          exec (.setMode m) s = .next
            (({ s.taken 0x0003 m with sys := { (s.taken 0x0003 m).sys with target := n } } : State).thenReplied 0x0003 m stOk
              [(0, s.sys.mode.num), (1, n.num)])) ∧
        (¬ (n.named = true ∧ s.pair.held = false ∧ s.pair.solo = false) →
          ¬ (n = .standby ∧ s.pair.held = true ∧ s.paired = true ∧ s.partnerReady = true) →
          exec (.setMode m) s = .next
            { s.taken 0x0003 m with
              sys := { (s.taken 0x0003 m).sys with
                modePending := some (refOf 0x0003 m, n),
                modePersist := tb (m.f 1 1) 0 && (n == .standby || n == .referee) },
              atTick := s.atTick ++ [.setMode (refOf 0x0003 m) n] }))) ∧
    (s.Admits m false [.standby, .service, .isolated] true false → m.length.toNat = 4 → m.buf = 16576 → m.dom = 0 →
      s.desc.reading = false →
      exec (.loadDescriptor m) s = .next
        { s.reads 0x0010 m (.descriptor (tb (m.f 0 1) 0)) false with desc := { s.desc with reading := true } }) ∧
    (s.Admits m false anyMode true true → m.length.toNat = 0 → m.buf = 16576 →
      (s.desc.loaded = false → exec (.readDescriptor m) s = .next (s.replied 0x0011 m stOk [(0, 0)])) ∧
      (s.desc.loaded = true → s.desc.bytes ≠ [] →
        exec (.readDescriptor m) s = .next (s.buffered 0x0011 m s.desc.bytes [(0, 1)])))

/-- Commands of plates, impressions and proof (R505 to R509): PLATE_WRITE reads its buffer towards the plate, PLATE_READ copies
at the next tick, routes queue at the engine, IMPRESS arms an impression, PROOF_READ writes the record, or answers that it
is not kept. -/
def Obligations.PlateCommandsComplete : Prop :=
  ∀ (s : State) (m : MbCmd),
    (s.Admits m false anyNoRf false true → m.length.toNat = 8 → m.f 0 2 < 480 → 1 ≤ m.buf → m.f 2 2 + m.buf ≤ 4096 →
      s.inWindow m.dom (m.f 0 2) = true →
      exec (.plateWrite m) s = .next (s.reads 0x0020 m (.plate (m.f 0 2) (m.f 2 2)) (tb (m.f 4 1) 0))) ∧
    (s.Admits m false anyNoRf false true → m.length.toNat = 8 → m.f 0 2 < 512 → 1 ≤ m.buf → m.f 2 2 + m.buf ≤ 4096 →
      (s.inWindow m.dom (m.f 0 2) = true ∨ m.dom = 0 ∧ 480 ≤ m.f 0 2 ∧ s.legacyGeo = false) →
      exec (.plateRead m) s = .next
        { s.taken 0x0021 m with
          atTick := s.atTick ++ [.plateCopy (refOf 0x0021 m) m.iova (m.f 0 2) (m.f 2 2) m.buf] }) ∧
    (s.Admits m false anyNoRf false true → m.length.toNat = 4 → m.buf = 0 → m.f 0 2 < 480 →
      s.inWindow m.dom (m.f 0 2) = true →
      (m.f 2 2 = 0xFFFE ∨ m.f 2 2 = 0xFFFF ∨ m.f 2 2 < 512 ∧ s.inWindow m.dom (m.f 2 2) = true) →
      s.desc.loaded = true → s.burin.queue.length + bit s.burin.running.isSome < 9 →
      exec (.plateRoute m) s = .next
        { s.taken 0x0022 m with
          burin := { s.burin with
            queue := s.burin.queue ++ [{ dest := m.f 0 2, base := m.f 2 2, delta := none, owner := .cmd (refOf 0x0022 m) }] } }) ∧
    (s.Admits m false anyNoRf false false → m.f 0 2 < 480 → s.inWindow m.dom (m.f 0 2) = true →
      (m.f 2 2 = 0xFFFE ∨ m.f 2 2 = 0xFFFF ∨ m.f 2 2 < 512 ∧ s.inWindow m.dom (m.f 2 2) = true) → s.desc.loaded = true →
      (m.buf = 0 → 1 ≤ m.f 4 2 → m.f 4 2 ≤ 4 → m.length.toNat = 8 + 8 * m.f 4 2 →
        actionsOk (inlineChanges m (m.f 4 2)) = true → portsOk (inlineChanges m (m.f 4 2)) = true →
        s.changesMask m.dom (inlineChanges m (m.f 4 2)) = true → s.burin.queue.length + bit s.burin.running.isSome < 9 →
        exec (.plateRouteDelta m) s = .next
          { s.taken 0x0023 m with
            burin := { s.burin with
              queue := s.burin.queue ++ [{ dest := m.f 0 2, base := m.f 2 2, delta := some (inlineChanges m (m.f 4 2)),
                                           owner := .cmd (refOf 0x0023 m) }] } }) ∧
      (m.buf = 8 * m.f 4 2 → 1 ≤ m.f 4 2 → m.f 4 2 ≤ 512 → m.length.toNat = 8 →
        exec (.plateRouteDelta m) s = .next (s.reads 0x0023 m (.changes (m.f 0 2) (m.f 2 2)) false))) ∧
    (s.Admits m true [.standby, .active, .legacy] false true → m.length.toNat = 16 → m.buf = 0 → m.f 0 2 < 512 → m.f 2 1 ≤ 2 →
      s.inWindow m.dom (m.f 0 2) = true → (m.dom = 0 ∨ (s.domain m.dom).impressEn = true) → s.pair.held = true →
      s.sharedTaken < 4 → (m.f 2 1 = 2 → s.imp.armed.all (fun a => a.trigger != .onSync) = true) →
      (m.f 2 1 = 1 → tb (m.f 3 1) 0 = true → s.clk.frame + 2 ≤ ceilDiv (m.f 8 8) 2000) →
      ∃ t a, exec (.impress m) s = .next t ∧ t.imp.armed = s.imp.armed ++ [a] ∧
        a.source = 2 ∧ a.plate = m.f 0 2 ∧ a.cmd = some (refOf 0x0024 m) ∧ a.order = s.imp.order ∧ a.snap = none ∧
        a.trigger = (if m.f 2 1 = 0 then .asap else if m.f 2 1 = 1 then .atTime else .onSync) ∧
        a.due = (if m.f 2 1 = 0 then some s.ns else if m.f 2 1 = 1 then some (m.f 8 8) else none) ∧
        (m.f 2 1 ≠ 1 → a.read.isSome = true)) ∧
    (s.Admits m false anyNoRf false true → m.length.toNat = 4 → m.buf = 576 →
      (s.proofRec (m.f 0 4) = none → exec (.proofRead m) s = .next (s.replied 0x0025 m stOk [(0, 0)])) ∧
      (∀ r, s.proofRec (m.f 0 4) = some r → r.bytes (fun i => m.pf || s.inMask m.dom i) ≠ [] →
        exec (.proofRead m) s = .next
          (s.buffered 0x0025 m (r.bytes (fun i => m.pf || s.inMask m.dom i)) [(0, 1 + 2 * bit (s.recFinal r))])))
/-- Commands of the slot table, the gate, domains and queues (R510 to R517): slot entries, gate values, domain settings and rings
wait for the next tick and the command is answered at once; a swap, start or stop is accepted and waits; QUEUE_CONFIG reads
at once or waits for the tick; QUEUE_RESET acts at once. -/
def Obligations.ScheduleCommandsComplete : Prop :=
  ∀ (s : State) (m : MbCmd),
    (s.Admits m false anyNoRf false true → m.dom = 0 → m.f 0 1 ≤ 1 → 1 ≤ m.f 4 2 → m.f 2 2 + m.f 4 2 ≤ 512 →
      (decide (m.f 0 1 = 1) ≠ s.sched.active ∨ tb (m.f 1 1) 0 = true) →
      (m.buf = 0 → m.f 4 2 ≤ 3 → m.length.toNat = 8 + 8 * m.f 4 2 →
        exec (.slotTableWrite m) s = .next
          (({ s.taken 0x0030 m with
              atTick := s.atTick ++ [.slots (decide (m.f 0 1 = 1)) (m.f 2 2) ((List.range (m.f 4 2)).map (fun k => m.f (8 + 8 * k) 8))] }
            : State).thenReplied 0x0030 m stOk [])) ∧
      (m.buf = 8 * m.f 4 2 → m.length.toNat = 8 →
        exec (.slotTableWrite m) s = .next (s.reads 0x0030 m (.slots (decide (m.f 0 1 = 1)) (m.f 2 2)) false))) ∧
    (s.Admits m true anyNoRf false true → m.dom = 0 → m.length.toNat = 16 → m.buf = 0 → s.sched.op = none →
      (m.f 0 1 = 1 → m.f 2 1 ≤ 1 → s.sched.running = false → s.sched.next = none →
        (tb (m.f 1 1) 0 = true → s.clk.frame + 2 ≤ ceilDiv (m.f 8 8) 2000) →
        exec (.slotTableSwap m) s = .next
          { s.taken 0x0031 m with
            sched := { s.sched with
              op := some { op := 1, cmd := refOf 0x0031 m, bank := decide (m.f 2 1 = 1), late := false, accepted := s.clk.frame,
                           at_ := if tb (m.f 1 1) 0 then ceilDiv (m.f 8 8) 2000 else s.clk.frame + 2,
                           latched := false, fire := 0, old := false } } }) ∧
      (m.f 0 1 = 2 → s.sched.running = true →
        exec (.slotTableSwap m) s = .next
          { s.taken 0x0031 m with
            sched := { s.sched with
              op := some { op := 2, cmd := refOf 0x0031 m, bank := decide (m.f 2 1 = 1), late := false, accepted := s.clk.frame,
                           at_ := 0, latched := false, fire := 0, old := false } } }) ∧
      (m.f 0 1 = 2 → s.sched.running = false → s.sched.next = none →
        exec (.slotTableSwap m) s = .next
          (s.replied 0x0031 m stOk [(0, s.frame32), (4, s.sched.cycle), (8, bit s.sched.active)])) ∧
      (m.f 0 1 = 0 →
        (tb (m.f 1 1) 0 = true → s.sched.running = true → ∀ b, s.sched.boundary = some b → b < ceilDiv (m.f 8 8) 2000) →
        (tb (m.f 1 1) 0 = true → s.sched.running = false → s.clk.frame < ceilDiv (m.f 8 8) 2000) →
        exec (.slotTableSwap m) s = .next
          { s.taken 0x0031 m with
            sched := { s.sched with
              op := some { op := 0, cmd := refOf 0x0031 m, bank := decide (m.f 2 1 = 1), late := false, accepted := s.clk.frame,
                           at_ := if tb (m.f 1 1) 0 then ceilDiv (m.f 8 8) 2000 else 0,
                           latched := false, fire := 0, old := false } } })) ∧
    (s.Admits m true anyNoRf false true → m.dom = 0 → m.length.toNat = 8 → m.buf = 0 → s.atTick = [] →
      exec (.gateConfig m) s = .next
        (({ s.taken 0x0032 m with atTick := [.gate (m.f 0 1) (m.f 1 1) (m.f 2 2)] } : State).thenReplied 0x0032 m stOk
          [(0, if m.f 0 1 = 0 then s.sched.batchMax else m.f 0 1), (1, if m.f 1 1 = 0 then s.sched.budget else m.f 1 1),
           (2, if m.f 2 2 = 0 then s.sched.deferMax else m.f 2 2)])) ∧
    (s.Admits m false anyNoRf false false → m.length.toNat = 24 → m.buf = 0 → m.f 0 1 < 128 →
      (m.f 1 1 = 0 → m.dom = 0 → m.f 0x10 2 + m.f 0x12 2 ≤ 480 →
        exec (.domainConfig m) s = .next
          (({ s.taken 0x0040 m with atTick := s.atTick ++ [.domain (m.f 0 1) m.payload.toNat] } : State).thenReplied 0x0040 m stOk [])) ∧
      (m.f 1 1 = 1 → m.f 0 1 = m.dom → (s.domain m.dom).cReserved = 0 → (s.domain m.dom).cHead = (s.domain m.dom).cWrite →
        exec (.domainConfig m) s = .next
          (({ s.taken 0x0040 m with
              atTick := s.atTick ++ [.ring m.dom (fld (m.f 8 8) 12 36 * 4096) (m.f 0x10 2 % 32)] } : State).thenReplied 0x0040 m stOk [])) ∧
      (m.f 1 1 = 2 → m.dom = 0 → exec (.domainConfig m) s = .next (s.replied 0x0040 m stOk (s.policyReply (m.f 0 1)))) ∧
      (m.f 1 1 = 3 → m.f 0 1 = m.dom → exec (.domainConfig m) s = .next (s.replied 0x0040 m stOk (s.ringReply m.dom)))) ∧
    (s.Admits m false anyNoRf false true → m.length.toNat = 16 → m.buf = 0 → m.f 0 2 < 512 → s.inMask m.dom (m.f 0 2) = true →
      (m.f 2 1 = 1 →
        exec (.queueConfig m) s = .next (s.replied 0x0041 m stOk [(0, (s.queue m.dom (m.f 0 2)).word.toNat)])) ∧
      (m.f 2 1 = 0 →
        ((s.queue m.dom (m.f 0 2)).on = false ∨
          (s.queue m.dom (m.f 0 2)).head = (s.queue m.dom (m.f 0 2)).tail ∧ (s.queue m.dom (m.f 0 2)).get 96 3 = 0 ∧
            (s.queue m.dom (m.f 0 2)).inFlight = false) →
        exec (.queueConfig m) s = .next
          { s.taken 0x0041 m with atTick := s.atTick ++ [.queue (refOf 0x0041 m) m.dom (m.f 0 2) (m.f 8 8)] })) ∧
    (s.Admits m false anyNoRf false true → m.length.toNat = 8 → m.buf = 0 → m.f 0 2 < 512 → s.inMask m.dom (m.f 0 2) = true →
      exec (.queueReset m) s = .next (((s.taken 0x0042 m).resetQueue m.dom (m.f 0 2)).thenReplied 0x0042 m stOk []))

/-- Commands of loops and channels (R518 to R524): settings wait for the next tick, reads of a channel answer at once and clear
its sticky bits, a force takes the channel at once, retirement and restoration take effect at the next tick. -/
def Obligations.ChannelCommandsComplete : Prop :=
  ∀ (s : State) (m : MbCmd),
    (s.Admits m false anyNoRf false true → m.dom = 0 → m.length.toNat = 16 → m.buf = 0 → 1 ≤ m.f 4 1 → m.f 4 1 ≤ 7 →
      1 ≤ m.f 2 2 → m.f 0 2 + m.f 2 2 ≤ 10240 →
      (m.f 4 1 = 7 → (m.f 5 1 = 1 ∨ m.f 5 1 = 2 ∨ m.f 5 1 = 4) ∧ m.f 6 1 + m.f 5 1 ≤ 64) →
      exec (.loopConfig m) s = .next
        { s.taken 0x0050 m with
          atTick := s.atTick ++ [.loop (refOf 0x0050 m) (m.f 0 2) (m.f 2 2) (m.f 4 1) (m.f 5 1) (m.f 6 1) (m.f 8 4) (m.f 12 4)] }) ∧
    (s.Admits m false anyNoRf false true → m.dom = 0 → m.length.toNat = 4 → 1 ≤ m.f 2 2 → m.f 0 2 + m.f 2 2 ≤ 10240 →
      m.buf = 64 * m.f 2 2 →
      exec (.loopRead m) s = .next
        { s.taken 0x0051 m with atTick := s.atTick ++ [.loopRead (refOf 0x0051 m) m.iova (m.f 0 2) (m.f 2 2)] }) ∧
    (s.Admits m false anyNoRf false true → m.dom = 0 → m.length.toNat = 12 →
      (tb (m.f 4 1) 0 = true → m.buf = 0 →
        exec (.toneAssign m) s = .next
          { s.taken 0x0052 m with atTick := s.atTick ++ [.toneDefault, .answer (refOf 0x0052 m) stOk 0 0 []] }) ∧
      (tb (m.f 4 1) 0 = false → 4608 ≤ m.f 0 2 → 1 ≤ m.f 2 2 → m.f 0 2 + m.f 2 2 ≤ 10240 →
        (tb (m.f 4 1) 1 = true → m.buf = 0 →
          exec (.toneAssign m) s = .next
            { s.taken 0x0052 m with
              atTick := s.atTick ++
                [.tones ((List.range (m.f 2 2)).map (fun k => (m.f 0 2 + k, m.f 5 1 % 64, m.f 6 1, m.f 8 2 % 1024))),
                 .answer (refOf 0x0052 m) stOk 0 0 []] }) ∧
        (tb (m.f 4 1) 1 = false → m.buf = 4 * m.f 2 2 →
          exec (.toneAssign m) s = .next (s.reads 0x0052 m (.tones (m.f 0 2)) false)))) ∧
    (s.Admits m false anyNoRf false true → m.dom = 0 → m.length.toNat = 4 → 1 ≤ m.f 2 2 → m.f 0 2 + m.f 2 2 ≤ 5632 →
      m.buf = 32 * m.f 2 2 →
      exec (.hatchLoad m) s = .next (s.reads 0x0053 m (.hatch (m.f 0 2)) false)) ∧
    (m.dom = 0 → m.length.toNat = 8 →
      (s.Admits m false anyNoRf false true → m.f 0 1 = 0 → m.f 2 2 < 10240 → m.buf = 0 →
        exec (.channelRead m) s = .next
          (((s.taken 0x0060 m).modDch (m.f 2 2) (fun c => { c with sticky := 0 })).thenReplied 0x0060 m stOk (s.driveReply (m.f 2 2)))) ∧
      (s.Admits m false anyNoRf false true → m.f 0 1 = 1 → m.f 2 2 < 5632 → m.buf = 0 →
        exec (.channelRead m) s = .next (s.replied 0x0060 m stOk (s.senseReply (m.f 2 2)))) ∧
      (s.Admits m false [.characterize, .service, .standby, .isolated] false true → m.f 0 1 = 2 → m.f 2 2 < 5632 → m.buf = 65536 →
        s.sense.capture = none → s.atTick = [] → s.mayCapture (m.f 2 2) = true →
        exec (.channelRead m) s = .next
          { s.taken 0x0060 m with
            atTick := [.capture (refOf 0x0060 m) m.iova (pairOf (homeCore (m.f 2 2))) (m.f 2 2) (m.f 1 1 % 2)
                        (if m.f 4 1 = 4 then 4 else m.f 4 1 % 4)] })) ∧
    (s.Admits m false [.service] false false → m.dom = 0 → m.length.toNat = 8 → m.buf = 0 → m.f 0 2 < 10240 →
      s.retired 1 (m.f 0 2) = false →
      exec (.channelForce m) s = .next
        ((if tb (m.f 4 1) 0 then (s.taken 0x0061 m).unforce (m.f 0 2) else (s.taken 0x0061 m).force (m.f 0 2) (m.f 2 2)).thenReplied
          0x0061 m stOk [])) ∧
    (s.Admits m true [.service] false false → m.dom = 0 → m.length.toNat = 4 → m.buf = 0 → m.f 0 1 ≤ 2 →
      m.f 2 2 < kindCount (m.f 0 1) → s.retired (m.f 0 1 + 1) (m.f 2 2) = false →
      exec (.channelRetire m) s = .next
        { s.taken 0x0062 m with
          atTick := s.atTick ++ [.retire (m.f 0 1 + 1) (m.f 2 2) 11, .answer (refOf 0x0062 m) stOk 0 0 []] }) ∧
    (s.Admits m true [.service] false false → m.dom = 0 → m.length.toNat = 4 → m.buf = 0 → m.f 0 1 ≤ 4 →
      m.f 2 2 < kindCount (m.f 0 1) → (m.f 0 1 = 2 → s.desc.loaded = true → s.fabPinned (m.f 2 2) = false) →
      exec (.channelRestore m) s = .next
        { s.taken 0x0063 m with
          atTick := s.atTick ++ [.restore (m.f 0 1 + 1) (m.f 2 2), .answer (refOf 0x0063 m) stOk 0 0 []] })
/-- Commands of calibration and of time (R398, R400, R525 to R530): CAL_RUN makes a run wait, CAL_STATUS and a read of a setting
answer at once, CAL_POLICY answers with the values of the next tick, a setting of time or a step waits, TIME_STATUS is taken
at the next tick. -/
def Obligations.CalibrationAndTimeCommandsComplete : Prop :=
  ∀ (s : State) (m : MbCmd),
    (m.dom = 0 → m.length.toNat = 8 → m.buf = 0 →
      (s.Admits m true (calModes (m.f 0 2)) false false → isScope (m.f 0 2) = true → m.f 0 2 ≠ 0x300 → s.calBusy (m.f 0 2) = false →
        exec (.calRun m) s = .next
          ((s.taken 0x0070 m).setScope (m.f 0 2) { s.scope (m.f 0 2) with pending := true, cmd := some (refOf 0x0070 m) })) ∧
      (s.Admits m true [.characterize] false false → m.f 0 2 = 0x300 → s.calBusy 0x300 = false → s.pair.held = true →
        exec (.calRun m) s = .next
          (({ s.taken 0x0070 m with cal := { s.cal with fabricNext := (m.f 2 1 % 2, tb (m.f 3 1) 0, m.f 4 2) } } : State).setScope 0x300
            { s.scope 0x300 with pending := true, cmd := some (refOf 0x0070 m) })) ∧
      (s.Admits m true (calModes 0x400) false false → m.f 0 2 = 0x400 → converterScopes.any s.calBusy = false →
        ∃ t, exec (.calRun m) s = .next t ∧ t.cal.all = some (refOf 0x0070 m, converterScopes, 0xFFFF, 0) ∧
          (∀ k ∈ converterScopes, (t.scope k).pending = true) ∧ (t.scope 0x300) = s.scope 0x300)) ∧
    (s.Admits m true anyMode true true → m.length.toNat = 4 → isScope (m.f 0 2) = true →
      (m.buf = 0 → exec (.calStatus m) s = .next (s.replied 0x0071 m stOk (s.calReplyOf (m.f 0 2)))) ∧
      (m.f 0 2 = 0x300 → m.buf = 9792 →
        exec (.calStatus m) s = .next (s.buffered 0x0071 m s.calDetail (s.calReplyOf 0x300)))) ∧
    (s.Admits m true anyMode true false → m.length.toNat = 8 → m.buf = 0 → s.atTick = [] →
      (tb (m.f 0 1) 0 = false → tb (m.f 0 1) 1 = false →
        exec (.calPolicy m) s = .next
          (s.replied 0x0072 m stOk
            [(0, m.f 0 1), (1, bit s.cal.tempTrigger), (2, bit s.cal.powerup), (3, bit s.cal.persist), (4, s.cal.dt)])) ∧
      (m.dom = 0 → tb (m.f 0 1) 0 = true → s.sys.mode ≠ .startupCal →
        exec (.calPolicy m) s =
          let t : State := { s.taken 0x0072 m with
            atTick := [.calPolicy (tb (m.f 1 1) 0) (tb (m.f 2 1) 0) (tb (m.f 3 1) 0) (m.f 4 2)] }
          let reply := [(0, m.f 0 1), (1, bit (tb (m.f 1 1) 0)), (2, bit (tb (m.f 2 1) 0)), (3, bit (tb (m.f 3 1) 0)), (4, m.f 4 2)]
          .next (if tb (m.f 0 1) 1 then
            t.flashJob (.mode none (some (bit (tb (m.f 2 1) 0) + 2 * bit (tb (m.f 1 1) 0) + 4 * bit (tb (m.f 3 1) 0) + 128, m.f 4 2))
              (refOf 0x0072 m) reply)
            else t.thenReplied 0x0072 m stOk reply))) ∧
    (s.Admits m true anyMode false true → m.dom = 0 → m.length.toNat = 16 → m.buf = 0 → m.f 1 1 ≤ 1 →
      (tb (m.f 2 1) 0 = true → 1 ≤ m.f 0 1 → m.f 0 1 ≤ 13 →
        exec (.timeConfig m) s = .next (s.replied 0x0080 m stOk [(0, s.timeValue (m.f 0 1) (decide (m.f 1 1 = 1)))])) ∧
      (tb (m.f 2 1) 0 = false →
        (1 ≤ m.f 0 1 → m.f 0 1 ≤ 13 →
          exec (.timeConfig m) s = .next
            (({ s.taken 0x0080 m with atTick := s.atTick ++ [.time (m.f 0 1) (decide (m.f 1 1 = 1)) (m.f 8 8)] } : State).thenReplied
              0x0080 m stOk [])) ∧
        (m.f 0 1 = 14 → s.pair.held = false → s.ft.step = none →
          exec (.timeConfig m) s = .next
            { s.taken 0x0080 m with
              ft := { s.ft with step := some { absolute := some (m.f 8 8), offset := 0, cmd := some (refOf 0x0080 m), armed := false } } }) ∧
        (m.f 0 1 = 15 → s.pair.held = false → s.ft.step = none →
          exec (.timeConfig m) s = .next
            { s.taken 0x0080 m with
              ft := { s.ft with step := some { absolute := none, offset := signed 64 (m.f 8 8) * 65536, cmd := some (refOf 0x0080 m),
                                               armed := false } } }) ∧
        (m.f 0 1 = 16 → s.ft.source = .host →
          exec (.timeConfig m) s = .next (((s.taken 0x0080 m).hostOffset (signed 64 (m.f 8 8))).thenReplied 0x0080 m stOk [])))) ∧
    (s.Admits m true anyMode false true → m.length.toNat = 0 → (m.buf = 0 ∨ m.buf = 128) →
      exec (.timeStatus m) s = .next
        { s.taken 0x0081 m with atTick := s.atTick ++ [.timeStatus (refOf 0x0081 m) m.iova m.buf] })

/-- Commands of pairing and of the referee (R531 to R534, R346): a setting is read at once or waits for the next tick; PAIR_SWAP is
accepted by the holder of a ready pair, or waits as this module's request; REFEREE_CONFIG acts at once. -/
def Obligations.PairCommandsComplete : Prop :=
  ∀ (s : State) (m : MbCmd),
    (m.dom = 0 → m.length.toNat = 40 → m.buf = 0 → 1 ≤ m.f 0 1 → m.f 0 1 ≤ 7 →
      (m.f 0 1 = 6 → m.f 1 1 ≤ 1) → (m.f 0 1 = 7 → m.f 1 1 ≤ 7) →
      s.Admits m true (if m.f 0 1 = 1 then (if s.pair.held then [.standby, .isolated] else [.standby, .isolated, .service]) else anyNoRf)
        false false →
      (tb (m.f 2 1) 0 = true →
        exec (.pairConfig m) s = .next (s.replied 0x0090 m stOk [(0, s.pairValue (m.f 0 1) (m.f 1 1))])) ∧
      (tb (m.f 2 1) 0 = false → (m.f 0 1 = 1 → tb (m.f 8 32) 0 = true → s.fuse 2818 1 = 1) →
        exec (.pairConfig m) s = .next
          (({ s.taken 0x0090 m with atTick := s.atTick ++ [.pair (m.f 0 1) (m.f 1 1) (m.f 8 32)] } : State).thenReplied 0x0090 m stOk []))) ∧
    (s.Admits m true anyMode false true → m.length.toNat = 0 → m.buf = 0 →
      exec (.pairStatus m) s = .next (s.replied 0x0091 m stOk s.pairReply)) ∧
    (s.Admits m true ([Mode.standby, .active, .hold, .dark, .characterize, .legacy] ++ if s.pair.held then [.service] else []) false true →
      m.dom = 0 → m.length.toNat = 0 → m.buf = 0 → s.pair.solo = false →
      (s.pair.held = true → s.pair.swap = none → s.partnerReady = true →
        exec (.pairSwap m) s = .next
          { s.taken 0x0092 m with
            pair := { s.pair with swap := some (s.clk.frame, some (refOf 0x0092 m), false), swapDeferred := false } }) ∧
      (s.pair.held = false → (∀ f c, s.pair.swapReq ≠ some (f, some c)) →
        exec (.pairSwap m) s = .next
          { s.taken 0x0092 m with pair := { s.pair with swapReq := some (s.clk.frame, some (refOf 0x0092 m)) } })) ∧
    (s.Admits m true [.referee] false false → m.dom = 0 → m.length.toNat = 8 → m.buf = 0 →
      (tb (m.f 0 1) 0 = false → tb (m.f 0 1) 1 = false →
        exec (.refereeConfig m) s = .next (s.replied 0x0093 m stOk s.refereeReply)) ∧
      (tb (m.f 0 1) 0 = true → tb (m.f 0 1) 1 = false → 6250 ≤ m.f 4 4 → m.f 4 4 ≤ 625000 →
        exec (.refereeConfig m) s = .next
          (let t : State := { s.taken 0x0093 m with pair := { s.pair with refL := m.f 4 4 } }
           t.thenReplied 0x0093 m stOk t.refereeReply)) ∧
      (tb (m.f 0 1) 0 = false → tb (m.f 0 1) 1 = true →
        exec (.refereeConfig m) s = .next
          (let t := ((s.taken 0x0093 m).refereeIso false (tb (m.f 1 1) 0)).refereeIso true (tb (m.f 1 1) 1)
           t.thenReplied 0x0093 m stOk t.refereeReply)))

/-- Commands of firmware, fuses, events, counters and translation (R447 to R451, R535 to R543). -/
def Obligations.FirmwareAndHostCommandsComplete : Prop :=
  ∀ (s : State) (m : MbCmd),
    (s.Admits m false anyMode false true → m.dom = 0 → m.length.toNat = 0 → 513 ≤ m.buf → m.buf ≤ 4194816 → s.sys.staging = false →
      exec (.fwStage m) s = .next
        ((({ s.taken 0x00A0 m with sys := { (s.taken 0x00A0 m).sys with staging := true } } : State).flashWrite (slotBase (!s.sys.slotB))
            (List.replicate 4096 0xFF)).newXfer m.dom (.read (refOf 0x00A0 m) .stage) false false m.iova m.buf [])) ∧
    (s.Admits m true anyMode false true → m.dom = 0 → m.length.toNat = 4 → m.buf = 0 → m.f 0 1 ≤ 1 →
      decide (m.f 0 1 = 1) ≠ s.sys.slotB → s.slotValid (decide (m.f 0 1 = 1)) = true →
      (m.f 1 1 = 0 →
        exec (.fwActivate m) s = .next
          ((s.taken 0x00A1 m).flashJob
            (.control (decide (m.f 0 1 = 1)) ((s.slotSeq s.sys.slotB + 1) % 2 ^ 32) (refOf 0x00A1 m)))) ∧
      (m.f 1 1 = 1 → s.sys.activate = none → s.slotLevel (decide (m.f 0 1 = 1)) = s.sys.configLevel →
        exec (.fwActivate m) s = .next
          ({ s.taken 0x00A1 m with
             sys := { (s.taken 0x00A1 m).sys with activate := some (refOf 0x00A1 m, decide (m.f 0 1 = 1)) } } : State).tryActivate)) ∧
    (s.Admits m true anyMode true true → m.length.toNat = 4 → m.buf = 0 → m.f 0 2 % 32 = 0 → m.f 0 2 ≤ 480 →
      exec (.fuseRead m) s = .next (s.replied 0x00A2 m stOk [(0, fld s.sys.fuses.toNat (8 * m.f 0 2) 256)])) ∧
    (s.Admits m false [.service] false false → s.pair.held = false → m.dom = 0 → m.length.toNat = 0 → m.buf = 320 →
      s.clk.fuseEn = true → tb s.sys.fuses.toNat 2819 = false → s.sys.fuseJob = none →
      exec (.fuseProgram m) s = .next (s.reads 0x00A3 m .fuses false)) ∧
    (s.Admits m true anyMode false true → m.length.toNat = 24 → m.buf = 0 →
      (m.f 0 1 = 0 → m.f 4 4 ≤ 9 → s.atTick = [] →
        exec (.eventConfig m) s = .next
          (({ s.taken 0x00B0 m with
              atTick := [.evEnable m.dom (m.f 4 4) (fld (m.f 8 8) 0 32) (fld (m.f 8 8) 32 32)] } : State).thenReplied 0x00B0 m stOk
            [(0, fld (enableWord (s.fn m.dom).evEnable (m.f 4 4) (fld (m.f 8 8) 0 32) (fld (m.f 8 8) 32 32)).toNat (32 * m.f 4 4) 32)])) ∧
      (m.f 0 1 = 1 →
        exec (.eventConfig m) s = .next
          (({ s.taken 0x00B0 m with
              atTick := s.atTick ++ [.evRing m.dom (fld (m.f 8 8) 12 36 * 4096) (m.f 0x10 1)] } : State).thenReplied 0x00B0 m stOk [])) ∧
      (m.f 0 1 = 2 → m.dom = 0 → (m.f 4 4 / 2 ^ 24 ≤ 7 ∨ m.f 4 4 / 2 ^ 24 = 0xFF) →
        exec (.eventConfig m) s = .next
          (({ s.taken 0x00B0 m with
              atTick := s.atTick ++ [.thresholds (m.f 4 4) (fld (m.f 8 8) 0 16)] } : State).thenReplied 0x00B0 m stOk [])) ∧
      (m.f 0 1 = 3 → m.dom = 0 → exec (.eventConfig m) s = .next (s.replied 0x00B0 m stOk s.thresholdReply))) ∧
    (s.Admits m false anyMode false true → m.dom = 0 → m.length.toNat = 8 → 1 ≤ m.f 4 2 → m.f 4 2 ≤ 4096 → m.buf = 32 * m.f 4 2 →
      ∃ t, exec (.faultLogRead m) s = .next t ∧ t.faults.wrapRaised = false ∧
        t.faults.log.map Prod.fst = s.faults.log.map Prod.fst ∧
        (∀ e ∈ t.faults.log, e.1 ∈ s.logFrom (m.f 0 4) (m.f 4 2) → e.2 = true) ∧
        (s.logFrom (m.f 0 4) (m.f 4 2) ≠ [] →
          t.host.xfers.map Xfer.data = s.host.xfers.map Xfer.data ++
            [(s.logFrom (m.f 0 4) (m.f 4 2)).flatMap (fun r => bytesLE 32 r.toNat)])) ∧
    (s.Admits m false anyMode false false → m.dom = 0 → m.length.toNat = 8 → m.buf = 0 → m.f 0 1 ≤ 7 →
      exec (.perfConfig m) s = .next
        (({ s.taken 0x00C0 m with
            atTick := s.atTick ++
              [.perf (m.f 0 1) (m.f 2 2 + bit (tb (m.f 1 1) 0) * 2 ^ 31) (m.f 4 4) (tb (m.f 1 1) 1)] } : State).thenReplied 0x00C0 m stOk [])) ∧
    (s.Admits m false anyMode false false → m.dom = 0 → m.length.toNat = 32 → m.buf = 0 → m.f 0 1 < 128 →
      (m.f 1 1 = 0 → (m.f 0 1 = 0 ∨ m.f 2 1 ≠ 2) →
        exec (.xlateConfig m) s = .next
          (((s.taken 0x00D0 m).setTranslation (m.f 0 1) (m.f 2 1) (m.f 4 4) (fld (m.f 8 8) 12 40)).thenReplied 0x00D0 m stOk [])) ∧
      (m.f 1 1 = 1 →
        exec (.xlateConfig m) s = .next
          (((s.taken 0x00D0 m).invalidate (m.f 0 1) (tb (m.f 3 1) 0) (fld (m.f 0x10 8) 12 36) (m.f 0x18 4)).thenReplied 0x00D0 m stOk [])) ∧
      (m.f 1 1 = 2 → exec (.xlateConfig m) s = .next (s.replied 0x00D0 m stOk (s.xlateReply (m.f 0 1))))) ∧
    (s.Admits m false anyMode false false → m.dom = 0 → m.length.toNat = 4 → m.buf = 0 → m.f 0 1 < 128 → m.f 1 1 ≤ 1 →
      exec (.xlateResume m) s = .next
        (((s.taken 0x00D1 m).resume (m.f 0 1) (decide (m.f 1 1 = 1))).thenReplied 0x00D1 m stOk []))
/-! ## The machine as a whole -/

/-- A step takes the command at the front of the queue, and is its effect with the rest of the queue. -/
def Obligations.StepTakesFront : Prop :=
  ∀ (c : Instr) (rest : List Instr) (s : State), step { s with pending := c :: rest } = exec c { s with pending := rest }

/-- On an empty queue one loop cycle passes (R13, R297, R558; log 1): fabric time advances by INC, PC_CYCLE by 1; the clock waits
at the last cycle of the frame, and while the sequencer does not run nothing changes. Beside the counters nothing else changes. -/
def Obligations.IdleStepIsOneCycle : Prop :=
  ∀ s : State, s.pending = [] →
    ((s.runs = false ∨ s.toTick ≤ 1) → step s = .next s) ∧
    (s.runs = true → 2 ≤ s.toTick →
      ∃ t perf, step s = .next t ∧ t = { s with
        ft := { s.ft with t := (s.ft.t + s.ft.inc) % 2 ^ 112, rem := if s.ft.state = .holdover then s.ft.rem else s.ft.rem - s.slewInc },
        clk := { s.clk with cycle := s.clk.cycle + 1, cycles := s.clk.cycles + 1, pcCycle := s.clk.pcCycle + 1 },
        host := { s.host with perf := perf } })

/-- What power-on reset leaves: mode Reset, fabric time 0, no lease and every line isolated, the plate store cleared, every
channel at code 0, the function registers, domains, queues and translation states at their reset values, and the priorities of
the plate port (R426, R21, R299, R94, R95, R190, R254, R466, R469, R473, R474, R478, R514, R555). -/
def Obligations.ResetValues : Prop :=
  State.reset.pending = [] ∧ State.reset.atTick = [] ∧ State.reset.sys.mode = .reset ∧ State.reset.clk.frame = 0 ∧ State.reset.ft.t = 0 ∧
  State.reset.ft.freq = 0 ∧ State.reset.ft.state = .freerun ∧ State.reset.ft.source = .ptp ∧
  State.reset.pair.held = false ∧ State.reset.drive.closed = false ∧ State.reset.desc.loaded = false ∧
  (∀ a, Mem.byte plateDefault State.reset.burin.store a = 0) ∧
  (∀ i, (State.reset.dch i).dac = 0 ∧ (State.reset.dch i).target = 0 ∧ (State.reset.dch i).a = 0) ∧
  (∀ n, (State.reset.fn n).cmdFull = false ∧ (State.reset.fn n).rspValid = false ∧ (State.reset.fn n).evStatus = 0 ∧
    (State.reset.fn n).evEnable = 0 ∧ (State.reset.fn n).ringTail = 0 ∧ (State.reset.fn n).ringHead = 0 ∧ (State.reset.fn n).vMask = 7 ∧
    (State.reset.fn n).vPend = 0) ∧
  (∀ d i, (State.reset.queue d i).word = 0) ∧
  (∀ d, (State.reset.domain d).enable = decide (d = 0) ∧ (State.reset.domain d).weight = 16 ∧ (State.reset.domain d).police = false ∧
    (State.reset.domain d).count = (if d = 0 then 480 else 0)) ∧
  (∀ d, (State.reset.xlate d).stopped = false ∧ (State.reset.xlate d).mode = (if d = 0 then 2 else 0)) ∧
  State.reset.host.active = [0x00020002, 0x00020002, 0x00070004, 0x00000006] ∧ State.reset.host.vfEnable = false

/-- The invariant holds at reset. -/
def Obligations.InvAtReset : Prop := State.reset.Inv

/-- Every step keeps the invariant: the lines of the fabric field are driven only under a lease, the plate store, the flash and
its recovery buffer keep their canonical form, and no fuse of the factory is cleared (R94, R190, R441, R447). -/
def Obligations.InvKept : Prop := ∀ s t : State, step s = .next t → s.Inv → t.Inv

/-- No step clears a fuse bit that is programmed. -/
def Obligations.FusesOnlyGrow : Prop :=
  ∀ s t : State, step s = .next t → ∀ k, s.sys.fuses.getLsbD k = true → t.sys.fuses.getLsbD k = true

/-- The mode and the frame number change only at a tick, when LPLL locks, and at a reset or collapse of the core: no mailbox
command, register access, frame of a link, measurement or other event changes them (R17, R18, R426, R431). -/
def Obligations.ModeAndFrameChangeOnlyAtTicks : Prop :=
  ∀ (i : Instr) (s t : State), exec i s = .next t → (t.sys.mode ≠ s.sys.mode ∨ t.clk.frame ≠ s.clk.frame) →
    (∃ inp, i = .frameTick inp) ∨ i = .lpllLock ∨ i = .rstNAssert ∨ i = .coreSupplyCollapse

/-- Every command is executed, but one whose index names a unit that the module does not have, which stops with that fault:
nothing is refused. -/
def Obligations.WellFormedCommandsComplete : Prop :=
  ∀ (i : Instr) (s : State), (∃ t, exec i s = .next t) ∨ (WellFormed i = false ∧ exec i s = .fault .noSuchUnit)

/-! ## The mailbox: slots, sources, responses -/

/-- The 64 bytes of MB_CMD spell the opcode and every operand of a command (R467): reading the slot that a command fills gives
the command back, for every value of every field. -/
def Obligations.SlotSpellsCommand : Prop :=
  ∀ (op : Nat) (m : MbCmd), op < 2 ^ 16 → slotOp (slotWord op m) = op ∧ slotCmd m.src (slotWord op m) = m

/-- A doorbell (R469, R470): with the slot empty, it sets CMD_FULL, and where the function can be served, the command that the slot
spells is executed as the row of its opcode; while 8 of its commands run it stays; with CMD_FULL set only DB_IGNORED is set. -/
def Obligations.DoorbellRunsSlotCommand : Prop :=
  ∀ (s : State) (n : BitVec 7) (seq : W16), s.decodes n.toNat = true →
    ((s.fn n.toNat).cmdFull = true →
      exec (.mbDoorbell n seq) s = .next (s.setFn n.toNat { s.fn n.toNat with dbIgnored := true })) ∧
    ((s.fn n.toNat).cmdFull = false → s.mayTake (.fn n) = false →
      exec (.mbDoorbell n seq) s = .next (s.setFn n.toNat { s.fn n.toNat with cmdFull := true, seq := seq })) ∧
    (∀ (i : Instr) (op : Nat) (m : MbCmd), mailboxOf i = some (op, m) → m.src = .fn n → (s.fn n.toNat).cmd = slotWord op m →
      (s.fn n.toNat).cmdFull = false → s.mayTake (.fn n) = true →
      exec (.mbDoorbell n seq) s = exec i (s.setFn n.toNat { s.fn n.toNat with cmdFull := true, seq := seq }))

/-- A management datagram (R362, R363): a known client's new SEQUENCE runs the command that its body spells; a duplicate is
answered from the store and a sequence older than the oldest kept with XSTATUS 2, an unknown client with XSTATUS 1, none of them
executed. -/
def Obligations.DatagramRunsCommand : Prop :=
  ∀ (s : State) (port : Bool) (d : Datagram), tb d.flags.toNat 0 = false → s.hasAddress port = true → (s.ptp port).up = true →
    s.sys.mailboxOpen = true →
    (s.knowsClient d = false → exec (.mgmtDatagram port d) s = .next (s.emit (.mgmtTx port d.client.toNat d.seq.toNat 1 0))) ∧
    (∀ q r, s.knowsClient d = true → (rd s.pair.answered d.client.toNat []).find? (fun e => decide (e.1 = d.seq.toNat)) = some (q, r) →
      exec (.mgmtDatagram port d) s = .next (s.emit (.mgmtTx port d.client.toNat d.seq.toNat 0 r))) ∧
    (s.knowsClient d = true → (rd s.pair.answered d.client.toNat []).find? (fun e => decide (e.1 = d.seq.toNat)) = none →
      (∀ c ∈ s.sys.running, ∀ p, c.src ≠ .mgmt d.client d.seq p) → s.sys.held = [] →
      (tooOld (rd s.pair.answered d.client.toNat []) d.seq.toNat = true →
        exec (.mgmtDatagram port d) s = .next (s.emit (.mgmtTx port d.client.toNat d.seq.toNat 2 0))) ∧
      (tooOld (rd s.pair.answered d.client.toNat []) d.seq.toNat = false →
        ∀ (i : Instr) (op : Nat) (m : MbCmd), mailboxOf i = some (op, m) → m.src = .mgmt d.client d.seq port → d.body = slotWord op m →
          exec (.mgmtDatagram port d) s = exec i s))

/-- While BOOT_FAILED, every mailbox command that is taken completes at once with status INTERNAL and does nothing else (R446). -/
def Obligations.BootFailedAnswersInternal : Prop :=
  ∀ (s : State) (i : Instr) (op : Nat) (m : MbCmd), mailboxOf i = some (op, m) → s.reached m.src = true → s.mayTake m.src = true →
    s.sys.bootFailed = true → exec i s = .next (s.replied op m stInternal [])

/-- A command that is not taken (R453, R470): while 8 commands of its function run, or the firmware restarts, a function's command
stays in MB_CMD with CMD_FULL set; a management command is held during a restart; one that reaches no function does nothing. -/
def Obligations.UntakenCommandsWait : Prop :=
  ∀ (s : State) (i : Instr) (op : Nat) (m : MbCmd), mailboxOf i = some (op, m) →
    (s.reached m.src = false → exec i s = .next s) ∧
    (s.reached m.src = true → s.mayTake m.src = false →
      (∀ n, m.src = .fn n →
        exec i s = .next (s.setFn n.toNat { s.fn n.toNat with cmd := slotWord op m, cmdFull := true })) ∧
      (srcRemote m.src = true → s.sys.restarting = true →
        exec i s = .next { s with sys := { s.sys with held := s.sys.held ++ [(op, m)] } }))

/-- What a function sees of a command that is taken and answered at once (R468, R469, R470): CMD_FULL clears and LAST_SEQ takes its
SEQ; with MB_RSP free, the response stands there with OPCODE, STATUS, TOKEN, epoch, time and payload, and RSP_VALID is set; behind a
response that stands there it waits its turn. OUTSTANDING does not count it any more. -/
def Obligations.ResponseReachesFunction : Prop :=
  ∀ (s : State) (op : Nat) (m : MbCmd) (n : BitVec 7) (status : Nat) (payload : List (Nat × Nat)),
    m.src = .fn n → s.sys.restarting = false → refOf op m ∉ s.sys.running → s.sys.bufDone = [] →
    let r := rspWord (refOf op m) status 0 0 s.pair.epoch s.ns payload
    let f := (s.replied op m status payload).fn n.toNat
    f.cmdFull = false ∧ f.lastSeq = (s.fn n.toNat).seq ∧ (s.replied op m status payload).sys.running = s.sys.running ∧
    ((s.fn n.toNat).rspValid = false → f.rsp = r ∧ f.rspValid = true ∧ f.waiting = (s.fn n.toNat).waiting) ∧
    ((s.fn n.toNat).rspValid = true →
      f.rsp = (s.fn n.toNat).rsp ∧ f.rspValid = true ∧ f.waiting = (s.fn n.toNat).waiting ++ [(r, m.notify)])

/-- The order of the checks (R493), on HATCH_LOAD, CHANNEL_RETIRE and LOOP_CONFIG: a selector outside the chapter gives BAD_OPCODE
whatever else is wrong; then a length or an index gives BAD_LENGTH; then the domain NOT_PERMITTED; then the mode WRONG_MODE; and
nothing of the command is performed. -/
def Obligations.ChecksInOrder : Prop :=
  ∀ (s : State) (m : MbCmd), s.Takes m →
    (m.f 4 1 = 0 ∨ 7 < m.f 4 1 → exec (.loopConfig m) s = .next (s.replied 0x0050 m stBadOpcode [])) ∧
    (2 < m.f 0 1 → exec (.channelRetire m) s = .next (s.replied 0x0062 m stBadOpcode [])) ∧
    ((m.length.toNat ≠ 4 ∨ m.f 2 2 = 0 ∨ 5632 < m.f 0 2 + m.f 2 2 ∨ m.buf ≠ 32 * m.f 2 2) →
      exec (.hatchLoad m) s = .next (s.replied 0x0053 m stBadLength [])) ∧
    (m.length.toNat = 4 → 1 ≤ m.f 2 2 → m.f 0 2 + m.f 2 2 ≤ 5632 → m.buf = 32 * m.f 2 2 →
      (m.dom ≠ 0 ∨ srcRemote m.src = true → exec (.hatchLoad m) s = .next (s.replied 0x0053 m stNotPermitted [])) ∧
      (m.dom = 0 → srcRemote m.src = false → s.modeOk m.src anyNoRf false true = false →
        exec (.hatchLoad m) s = .next (s.replied 0x0053 m stWrongMode []))) ∧
    (m.f 0 1 ≤ 2 → (m.length.toNat ≠ 4 ∨ kindCount (m.f 0 1) ≤ m.f 2 2) → m.buf = 0 →
      exec (.channelRetire m) s = .next (s.replied 0x0062 m stBadLength [])) ∧
    (m.f 0 1 ≤ 2 → m.length.toNat = 4 → m.f 2 2 < kindCount (m.f 0 1) → m.buf = 0 → m.dom = 0 → s.modeOk m.src [.service] false false = false →
      exec (.channelRetire m) s = .next (s.replied 0x0062 m stWrongMode []))
/-! ## Registers, windows and ports of the host interface -/

/-- Registers of BAR0 (R301, R302, R469, R470, R473, R474, R557, R558, R559). ACK releases MB_RSP: with no response waiting RSP_VALID clears, else
the oldest one takes its place, and sends vector 0 if it asks for NOTIFY; ACK without a response does nothing. Writing EV_STATUSw clears exactly
the bits written 1; EV_RING_HEAD takes bits [15:0]. TM_NS returns fabric time in ns modulo 2³² and loads the function's TM_FRAME_LAT with the
frame number; TM_ADJ is limited to ±512,000,000 and takes effect at the next tick when SOURCE = HOST, and is ignored otherwise and in a VF.
PC_CYCLE_LO returns bits [31:0] and latches [63:32]; the low word of PC_CNTn latches its high word; COMMIT makes the four shadows the committed
set. A VF reads 0 and commits nothing. -/
def Obligations.RegisterCommandsComplete : Prop :=
  (∀ (s : State) (fn : BitVec 7), s.decodes fn.toNat = true →
      (∀ v : W32, v.getLsbD 0 = false ∨ (s.fn fn.toNat).rspValid = false → exec (.mbRspAck fn v) s = .next s) ∧
      (∀ v : W32, v.getLsbD 0 = true → (s.fn fn.toNat).rspValid = true →
        ((s.fn fn.toNat).waiting = [] →
          exec (.mbRspAck fn v) s = .next (s.setFn fn.toNat { s.fn fn.toNat with rspValid := false })) ∧
        (∀ r notify rest, (s.fn fn.toNat).waiting = (r, notify) :: rest →
          exec (.mbRspAck fn v) s = .next
            (if notify then (s.setFn fn.toNat { s.fn fn.toNat with rsp := r, waiting := rest }).msix fn.toNat 0
             else s.setFn fn.toNat { s.fn fn.toNat with rsp := r, waiting := rest }))) ∧
      (∀ (w : Nat) (v : W32), w < 10 → ∃ t st, exec (.evStatusClear fn w v) s = .next t ∧
        t = s.setFn fn.toNat { s.fn fn.toNat with evStatus := st } ∧
        ∀ b, b < 320 → st.getLsbD b = ((s.fn fn.toNat).evStatus.getLsbD b && !(decide (b / 32 = w) && v.getLsbD (b % 32)))) ∧
      (∀ v : W32, exec (.evRingHead fn v) s = .next (s.setFn fn.toNat { s.fn fn.toNat with ringHead := v.toNat % 65536 }))) ∧
  (∀ (s : State) (fn : BitVec 7), s.decodes fn.toNat = true →
      exec (.tmNsRead fn) s = .next
        ((s.setFn fn.toNat { s.fn fn.toNat with frameLat := BitVec.ofNat 32 s.clk.frame }).emit (.regRead (s.ns % 2 ^ 32))) ∧
      (∀ v : W32, (fn ≠ 0 ∨ s.ft.source ≠ .host) → exec (.tmAdj fn v) s = .next s) ∧
      (∀ v : W32, fn = 0 → s.ft.source = .host →
        exec (.tmAdj fn v) s = .next { s with atTick := s.atTick ++ [.freq (max (-512000000) (min 512000000 v.toInt))] })) ∧
  (∀ (s : State) (fn : BitVec 7), s.decodes fn.toNat = true →
      (fn = 0 →
        exec (.pcCycleLoRead fn) s = .next
          { s with clk := { s.clk with pcHi := s.clk.pcCycle.extractLsb' 32 32 },
                   host := { s.host with out := s.host.out ++ [.regRead (s.clk.pcCycle.toNat % 2 ^ 32)] } } ∧
        (∀ n : BitVec 3, ∃ t, exec (.countLoRead fn n) s = .next t ∧
          t.host.out = s.host.out ++ [.regRead ((rd s.host.perf n.toNat .init).count % 2 ^ 32)] ∧
          (∀ k, rd t.host.perf k .init =
            if k = n.toNat then { rd s.host.perf k .init with hi := (rd s.host.perf k .init).count / 2 ^ 32 } else rd s.host.perf k .init) ∧
          t = { s with host := { s.host with perf := t.host.perf, out := t.host.out } }) ∧
        (∀ v : W32, v.getLsbD 0 = true →
          exec (.paCommit fn v) s = .next { s with host := { s.host with committed := some s.host.shadow } }) ∧
        (∀ v : W32, v.getLsbD 0 = false → exec (.paCommit fn v) s = .next s)) ∧
      (fn ≠ 0 →
        exec (.pcCycleLoRead fn) s = .next (s.emit (.regRead 0)) ∧
        (∀ n, exec (.countLoRead fn n) s = .next (s.emit (.regRead 0))) ∧
        (∀ v, exec (.paCommit fn v) s = .next s)))

/-- Reads of registers and of configuration space (R7, R461, R466, R469, R473, R474, R489, R491, R556, R559, R595). A read returns the
register as it stands; fields that a read clears, and only they, clear. Fields that are write-only, and addresses that hold no register, read 0, and
so do the PF's blocks and TM_ADJ in a VF. A configuration read is retried until firmware or the Boot ROM answers, and then returns its field. -/
def Obligations.ReadsClearTheirFields : Prop :=
  (∀ (s : State) (fn : BitVec 7), s.decodes fn.toNat = true →
    (∃ v, exec (.clearedByRead (.mbStatus fn)) s = .next ((s.emit (.regRead v)).setFn fn.toNat { s.fn fn.toNat with dbIgnored := false }) ∧
      v.testBit 0 = (s.fn fn.toNat).cmdFull ∧ v.testBit 1 = (s.fn fn.toNat).rspValid ∧ v.testBit 2 = s.sys.restarting ∧
      v.testBit 3 = s.sys.bootFailed ∧ v.testBit 12 = (s.fn fn.toNat).dbIgnored ∧ v / 2 ^ 16 = (s.fn fn.toNat).lastSeq.toNat) ∧
    (∃ v, exec (.clearedByRead (.evRingStatus fn)) s = .next ((s.emit (.regRead v)).setFn fn.toNat { s.fn fn.toNat with ringLost := false }) ∧
      v.testBit 0 = decide ((s.fn fn.toNat).ringK ≠ 0) ∧ v.testBit 1 = (s.fn fn.toNat).ringLost ∧
      v.testBit 2 = (s.xlate fn.toNat).stopped ∧ v < 8) ∧
    (∀ n, fn ≠ 0 → exec (.clearedByRead (.pcOverflow fn n)) s = .next (s.emit (.regRead 0))) ∧
    (∀ n : BitVec 3, fn = 0 → ∃ t, exec (.clearedByRead (.pcOverflow fn n)) s = .next t ∧
      t.host.out = s.host.out ++
        [.regRead ((rd s.host.perf n.toNat .init).hi + bit (rd s.host.perf n.toNat .init).ovf * 2 ^ 31)] ∧
      (∀ k, rd t.host.perf k .init = if k = n.toNat then { rd s.host.perf k .init with ovf := false } else rd s.host.perf k .init) ∧
      t = { s with host := { s.host with perf := t.host.perf, out := t.host.out } }) ∧
    (s.sys.bootFailed = false → fn = 0 → exec (.clearedByRead .flashStatus) s = .next (s.emit (.regRead 0))) ∧
    (s.sys.bootFailed = true → fn = 0 →
      exec (.clearedByRead .flashStatus) s = .next
        { s with
          sys := { s.sys with recoveryError := false }
          host := { s.host with out := s.host.out ++
            [.regRead (1 + 2 * bit (decide (s.sys.recoveryOp ≠ 0)) + 4 * bit s.sys.recoveryError)] } })) ∧
  (∀ (s : State) (fn : BitVec 7) (off : BitVec 16), s.decodes fn.toNat = true →
    (off.toNat = 0x184 → exec (.clearedByRead (.bar0 fn off)) s = exec (.clearedByRead (.mbStatus fn)) s) ∧
    (off.toNat = 0x288 → exec (.clearedByRead (.bar0 fn off)) s = exec (.clearedByRead (.evRingStatus fn)) s) ∧
    (off.toNat = 0x1000 → exec (.clearedByRead (.bar0 fn off)) s = exec (.tmNsRead fn) s) ∧
    (off.toNat = 0x2000 → exec (.clearedByRead (.bar0 fn off)) s = exec (.pcCycleLoRead fn) s) ∧
    (∀ n : BitVec 3, off.toNat = 0x2200 + 8 * n.toNat → exec (.clearedByRead (.bar0 fn off)) s = exec (.countLoRead fn n) s) ∧
    (∀ n : BitVec 3, off.toNat = 0x2204 + 8 * n.toNat → exec (.clearedByRead (.bar0 fn off)) s = exec (.clearedByRead (.pcOverflow fn n)) s) ∧
    (∀ v, (off.toNat = 0 ∧ v = 0x00A05124) ∨ (off.toNat = 0x1C ∧ v = s.pair.epoch % 2 ^ 32) ∨
        (∃ w < 16, off.toNat = 0x100 + 4 * w ∧ v = fld (s.fn fn.toNat).cmd.toNat (32 * w) 32) ∨
        (∃ w < 16, off.toNat = 0x140 + 4 * w ∧ v = fld (s.fn fn.toNat).rsp.toNat (32 * w) 32) ∨
        (∃ w < 10, off.toNat = 0x200 + 4 * w ∧ v = fld (s.fn fn.toNat).evStatus.toNat (32 * w) 32) ∨
        (∃ w < 10, off.toNat = 0x240 + 4 * w ∧ v = fld (s.fn fn.toNat).evEnable.toNat (32 * w) 32) ∨
        (off.toNat = 0x188 ∧ v = (s.domain fn.toNat).cHead % 65536) ∨ (off.toNat = 0x280 ∧ v = (s.fn fn.toNat).ringTail % 65536) ∨
        (off.toNat = 0x284 ∧ v = (s.fn fn.toNat).ringHead % 65536) ∨ (off.toNat = 0x1004 ∧ v = s.frame32) ∨
        (off.toNat = 0x1008 ∧ v = if fn = 0 then unsigned 32 s.ft.freq else 0) ∨ (off.toNat = 0x100C ∧ v = s.tmStatus) ∨
        (off.toNat = 0x1010 ∧ v = (s.fn fn.toNat).frameLat.toNat) ∨
        (∃ k < 4, off.toNat = 0x3000 + 4 * k ∧ v = if fn = 0 then (s.host.shadow[k]?).getD 0 else 0) ∨
        (∃ k < 4, off.toNat = 0x3020 + 4 * k ∧ v = if fn = 0 then (s.host.active[k]?).getD 0 else 0) ∨
        (∃ k < 3, off.toNat = 0x8008 + 16 * k ∧ v = fld (rd (s.fn fn.toNat).vData k 0) 0 32) ∨
        (∃ k < 3, off.toNat = 0x800C + 16 * k ∧ v = bit ((s.fn fn.toNat).vMask.getLsbD k)) ∨
        (off.toNat = 0x8800 ∧ v = (s.fn fn.toNat).vPend.toNat) ∨
        ((off.toNat = 0x180 ∨ off.toNat = 0x18C) ∧ v = 0) ∨ (fn ≠ 0 ∧ off.toNat % 4 = 0 ∧ 0x2000 ≤ off.toNat ∧ off.toNat < 0x4000 ∧ v = 0) ∨
        (off.toNat % 4 = 0 ∧ 0x4000 ≤ off.toNat ∧ off.toNat < 0x8000 ∧ v = 0) →
      exec (.clearedByRead (.bar0 fn off)) s = .next (s.emit (.regRead v))) ∧
    (off.toNat % 4 ≠ 0 → exec (.clearedByRead (.bar0 fn off)) s = .next s)) ∧
  (∀ (s : State) (fn : BitVec 7) (f : CfgField),
    (s.present fn.toNat = false → exec (.clearedByRead (.config fn f)) s = .next s) ∧
    (s.present fn.toNat = true → s.sys.mailboxOpen = false → s.sys.bootFailed = false →
      exec (.clearedByRead (.config fn f)) s = .next (s.emit (.configRetry fn.toNat))) ∧
    (s.present fn.toNat = true → s.sys.mailboxOpen = true ∨ s.sys.bootFailed = true → ∃ v,
      exec (.clearedByRead (.config fn f)) s = .next (s.emit (.regRead v)) ∧ (f = .vendorId → v = 0x1F4B) ∧
      (f = .deviceId → v = if fn = 0 then 0x5124 else 0x5125) ∧ (f = .powerState → v = if (s.fn fn.toNat).d3 then 3 else 0) ∧
      (f = .vfEnable → fn = 0 → v = bit s.host.vfEnable)))

/-- An access of BAR space that is not aligned and of 32 bits (R462): a write is discarded, a read returns all ones, and AER of the function logs
it; nothing else changes. A function that is absent or in D3hot takes no access. -/
def Obligations.BadAccessesAreLogged : Prop :=
  ∀ (s : State) (fn : BitVec 7),
    (s.present fn.toNat = true → (s.fn fn.toNat).d3 = false →
      exec (.barBadAccess fn true) s = .next (s.setFn fn.toNat { s.fn fn.toNat with aerUr := true }) ∧
      exec (.barBadAccess fn false) s = .next ((s.setFn fn.toNat { s.fn fn.toNat with aerUr := true }).emit (.regRead 0xFFFFFFFF))) ∧
    (s.present fn.toNat = false ∨ (s.fn fn.toNat).d3 = true → ∀ w, exec (.barBadAccess fn w) s = .next s)

/-- Doorbells of queues (R256, R265): QD_TAIL sets TAIL of an enabled queue inside its ring and the mask and starts its fetches; any
other write sets the queue's error bit and raises QUEUE_DB_ERROR; QD_CPL_HEAD takes bits [15:0]. -/
def Obligations.QueueDoorbellsComplete : Prop :=
  ∀ (s : State) (fn : BitVec 7) (i : BitVec 9) (v : W32), s.decodes fn.toNat = true →
    exec (.qdCplHead fn v) s = .next (s.setDomain fn.toNat { s.domain fn.toNat with cHead := v.toNat % 65536 }) ∧
    ((s.queue fn.toNat i.toNat).on = true → s.inMask fn.toNat i.toNat = true → v.toNat % 4096 < (s.queue fn.toNat i.toNat).size →
      exec (.qdTail fn i v) s = .next
        ((s.setQueue fn.toNat i.toNat ((s.queue fn.toNat i.toNat).put 64 12 (v.toNat % 4096))).fetch fn.toNat i.toNat)) ∧
    (((s.queue fn.toNat i.toNat).on = false ∨ s.inMask fn.toNat i.toNat = false ∨ (s.queue fn.toNat i.toNat).size ≤ v.toNat % 4096) →
      exec (.qdTail fn i v) s = .next
        ((s.setQueue fn.toNat i.toNat ((s.queue fn.toNat i.toNat).put 106 1 1)).raise 49 (.d fn.toNat) { unit := i.toNat }))

/-- A register write is the command of its register (R465, R491, R556, R595): the offset selects MB_CMD's word, the doorbell, the acknowledge, the
event status and ring head, TM_ADJ, the arbiter, a queue's tail or a word of the MSI-X table; an address that holds no register, one that is
read-only and one that is not aligned ignores it; of BAR2 only flash recovery can be written, while BOOT_FAILED. -/
def Obligations.RegisterWritesComplete : Prop :=
  ∀ (s : State) (fn : BitVec 7) (off : BitVec 22) (v : W32),
    (s.decodes fn.toNat = false ∨ off.toNat % 4 ≠ 0 → ∀ b, exec (.registerWrite fn b off v) s = .next s) ∧
    (s.decodes fn.toNat = true → off.toNat % 4 = 0 →
      (∀ w, w < 16 → off.toNat = 0x100 + 4 * w →
        exec (.registerWrite fn false off v) s = .next
          (s.setFn fn.toNat { s.fn fn.toNat with cmd := BitVec.ofNat 512 (setFld (s.fn fn.toNat).cmd.toNat (32 * w) 32 v.toNat) })) ∧
      (off.toNat = 0x180 → exec (.registerWrite fn false off v) s = exec (.mbDoorbell fn (v.truncate 16)) s) ∧
      (off.toNat = 0x188 → exec (.registerWrite fn false off v) s = exec (.qdCplHead fn v) s) ∧
      (off.toNat = 0x18C → exec (.registerWrite fn false off v) s = exec (.mbRspAck fn v) s) ∧
      (∀ w, w < 10 → off.toNat = 0x200 + 4 * w → exec (.registerWrite fn false off v) s = exec (.evStatusClear fn w v) s) ∧
      (off.toNat = 0x284 → exec (.registerWrite fn false off v) s = exec (.evRingHead fn v) s) ∧
      (off.toNat = 0x1008 → exec (.registerWrite fn false off v) s = exec (.tmAdj fn v) s) ∧
      (∀ k, k < 4 → off.toNat = 0x3000 + 4 * k →
        (fn = 0 → exec (.registerWrite fn false off v) s = .next { s with host := { s.host with
          shadow := s.host.shadow.set k (fld v.toNat 0 3 + (if k = 3 then 0 else fld v.toNat 16 3 * 65536)) } }) ∧
        (fn ≠ 0 → exec (.registerWrite fn false off v) s = .next s)) ∧
      (off.toNat = 0x3010 → exec (.registerWrite fn false off v) s = exec (.paCommit fn v) s) ∧
      (∀ i : BitVec 9, off.toNat = 0x4000 + 4 * i.toNat → exec (.registerWrite fn false off v) s = exec (.qdTail fn i v) s) ∧
      (∀ k, k < 3 →
        (∀ w, w < 2 → off.toNat = 0x8000 + 16 * k + 4 * w → exec (.registerWrite fn false off v) s = .next (s.setFn fn.toNat { s.fn fn.toNat with
          vAddr := wr (s.fn fn.toNat).vAddr k (setFld (rd (s.fn fn.toNat).vAddr k 0) (32 * w) 32 v.toNat) })) ∧
        (off.toNat = 0x8008 + 16 * k → exec (.registerWrite fn false off v) s = .next (s.setFn fn.toNat { s.fn fn.toNat with
          vData := wr (s.fn fn.toNat).vData k v.toNat })) ∧
        (off.toNat = 0x800C + 16 * k → ∃ t f, exec (.registerWrite fn false off v) s = .next t ∧
          (v.getLsbD 0 = true → t = s.setFn fn.toNat f ∧ f = { s.fn fn.toNat with vMask := f.vMask } ∧
            ∀ j, j < 3 → f.vMask.getLsbD j = ((s.fn fn.toNat).vMask.getLsbD j || decide (j = k))) ∧
          (v.getLsbD 0 = false → ((s.fn fn.toNat).vPend.getLsbD k = false ∨ (s.fn fn.toNat).msixEnable = false ∨ (s.fn fn.toNat).funcMask = true) →
            t = s.setFn fn.toNat f ∧ f = { s.fn fn.toNat with vMask := f.vMask } ∧
            ∀ j, j < 3 → f.vMask.getLsbD j = ((s.fn fn.toNat).vMask.getLsbD j && decide (j ≠ k))))) ∧
      (off.toNat = 0x184 ∨ (0x140 ≤ off.toNat ∧ off.toNat < 0x180) ∨ (0x240 ≤ off.toNat ∧ off.toNat ≤ 0x280) ∨ off.toNat < 0x100 ∨
          (0x288 ≤ off.toNat ∧ off.toNat < 0x1008) ∨ (0x1008 < off.toNat ∧ off.toNat < 0x3000) ∨ (0x3010 < off.toNat ∧ off.toNat < 0x4000) ∨
          (0x4800 ≤ off.toNat ∧ off.toNat < 0x8000) ∨ 0x8030 ≤ off.toNat → exec (.registerWrite fn false off v) s = .next s) ∧
      (fn ≠ 0 ∨ s.sys.bootFailed = false → exec (.registerWrite fn true off v) s = .next s) ∧
      (fn = 0 → s.sys.bootFailed = true →
        (off.toNat = 0x300000 → exec (.registerWrite fn true off v) s = .next { s with sys := { s.sys with sector := v.extractLsb' 12 13 } }) ∧
        (∀ c op, (c, op) ∈ [(Instr.flashEraseSector, 1), (Instr.flashProgramSector, 2), (Instr.flashReadSector, 3), (Instr.repeatBoot, 4)] →
          off.toNat = 0x300004 → v.toNat % 8 = op → exec (.registerWrite fn true off v) s = exec c s) ∧
        (∀ a, a < 0x1000 → off.toNat = 0x301000 + a → exec (.registerWrite fn true off v) s = .next { s with sys := { s.sys with
          recoveryBuf := Mem.store 0 s.sys.recoveryBuf a (bytesLE 4 v.toNat) } }) ∧
        (off.toNat < 0x300000 ∨ (0x300004 < off.toNat ∧ off.toNat < 0x301000) ∨ 0x302000 ≤ off.toNat →
          exec (.registerWrite fn true off v) s = .next s)))

/-- The MSI-X table (R595). After power-on reset, a Conventional Reset and FLR of the function every vector is masked, its address and data are 0
and nothing is pending. A message that falls due while its vector is masked, while MSI-X Enable is clear or while Function Mask is set is not
sent, and sets the pending bit; else it is sent. When the host unmasks a vector, with MSI-X enabled and Function Mask clear, one message that is
pending is sent with the address and data that the table holds then, and its pending bit clears; with none pending nothing is sent. -/
def Obligations.MsixTableActs : Prop :=
  (∀ n v, (State.reset.fn n).vMask = 7 ∧ (State.reset.fn n).vPend = 0 ∧ rd (State.reset.fn n).vAddr v 0 = 0 ∧ rd (State.reset.fn n).vData v 0 = 0) ∧
  (∀ (s : State) (fn : BitVec 7) (i : Instr), i = .flrPf ∨ i = .conventionalReset ∨ (i = .flrVf fn ∧ fn ≠ 0 ∧ s.present fn.toNat = true) →
    ∃ t, exec i s = .next t ∧ (t.fn fn.toNat).vMask = 7 ∧ (t.fn fn.toNat).vPend = 0 ∧
      ∀ v, rd (t.fn fn.toNat).vAddr v 0 = 0 ∧ rd (t.fn fn.toNat).vData v 0 = 0) ∧
  (∀ (s : State) (n v : Nat), v < 3 →
    ((s.fn n).vMask.getLsbD v = true ∨ (s.fn n).msixEnable = false ∨ (s.fn n).funcMask = true → ∃ p, s.msix n v = s.setFn n { s.fn n with vPend := p } ∧
      ∀ k, k < 3 → p.getLsbD k = ((s.fn n).vPend.getLsbD k || decide (k = v))) ∧
    ((s.fn n).vMask.getLsbD v = false → (s.fn n).msixEnable = true → (s.fn n).funcMask = false → (s.fn n).d3 = false → s.host.linkUp = true →
      s.msix n v = s.emit (.msix n (rd (s.fn n).vAddr v 0) (rd (s.fn n).vData v 0)))) ∧
  (∀ (s : State) (fn : BitVec 7) (v : Nat), s.decodes fn.toNat = true → v < 3 → s.host.linkUp = true →
    ((s.fn fn.toNat).vPend.getLsbD v = true → ∃ t f, exec (.msixUnmask fn v) s = .next t ∧
      t = (s.setFn fn.toNat f).emit (.msix fn.toNat (rd (s.fn fn.toNat).vAddr v 0) (rd (s.fn fn.toNat).vData v 0)) ∧
      f.msixEnable = true ∧ f.funcMask = false ∧
      (∀ k, k < 3 → f.vMask.getLsbD k = ((s.fn fn.toNat).vMask.getLsbD k && decide (k ≠ v)) ∧
        f.vPend.getLsbD k = ((s.fn fn.toNat).vPend.getLsbD k && decide (k ≠ v)))) ∧
    ((s.fn fn.toNat).vPend.getLsbD v = false → ∃ t f, exec (.msixUnmask fn v) s = .next t ∧
      t = s.setFn fn.toNat f ∧ f.msixEnable = true ∧ f.funcMask = false ∧ f.vPend = (s.fn fn.toNat).vPend))

/-- BAR2 (R192, R490, R491, R545): the plate store and the channel states read as they stand, by an access of the DBG master, and 0 in Reset and
Boot; a plate word with an uncorrectable error reads as all ones and raises PLATE_ECC_UNCORR, one with single-bit errors is corrected; the recovery
window reads 0 unless BOOT_FAILED; other addresses read 0. -/
def Obligations.Bar2ReadsComplete : Prop :=
  ∀ (s : State) (off : BitVec 22), s.decodes 0 = true → off.toNat % 4 = 0 →
    (s.sys.mode = .reset ∨ s.sys.mode = .boot → off.toNat < 0x2A0000 →
      exec (.bar2WindowRead 0 off) s = .next (s.emit (.regRead 0))) ∧
    (s.sys.mode ≠ .reset → s.sys.mode ≠ .boot →
      (off.toNat < 0x200000 → ∀ u, u = s.busAccess 9 false .plateStore →
        (s.badIn (off.toNat / 4096) (off.toNat % 4096) 4 = false →
          exec (.bar2WindowRead 0 off) s = .next
            ((u.emit (.regRead (ofBytesLE ((List.range 4).map (fun k => Mem.byte plateDefault s.burin.store (off.toNat + k)))))).eccCorrect
              (off.toNat / 4096) (off.toNat % 4096) 4)) ∧
        (s.badIn (off.toNat / 4096) (off.toNat % 4096) 4 = true →
          exec (.bar2WindowRead 0 off) s = .next ((u.emit (.regRead 0xFFFFFFFF)).raise 11 .m { unit := off.toNat / 4096 }))) ∧
      (∀ x o, x < 10240 → o < 64 → off.toNat = 0x200000 + 64 * x + o →
        exec (.bar2WindowRead 0 off) s = .next ((s.busAccess 9 false .channelState).emit (.regRead (fld (s.cs x).toNat (8 * o) 32))))) ∧
    (off.toNat = 0x300000 →
      exec (.bar2WindowRead 0 off) s = .next (s.emit (.regRead (if s.sys.bootFailed then s.sys.sector.toNat * 4096 else 0)))) ∧
    (off.toNat = 0x300008 → exec (.bar2WindowRead 0 off) s = exec (.clearedByRead .flashStatus) s) ∧
    (∀ a, a < 0x1000 → off.toNat = 0x301000 + a →
      exec (.bar2WindowRead 0 off) s = .next (s.emit (.regRead
        (if s.sys.bootFailed then ofBytesLE ((List.range 4).map (fun k => Mem.byte 0 s.sys.recoveryBuf (a + k))) else 0)))) ∧
    (0x2A0000 ≤ off.toNat ∧ off.toNat < 0x300000 ∨ off.toNat = 0x300004 ∨ (0x300008 < off.toNat ∧ off.toNat < 0x301000) ∨ 0x302000 ≤ off.toNat →
      exec (.bar2WindowRead 0 off) s = .next (s.emit (.regRead 0)))

/-- The bus matrix (R545, R546, R549, R551, R552): an access outside the table answers the master with an error and changes nothing; from a master
other than DBG it raises INTERNAL_ERROR while the core runs. A transaction carries its master's number and a tag that is free, at most 16 per master;
a path that is granted records its master and its leaf, which come last in the next round. A reset of HDMA in mid-burst flushes its reads,
which it issues again; one of another master removes its plate writes that wait, with its outstanding IDs, and nothing of another master. -/
def Obligations.BusMatrixComplete : Prop :=
  ∀ (s : State) (m : Nat), m < 10 →
    (∀ w t, busPermits m w t = false →
      exec (.busErrorAccess m w t) s = .next (if m = 9 then s.emit (.busError 9) else (s.emit (.busError m)).raiseCore 7 .m)) ∧
    (∀ w t, busPermits m w t = true → exec (.busErrorAccess m w t) s = .next s) ∧
    (busPermits 9 true .plateStore = false ∧ busPermits 9 false .plateStore = true ∧ busPermits 5 true .plateStore = true ∧
      busPermits 6 false .plateStore = false ∧ busPermits 0 true .slotTable = true ∧ busPermits 9 true .slotTable = false ∧
      busPermits 7 true .tcm = true ∧ busPermits 5 false .tcm = false ∧ (∀ w, busPermits m w .none = false)) ∧
    (∀ id, s.host.bus.freeId m = some id → id / 16 = m ∧ ∀ x ∈ s.host.bus.txns, x.id ≠ id) ∧
    (s.host.bus.freeId m = none → ∀ k < 16, ∃ x ∈ s.host.bus.txns, x.id = 16 * m + k) ∧
    (∀ w t, (s.host.bus.freeId m = none → s.busAccess m w t = s) ∧
      (∀ id, s.host.bus.freeId m = some id → ∃ b, s.busAccess m w t = { s with host := { s.host with bus := b } } ∧
        (t ≠ .plateStore ∨ w = false → rd b.rootLast (portOf t) 3 = leafOf m ∧ rd b.leafLast (16 * leafOf m + portOf t) 10 = m) ∧
        (∀ x ∈ s.host.bus.txns, x.served = false → x ∈ b.txns))) ∧
    (m = 4 →
      exec (.masterResetMidBurst m) s = .next
        { s with host := { s.host with xfers := s.host.xfers.map (fun x => { x with issued := x.issued - x.inFlight, inFlight := 0 }) } }) ∧
    (m ≠ 4 → ∃ t, exec (.masterResetMidBurst m) s = .next t ∧
      t = { s with host := { s.host with
        portWaits := s.host.portWaits.filter (fun w => decide ((if w.requester = 6 then 8 else w.requester) ≠ m))
        bus := { s.host.bus with txns := t.host.bus.txns } } } ∧
      (∀ x ∈ s.host.bus.txns, x ∈ t.host.bus.txns ↔ x.id / 16 ≠ m ∧
        ∀ w ∈ s.host.portWaits, (if w.requester = 6 then 8 else w.requester) = m → w.id ≠ some x.id))

/-- The board management port (R581, R582): outside Reset the target answers its own address with the content of a command code for the
code's transfer type, and the Alert Response Address while SMBALERT_N is low; it gives no data to any other address, code or transfer,
in Reset, and at a clock-low timeout. The state does not change. -/
def Obligations.SmbusComplete : Prop :=
  ∀ (s : State) (addr : BitVec 7) (op : SmbusOp) (code : BitVec 8),
    exec .smbusClockLowTimeout s = .next (s.emit (.smbus none)) ∧
    (s.sys.mode = .reset → exec (.smbusRead addr op code) s = .next (s.emit (.smbus none))) ∧
    (s.sys.mode ≠ .reset →
      (addr.toNat = (if s.clk.siteId then 0x5B else 0x5A) →
        (op = .readWord → code = 0 → exec (.smbusRead addr op code) s = .next (s.emit (.smbus (some [0x24, 0x51])))) ∧
        (op = .readWord → 0x30 ≤ code.toNat → code.toNat < 0x48 → ∀ v, s.faults.volts[code.toNat - 0x30]? = some v →
          exec (.smbusRead addr op code) s = .next (s.emit (.smbus (some (bytesLE 2 v))))) ∧
        (op = .readByte → code = 1 →
          exec (.smbusRead addr op code) s = .next (s.emit (.smbus (some [BitVec.ofNat 8
            (s.sys.mode.num + 16 * bit s.pair.held + 32 * bit s.faults.healthy + 64 * bit s.faults.thermalLimit + 128 * bit s.supplyStands)])))) ∧
        (op = .blockRead → code = 0x50 → exec (.smbusRead addr op code) s = .next (s.emit (.smbus (some (bytesLE 8 (s.fuse 3072 64)))))) ∧
        (op = .write → exec (.smbusRead addr op code) s = .next (s.emit (.smbus none)))) ∧
      (addr = 0x0C → op = .readByte →
        exec (.smbusRead addr op code) s = .next (s.emit (.smbus
          (if s.faults.thermalLimit || s.supplyStands then some [BitVec.ofNat 8 (2 * (if s.clk.siteId then 0x5B else 0x5A))] else none)))) ∧
      (addr.toNat ≠ (if s.clk.siteId then 0x5B else 0x5A) → addr ≠ 0x0C →
        exec (.smbusRead addr op code) s = .next (s.emit (.smbus none))))

/-- The debug port (R449, R545): DEBUG_LOCK in force, or a mode other than Service and Isolated, gives DBG no access; an access that the
table does not list answers with an error; a read of the plate store, of a channel state or of the fuse array returns what stands
there; a write of the tightly coupled memory sets its four bytes and no others. -/
def Obligations.DebugPortComplete : Prop :=
  ∀ (s : State) (w : Bool) (t : BusTarget) (a : Nat) (v : W32),
    (s.fuse 2816 1 = 1 ∨ (s.sys.mode ≠ .service ∧ s.sys.mode ≠ .isolated) → exec (.jtagDebugAccess w t a v) s = .next s) ∧
    (s.fuse 2816 1 = 0 → s.sys.mode = .service ∨ s.sys.mode = .isolated →
      (busPermits 9 w t = false → exec (.jtagDebugAccess w t a v) s = .next (s.emit (.busError 9))) ∧
      (exec (.jtagDebugAccess false .channelState a v) s =
        .next ((s.busAccess 9 false .channelState).emit (.regRead (fld (s.cs (a / 64)).toNat (8 * (a % 64)) 32)))) ∧
      (exec (.jtagDebugAccess false .fuse a v) s = .next ((s.busAccess 9 false .fuse).emit (.regRead (fld s.sys.fuses.toNat (8 * a) 32)))) ∧
      (a < 2 ^ 21 → ∀ u, u = s.busAccess 9 false .plateStore →
        (s.badIn (a / 4096) (a % 4096) 4 = false → exec (.jtagDebugAccess false .plateStore a v) s = .next
          ((u.emit (.regRead (ofBytesLE ((List.range 4).map (fun k => Mem.byte plateDefault s.burin.store (a + k)))))).eccCorrect
            (a / 4096) (a % 4096) 4)) ∧
        (s.badIn (a / 4096) (a % 4096) 4 = true → exec (.jtagDebugAccess false .plateStore a v) s = .next
          ((u.emit (.regRead 0xFFFFFFFF)).raise 11 .m { unit := a / 4096 }))) ∧
      (∃ u : State, exec (.jtagDebugAccess true .tcm a v) s = .next u ∧
        u = { s with sys := { s.sys with tcm := u.sys.tcm }, host := (s.busAccess 9 true .tcm).host } ∧
        (∀ k, k < 4 → u.tcmAt (a + k) = v.extractLsb' (8 * k) 8) ∧
        (∀ b, b < a ∨ a + 4 ≤ b → u.tcmAt b = s.tcmAt b)))

/-! ## Reset, clocks, supplies, boot, flash and fuses -/

/-- Power-on reset and RST_N (R435, R436), a collapse of the core supplies (R97) and the release of RST_N (R435, R568). Reset leaves mode
Reset with no lease, every line isolated, the plate store cleared, frame 0, no command running and the function registers at reset; flash,
the programmed fuses and the island's epoch stand. At the release the straps are latched and the fuses as programmed come into force. -/
def Obligations.ResetsComplete : Prop :=
  ∀ s : State,
    (∀ i : Instr, i = .rstNAssert ∨ i = .coreSupplyCollapse → ∃ t, exec i s = .next t ∧
      t.sys.mode = .reset ∧ t.pair.held = false ∧ t.drive.closed = false ∧ t.drive.holding = false ∧ t.burin.store = [] ∧ t.clk.frame = 0 ∧
      t.clk.lpll = false ∧ t.atTick = [] ∧ t.sys.running = [] ∧ t.host.fns = [] ∧ t.host.linkUp = false ∧ t.ft = FabTime.init ∧ t.sched = Sched.init ∧
      t.desc = Desc.init ∧ t.sys.flash = s.sys.flash ∧ t.sys.fuses = s.sys.fuses ∧ t.pair.epoch = s.pair.epoch ∧
      (i = .rstNAssert → t.clk.rstN = false ∧ t.clk.coreUp = true) ∧ (i = .coreSupplyCollapse → t.clk.coreUp = false) ∧
      (s.pair.held = true → s.pair.solo = false → s.clk.vddLease = true → t.host.out = s.host.out ++ [.refSymbol s.pair.refB]) ∧
      (s.pair.held = false ∨ s.pair.solo = true ∨ s.clk.vddLease = false → t.host.out = s.host.out)) ∧
    (∀ a b c : Bool, (s.clk.rstN = true ∨ s.clk.coreUp = false) → exec (.rstNRelease a b c) s = .next s) ∧
    (∀ a b c : Bool, s.clk.rstN = false → s.clk.coreUp = true →
      exec (.rstNRelease a b c) s = .next
        { s with clk := { s.clk with rstN := true, siteId := a, pref := b, clkMode := c }
                 sys := { s.sys with fusesInForce := s.sys.fuses } })

/-- Clocks and supplies (R14, R15, R21, R97, R318, R336, R343). LPLL's lock begins frame 0 at fabric time 0, and Boot from Reset; its loss stops
the ticks and holds the outputs of a lease, with CLOCK_LOSS while the interconnect clock runs; ETHREF's loss takes the management ports and the
mirror lanes down, and enters HOLDOVER where PTP was the source; VDD_LEASE's loss isolates every line, ends the lease and forgets the
island's epoch; when it is applied the island starts, and a referee waits as after its own start. -/
def Obligations.ClocksAndSuppliesComplete : Prop :=
  ∀ s : State,
    (s.clk.lpll = true ∨ s.clk.rstN = false ∨ s.clk.coreUp = false → exec .lpllLock s = .next s) ∧
    (s.clk.lpll = false → s.clk.rstN = true → s.clk.coreUp = true → ∃ t, exec .lpllLock s = .next t ∧
      t.clk.lpll = true ∧ t.clk.interconnect = true ∧ t.clk.frame = 0 ∧ t.clk.cycle = 0 ∧ t.clk.tickTime = 0 ∧ t.clk.committed = false ∧
      t.ft.t = 0 ∧ t.ft.state = s.ft.state ∧ t.ft.source = s.ft.source ∧ t.ft.freq = s.ft.freq ∧ t.drive = { s.drive with holding := false } ∧
      t.pair.held = s.pair.held ∧ t.pair.epoch = s.pair.epoch ∧ t.sys.mode = (if s.sys.mode = .reset then .boot else s.sys.mode)) ∧
    (s.clk.lpll = false → ∀ b, exec (.clockLoss b) s = .next s) ∧
    (s.clk.lpll = true →
      exec (.clockLoss false) s = .next
        { s with clk := { s.clk with lpll := false, interconnect := false }, drive := { s.drive with holding := s.pair.held } } ∧
      exec (.clockLoss true) s = .next
        (({ s with clk := { s.clk with lpll := false, interconnect := true }, drive := { s.drive with holding := s.pair.held } } : State).raise 0 .m)) ∧
    (s.clk.ethref = false → exec .ethrefLoss s = .next s) ∧
    (s.clk.ethref = true → ∃ t, exec .ethrefLoss s = .next t ∧ t.clk.ethref = false ∧ t.clk.frame = s.clk.frame ∧ t.sys.mode = s.sys.mode ∧
      (∀ port, (t.ptp port).up = false ∧ (t.ptp port).best = none ∧ (t.ptp port).hasMaster = false) ∧ t.mirror.lane0 = false ∧ t.mirror.lane1 = false ∧
      t.ft.t = s.ft.t ∧ (s.pair.extended = false → t.pair.held = s.pair.held ∧ t.drive.closed = s.drive.closed) ∧
      (s.ft.source = .ptp → s.sys.restarting = false → s.ft.state = .locked ∨ s.ft.state = .acquiring → t.ft.state = .holdover) ∧
      (s.ft.source = .host ∨ s.ft.source = .none ∨ (s.ft.source = .pps ∧ s.ft.ppsLost = false) ∨ s.sys.restarting = true →
        t.ft.state = s.ft.state)) ∧
    exec .ethrefRestored s = .next { s with clk := { s.clk with ethref := true } } ∧
    (s.clk.vddLease = false → exec .vddLeaseLoss s = .next s) ∧
    (s.clk.vddLease = true → ∃ t, exec .vddLeaseLoss s = .next t ∧ t.clk = { s.clk with vddLease := false } ∧ t.pair.held = false ∧ t.pair.epoch = 0 ∧
      t.pair.armed = none ∧ t.pair.image = none ∧ t.pair.refHolder = none ∧ t.pair.refReady = false ∧ t.drive = { s.drive with closed := false, holding := false } ∧
      t.pair.portA = .init ∧ t.pair.portB = .init ∧ (s.pair.held = true → TickOp.enter .standby ∈ t.atTick)) ∧
    (s.clk.vddLease = true → exec .vddLeaseApply s = .next s) ∧
    (s.clk.vddLease = false → exec .vddLeaseApply s = .next
      { s with clk := { s.clk with vddLease := true }, pair := { s.pair with refSince := s.pair.now } })

/-- Boot and the end of start-up (R437, R438, R440, R445, R446, R408). The Boot ROM runs the first image, in the order of its slots, that
verifies, opens the mailbox, and the next tick enters Start-up Calibration, or the boot target where it is skipped; with no image that
verifies it reports BOOT_FAILED with the reason of the last slot tried. The same selection runs at OP 4 of flash recovery. -/
def Obligations.BootComplete : Prop :=
  ∀ s : State,
    (∀ i : Instr, (i = .bootComplete ∧ s.sys.mode = .boot ∧ s.sys.mailboxOpen = false ∧ s.sys.bootFailed = false ∧ s.runs = true) ∨
        (i = .repeatBoot ∧ s.sys.bootFailed = true ∧ s.sys.recoveryOp = 0) →
      ((∀ b, (s.slotFault b).isSome = true) → ∀ r, s.slotFault ((s.slotOrder.getLast?).getD false) = some r →
        exec i s = .next { s with sys := { s.sys with bootFailed := true, bootReason := r } }) ∧
      (∀ b, s.slotOrder.find? (fun x => (s.slotFault x).isNone) = some b → ∃ t, exec i s = .next t ∧
        t.sys.bootFailed = false ∧ t.sys.mailboxOpen = true ∧ t.sys.slotB = b ∧ t.sys.mode = s.sys.mode ∧
        t.sys.version = BitVec.ofNat 32 (fieldB (s.slotHeader b) 8 4) ∧
        t.atTick = s.atTick ++ [.enter (if t.skipsStartup then t.bootTarget else .startupCal)])) ∧
    (s.sys.bootFailed = true → s.sys.recoveryOp ≠ 0 →
      exec .repeatBoot s = .next { s with sys := { s.sys with recoveryError := true } }) ∧
    (s.sys.mode = .startupCal → s.cal.phase = 3 →
      exec .startupCalEnd s = .next { s with atTick := s.atTick ++ [.enter s.bootTarget] })

/-- Flash recovery (R446, R491): only while BOOT_FAILED; a request starts an operation, or sets ERROR while one runs and for an erase or a
program outside the slots. When it ends, BUSY clears, and an erase leaves the sector erased, a program the buffer's bytes in it, a read its
bytes in the buffer; all other bytes stand; a failure sets ERROR. -/
def Obligations.FlashRecoveryComplete : Prop :=
  ∀ s : State,
    (s.sys.bootFailed = false →
      exec .flashEraseSector s = .next s ∧ exec .flashProgramSector s = .next s ∧ exec .flashReadSector s = .next s ∧ exec .repeatBoot s = .next s) ∧
    (∀ (i : Instr) (op : Nat), (i, op) ∈ [(Instr.flashEraseSector, 1), (Instr.flashProgramSector, 2), (Instr.flashReadSector, 3)] →
      s.sys.bootFailed = true →
      (s.sys.recoveryOp = 0 → (op = 3 ∨ s.sys.sector.toNat < 4096) →
        exec i s = .next { s with sys := { s.sys with recoveryOp := op } }) ∧
      (s.sys.recoveryOp ≠ 0 ∨ (op < 3 ∧ 4096 ≤ s.sys.sector.toNat) →
        exec i s = .next { s with sys := { s.sys with recoveryError := true } })) ∧
    (s.sys.recoveryOp ≠ 0 →
      exec (.flashOpDone false) s = .next { s with sys := { s.sys with recoveryOp := 0, recoveryError := true } }) ∧
    (Mem.wf flashDefault s.sys.flash = true → Mem.wf 0 s.sys.recoveryBuf = true →
      (s.sys.recoveryOp = 1 ∨ s.sys.recoveryOp = 2 → ∃ t, exec (.flashOpDone true) s = .next t ∧
        t = { s with sys := { s.sys with recoveryOp := 0, flash := t.sys.flash } } ∧
        ∀ a, Mem.byte flashDefault t.sys.flash a =
          if 4096 * s.sys.sector.toNat ≤ a ∧ a < 4096 * s.sys.sector.toNat + 4096 then
            (if s.sys.recoveryOp = 1 then flashDefault else Mem.byte 0 s.sys.recoveryBuf (a - 4096 * s.sys.sector.toNat))
          else Mem.byte flashDefault s.sys.flash a) ∧
      (s.sys.recoveryOp = 3 → ∃ t, exec (.flashOpDone true) s = .next t ∧
        t = { s with sys := { s.sys with recoveryOp := 0, recoveryBuf := t.sys.recoveryBuf } } ∧
        ∀ a, a < 4096 → Mem.byte 0 t.sys.recoveryBuf a = Mem.byte flashDefault s.sys.flash (4096 * s.sys.sector.toNat + a)))

/-- Flash writes in their order, staging behind all others (R67, R378, R423, R440, R442, R450, R451), and the programming of fuses (R448). A record
goes into its older copy with the next sequence number; a control block is erased and written; an image that was staged is verified; the command
that waits is answered with OK, or with INTERNAL when the write failed, which then changes no byte (the model's choice for the older copy, log 56), and
a record of the firmware's own is due again. When every fuse bit matches, the bits asked for and SEALED are programmed and the command completes with
OK; when one fails, or FUSE_EN goes low, SEALED stays as it was, no bit outside those asked for changes and none clears, and the command completes with
INTERNAL or NOT_PERMITTED. -/
def Obligations.FlashAndFuseWritesComplete : Prop :=
  ∀ s : State,
    (s.sys.flashJobs = [] → ∀ ok, exec (.flashWriteDone ok) s = .next s) ∧
    (∀ (j : FlashJob) (rest : List FlashJob) (u : State),
      s.sys.flashJobs.filter (fun x => !x.isStage) ++ s.sys.flashJobs.filter FlashJob.isStage = j :: rest →
      u = { s with sys := { s.sys with flashJobs := rest } } →
      (∀ (a0 a1 : Nat) (body : List Byte) (w : State), w = u.flashWrite (if (s.recordNext a0 a1 body.length).1 then a1 else a0)
            (recordBytes (s.recordNext a0 a1 body.length).2 body) →
        (∀ c, j = .descriptor body c → a0 = 0x01000000 → a1 = 0x01008000 →
          exec (.flashWriteDone true) s = .next (w.answer c stOk []) ∧ exec (.flashWriteDone false) s = .next (u.answer c stInternal [])) ∧
        (j = .retirement body → a0 = retireA0 → a1 = retireA1 → exec (.flashWriteDone true) s = .next w ∧
          exec (.flashWriteDone false) s = .next (({ u with faults := { u.faults with recordDue := true } } : State).raise 19 .m)) ∧
        (∀ boot policy c reply, j = .mode boot policy c reply → body = modeFields s.modeBody boot policy → a0 = 0x01012000 → a1 = 0x01013000 →
          exec (.flashWriteDone true) s = .next (w.answer c stOk reply) ∧ exec (.flashWriteDone false) s = .next (u.answer c stInternal reply)) ∧
        (j = .converter body → a0 = convA0 → a1 = convA1 → exec (.flashWriteDone true) s = .next w ∧
          exec (.flashWriteDone false) s = .next { u with cal := { u.cal with convDue := true } }) ∧
        (j = .fabric body → a0 = fabA0 → a1 = fabA1 → exec (.flashWriteDone true) s = .next w ∧
          exec (.flashWriteDone false) s = .next { u with cal := { u.cal with fabDue := true } })) ∧
      (∀ b seq c, j = .control b seq c →
        exec (.flashWriteDone true) s = .next (((u.flashWrite (slotBase b) (List.replicate 4096 0xFF)).flashWrite (slotBase b)
          (controlBytes seq (s.slotLen b))).answer c stOk []) ∧
        exec (.flashWriteDone false) s = .next (u.answer c stInternal [])) ∧
      (∀ b image c (v : State), j = .stage b image c → v = { u with sys := { u.sys with staging := false } } →
        exec (.flashWriteDone false) s = .next (v.answer c stInternal []) ∧
        (∀ (x y : State), x = v.flashWrite (slotBase b + 4096) image →
          y = (x.flashWrite (slotBase b) (List.replicate 4096 0xFF)).flashWrite (slotBase b)
            (controlBytes ((s.slotSeq s.sys.slotB + 2 ^ 32 - 1) % 2 ^ 32) image.length) →
          ((x.imageFault (image.take 512) image.length (sliceB image 512 (fieldB image 0x10 4))).isSome = true →
            exec (.flashWriteDone true) s = .next (x.answer c stNotPermitted [])) ∧
          ((x.imageFault (image.take 512) image.length (sliceB image 512 (fieldB image 0x10 4))) = none →
            exec (.flashWriteDone true) s = .next (y.answer c stOk [(0, bit b), (4, fieldB image 8 4)]))))) ∧
    (s.sys.fuseJob = none → ∀ ok, exec (.fuseProgramDone ok) s = .next s) ∧
    (∀ want c, s.sys.fuseJob = some (want, c) →
      exec (.fuseProgramDone true) s = .next
        (({ s with sys := { s.sys with fuseJob := none, fuses := s.sys.fuses ||| want ||| BitVec.ofNat 4096 (2 ^ 2819) } } : State).answer
          c stOk []) ∧
      (∀ i : Instr, ∀ st, (i, st) ∈ [(Instr.fuseProgramDone false, stInternal), (Instr.fuseEnDeassert, stNotPermitted)] →
        ∃ t u : State, exec i s = .next t ∧ t = u.answer c st [] ∧ u.sys.fuseJob = none ∧
          (i = .fuseEnDeassert → u.clk.fuseEn = false) ∧
          ∀ k, (s.sys.fuses.getLsbD k = true → u.sys.fuses.getLsbD k = true) ∧
            (u.sys.fuses.getLsbD k = true → s.sys.fuses.getLsbD k = true ∨ want.getLsbD k = true))) ∧
    (s.sys.fuseJob = none → exec .fuseEnDeassert s = .next { s with clk := { s.clk with fuseEn := false } })

/-- Hot restart (R451 to R454). A watchdog expiry starts one: commands are held, the fabric, lease and mode go on; the third within 5,000,000 frames
raises INTERNAL_ERROR, and asks for a planned swap or clears HEALTHY. Its end takes RESTARTING back, serves the commands held and those that
wait. An activation that is not running 40,000 frames after the start falls back to the previous image, with BOOT_FALLBACK. -/
def Obligations.HotRestartComplete : Prop :=
  ∀ s : State,
    (s.sys.mailboxOpen = false ∨ s.sys.restarting = true → exec .watchdogExpiry s = .next s) ∧
    (s.sys.mailboxOpen = true → s.sys.restarting = false → ∀ l, l = s.clk.frame :: s.sys.restarts.filter (fun f => decide (s.clk.frame < f + 5000000)) →
      (∃ t, exec .watchdogExpiry s = .next t ∧ t.sys.restarting = true ∧ t.sys.mode = s.sys.mode ∧ t.pair.held = s.pair.held ∧ t.clk = s.clk ∧
        t.drive.closed = s.drive.closed ∧ t.sys.restarts = l ∧ t.sys.restartTick = s.clk.ticks ∧ t.sys.activate = none) ∧
      (∀ u, u = (({ s with sys := { s.sys with restarts := l, activate := none } } : State).startRestart).dropBuffers →
        exec .watchdogExpiry s = .next (if l.length < 3 then u
          else if (u.raise 7 .m).pair.held then (u.raise 7 .m).requestSwap else (u.raise 7 .m).unhealthy))) ∧
    (s.sys.restarting = false → exec .hotRestartEnd s = .next s) ∧
    (s.sys.restarting = true → ∃ t, exec .hotRestartEnd s = .next t ∧ t.sys.mode = s.sys.mode ∧ t.clk.frame = s.clk.frame ∧
      s.endRestart.sys.restarting = false ∧ t = s.endRestart.runHeld.takeWaiting) ∧
    (s.sys.restarting = true → s.sys.activate.isSome = true → s.sys.restartTick + 40000 ≤ s.clk.ticks →
      exec .restartFallback s = .next (({ s with sys := { s.sys with activate := none } } : State).raise 6 .m)) ∧
    (s.sys.restarting = false ∨ s.sys.activate = none ∨ s.clk.ticks < s.sys.restartTick + 40000 → exec .restartFallback s = .next s)

/-! ## Resets and states of the functions -/

/-- FLR of a VF (R486): its registers, MSI-X table and events take their reset values, its queues are reset as by QUEUE_RESET and its
completion ring configuration is cleared, its transfers go and STOPPED clears; its weight and buckets, and everything of the other functions,
stand; mode, lease, loops, slot table and plates are not touched. -/
def Obligations.VfResetComplete : Prop :=
  ∀ (s : State) (fn : BitVec 7), fn ≠ 0 → s.present fn.toNat = true →
    ∃ t, exec (.flrVf fn) s = .next t ∧
      t.fn fn.toNat = { Fn.init with d3 := (s.fn fn.toNat).d3, aerUr := (s.fn fn.toNat).aerUr } ∧
      (∀ k, k ≠ fn.toNat → t.fn k = s.fn k ∧ t.domain k = s.domain k ∧ t.xlate k = s.xlate k ∧ ∀ i, i < 512 → t.queue k i = s.queue k i) ∧
      (∀ i, i < 512 → (t.queue fn.toNat i).on = false ∧ (t.queue fn.toNat i).descs = [] ∧ (t.queue fn.toNat i).head = (s.queue fn.toNat i).tail) ∧
      t.domain fn.toNat = { s.domain fn.toNat with cBase := 0, cK := 0, cWrite := 0, cPhase := true, cHead := 0, cReserved := 0 } ∧
      t.xlate fn.toNat = { s.xlate fn.toNat with stopped := false } ∧
      t.host.xfers = s.host.xfers.filter (fun x => decide (x.dom ≠ fn.toNat)) ∧
      t.sys.mode = s.sys.mode ∧ t.pair = s.pair ∧ t.loops = s.loops ∧ t.burin = s.burin ∧ t.imp = s.imp ∧
      t.sched.slotA = s.sched.slotA ∧ t.sched.slotB = s.sched.slotB ∧ t.ft = s.ft

/-- FLR of the PF, Conventional Reset and VF Enable (R463, R487, R488): the PF and every VF are reset, VF Enable clears, every domain's
translation state takes its reset value and the priorities of the plate port too; a Conventional Reset also takes the link down and clears
the power states. Mode, lease, loops, plates, calibration, time and pairing are not changed. The link comes up when it trains. -/
def Obligations.PfResetComplete : Prop :=
  ∀ s : State,
    (∀ i : Instr, i = .flrPf ∨ i = .conventionalReset → ∃ t, exec i s = .next t ∧
      t.host.vfEnable = false ∧ (∀ d, t.xlate d = .init d) ∧ t.host.tlb = [] ∧ t.host.committed = none ∧
      t.host.active = [0x00020002, 0x00020002, 0x00070004, 0x00000006] ∧ t.clk = { s.clk with pcCycle := 0, pcHi := 0 } ∧
      (t.fn 0).cmdFull = false ∧ (t.fn 0).rspValid = false ∧ (t.fn 0).evEnable = 0 ∧ (t.fn 0).vMask = 7 ∧
      t.sys.mode = s.sys.mode ∧ t.pair = s.pair ∧ t.loops = s.loops ∧ t.burin = s.burin ∧ t.cal = s.cal ∧ t.ft = s.ft ∧ t.mirror = s.mirror ∧
      (i = .conventionalReset → t.host.linkUp = false ∧ (t.fn 0).d3 = false ∧ (t.fn 0).aerUr = false)) ∧
    exec (.vfEnable true) s = .next { s with host := { s.host with vfEnable := true } } ∧
    (∃ t, exec (.vfEnable false) s = .next t ∧ t.host.vfEnable = false ∧ t.fn 0 = s.fn 0 ∧ t.sys.mode = s.sys.mode ∧ t.pair = s.pair) ∧
    (s.clk.rstN = true → s.clk.coreUp = true → exec .pcieLinkTrained s = .next { s with host := { s.host with linkUp := true } })

/-- D3hot and the return to D0 (R489): the function keeps its registers; while in D3hot it decodes no access, and on its return the messages
that wait in unmasked vectors are sent. -/
def Obligations.PowerStatesComplete : Prop :=
  ∀ (s : State) (fn : BitVec 7), s.present fn.toNat = true →
    exec (.powerStateChange fn true) s = .next (s.setFn fn.toNat { s.fn fn.toNat with d3 := true }) ∧
    ((s.fn fn.toNat).vPend = 0 →
      exec (.powerStateChange fn false) s = .next (s.setFn fn.toNat { s.fn fn.toNat with d3 := false })) ∧
    ((s.fn fn.toNat).d3 = true → ∀ (v : W32) (q : W16),
      exec (.mbDoorbell fn q) s = .next s ∧ exec (.mbRspAck fn v) s = .next s ∧ exec (.evRingHead fn v) s = .next s ∧
      exec (.qdCplHead fn v) s = .next s ∧ exec (.tmNsRead fn) s = .next s ∧ exec (.barBadAccess fn true) s = .next s)
/-! ## The frame, conversions, impressions, slots and refills -/

/-- The commit point and the tick (R17, R18, R22, R23). While the sequencer runs, COMMIT_POINT carries the clock to 24 cycles before the tick
and marks that codes written from now on wait for the tick after the next; FRAME_TICK carries the clock to the tick and begins the frame
whose number is the fabric time of the tick, in whole nanoseconds, divided by 2,000. With no loop clock neither happens. -/
def Obligations.FrameCommandsComplete : Prop :=
  ∀ s : State,
    (s.runs = true →
      (∃ t, exec .commitPoint s = .next t ∧ t.clk.committed = true ∧ t.clk.cycle = max s.clk.cycle (s.frameLen - 24) ∧
        t.clk.frame = s.clk.frame ∧ t.ft.t % 2 ^ 112 = (s.ft.t + (s.frameLen - 24 - s.clk.cycle) * s.ft.inc) % 2 ^ 112 ∧
        t.sys.mode = s.sys.mode ∧ t.pair.held = s.pair.held) ∧
      (∀ i : TickIn, ∃ t, exec (.frameTick i) s = .next t ∧
        t.clk.frame = (s.ft.t + s.toTick * s.ft.inc) % 2 ^ 112 / 2 ^ 48 / 2000)) ∧
    (s.runs = false → exec .commitPoint s = .next s ∧ ∀ i : TickIn, exec (.frameTick i) s = .next s)

/-- A conversion boundary of an ADC core (R119, R120, R133, R327). With no urgent request waiting, the first pending entry of the frame's table that
may be converted (any under a lease, without one those under test or calibration) is converted and leaves the list; the word becomes the channel's
last word and the frame's sample; with none left the core makes its check. A core of the captured pair gives its conversions to the capture, up to
16,384; when these are made, CAPTURE_END ends the capture and writes the words to the buffer. -/
def Obligations.ConversionsComplete : Prop :=
  ∀ (s : State) (core : Nat) (raw : Int), core < 136 →
    (s.runs = false ∨ s.sys.mode = .reset ∨ s.frameLen < (s.core core).boundary + 120 ∨ s.coreOff core = true →
      exec (.conversionBoundary core raw) s = .next s) ∧
    (s.runs = true → s.sys.mode ≠ .reset → (s.core core).boundary + 120 ≤ s.frameLen → s.coreOff core = false →
      ((∀ cap, s.sense.capture = some cap → pairOf core ≠ cap.pair ∨ core % 17 = 16) →
        (∃ t, exec (.conversionBoundary core raw) s = .next t ∧ (t.core core).boundary = (s.core core).boundary + 120 ∧
          t.clk.frame = s.clk.frame ∧ t.sys.mode = s.sys.mode) ∧
        (∀ (t0 : List W16) e x f w, t0 = (s.core core).table s.clk.frame → (s.core core).urgent = [] →
          (s.core core).pending.find? (s.mayConvert t0) = some e →
          entryOf t0 e = some (x, f) → w = (s.atCycle (s.core core).boundary).sampleOf core x raw f false →
          ∃ t, exec (.conversionBoundary core raw) s = .next t ∧ (t.core core).pending = (s.core core).pending.erase e ∧
            rd t.sense.bankNow x 0 = w ∧ (t.sch x).last = w) ∧
        ((s.core core).urgent = [] → (s.core core).pending.find? (s.mayConvert ((s.core core).table s.clk.frame)) = none →
          ∃ t, exec (.conversionBoundary core raw) s = .next t ∧ (t.core core).pending = (s.core core).pending ∧ t.sense.bankNow = s.sense.bankNow ∧
            (t.core core).checkDone = true)) ∧
      (∀ cap w, s.sense.capture = some cap → pairOf core = cap.pair → core % 17 ≠ 16 →
        w = (s.atCycle (s.core core).boundary).sampleOf core cap.sense raw cap.filter false →
        ∃ t, exec (.conversionBoundary core raw) s = .next t ∧ (t.core core).boundary = (s.core core).boundary + 120 ∧
          t.sense.capture = some { cap with words := if cap.words.length < 16384 then cap.words ++ [w] else cap.words }))

/-- The capture ends at the first tick at which its 16,384 words are there (R133, R522), and not before: a command that meets the tick ends
it, one in mid-frame makes it end at the next tick. No capture is left, and its words wait to be written to the command's buffer, 64 KiB from the
buffer address. -/
def Obligations.CaptureEndCompletes : Prop :=
  ∀ s : State,
    (s.sense.capture = none → exec .captureEnd s = .next s) ∧
    (∀ cap, s.sense.capture = some cap →
      (cap.words.length < 16384 ∨ TickOp.captureEnd ∈ s.atTick → exec .captureEnd s = .next s) ∧
      (16384 ≤ cap.words.length → TickOp.captureEnd ∉ s.atTick →
        (s.clk.cycle ≠ 0 → exec .captureEnd s = .next { s with atTick := s.atTick ++ [.captureEnd] }) ∧
        (s.clk.cycle = 0 → ∃ t, exec .captureEnd s = .next t ∧ t.sense.capture = none ∧ t.drive = s.drive ∧ t.clk = s.clk ∧
          ∃ x, t.host.xfers = s.host.xfers ++ [x] ∧ x.write = true ∧ x.iova = cap.iova ∧ x.len = 65536 ∧
            x.data = cap.words.flatMap (fun w => bytesLE 4 w.toNat))))

/-- Read-back and range changes (R77, R79, R99, R101 to R103). A read-back conversion stores the measurement with its channel, whose code it
leaves alone, and no other channel changes; the converter moves on to the next drive index, or, after a judged conversion that failed,
measures the channel once again. A range change is released four ticks after it began: the hold is gone and its commands are done, or the
request that waited starts; an earlier command is a no-op. -/
def Obligations.ReadbackAndRangeChangesComplete : Prop :=
  ∀ s : State,
    (∀ (conv : Nat) (r : Readback), conv < 8 → s.runs = false ∨ s.sys.mode = .reset ∨ s.sys.mode = .boot →
      exec (.readbackConversion conv r) s = .next s) ∧
    (∀ (conv : Nat) (r : Readback) (i : Nat), conv < 8 → s.runs = true → s.sys.mode ≠ .reset → s.sys.mode ≠ .boot →
      i = 1280 * conv + rd s.drive.rbPos conv 0 →
      ∃ t, exec (.readbackConversion conv r) s = .next t ∧
        (t.dch i).rbV = r.rawV.toNat ∧ (t.dch i).rbI = (if i < 4608 then 0 else r.rawI.toNat) ∧ (t.dch i).rbFrame = s.clk.frame ∧
        (t.dch i).transition = false ∧ (t.dch i).loadSeen = false ∧
        (t.dch i).dac = (s.dch i).dac ∧ (t.dch i).position = (s.dch i).position ∧ (∀ j, j ≠ i → t.dch j = s.dch j) ∧
        (if (!s.unjudged i && (if i < 4608 then classEo (s.dch i).dac (s.dch i).transition (s.dch i).loadSeen (s.rbCorrect (2 * conv) r.rawV.toNat)
             else classThermal (s.dch i).dac (s.vhtr i) (s.rbCorrect (2 * conv) r.rawV.toNat) (s.rbCorrect (2 * conv + 1) r.rawI.toNat)) != 0) &&
            !rd s.drive.rbRetry conv false then rd t.drive.rbPos conv 0 = rd s.drive.rbPos conv 0 ∧ rd t.drive.rbRetry conv false = true
         else rd t.drive.rbPos conv 0 = (i % 1280 + 1) % 1280 ∧ rd t.drive.rbRetry conv false = false)) ∧
    (∀ channel < 10240,
      ((s.dch channel).hold = none → exec (.rangeChangeRelease channel) s = .next s) ∧
      (∀ h, (s.dch channel).hold = some h →
        (s.clk.frame < h.release → exec (.rangeChangeRelease channel) s = .next s) ∧
        (h.release ≤ s.clk.frame →
          (h.waiting = none → ∃ t, exec (.rangeChangeRelease channel) s = .next t ∧ t.atTick = s.atTick ∧
            t.drive = (s.setDch channel { s.dch channel with hold := none, rangeCmds := [], rangeWait := [] }).drive) ∧
          (∀ r, h.waiting = some r → ∃ t, exec (.rangeChangeRelease channel) s = .next t ∧
            (let u := (s.setDch channel { s.dch channel with hold := none, rangeCmds := [], rangeWait := [] }).rangeAt channel r
             t.dch channel = { u.dch channel with rangeCmds := if (u.dch channel).hold.isSome then (s.dch channel).rangeWait else [] })))))

/-- Impressions and their proof (R228, R229, R231, R235, R236, R240, R248, R251). SNAPSHOT_COMPLETE arms the oldest impression whose read is
under way, with the image its bytes give, or discards it when the read met a bad word. PROOF_RESULT, with a lease and a clock, carries the
clock to cycle 1,800 for the records without an output tap in range 3 and the requests outside proof sets, else to cycle 3,420 for the
others. LOCALISATION_END ends the first localisation whose 1,024 frames have passed. None of them touches a channel or a sample. -/
def Obligations.ImpressionEventsComplete : Prop :=
  ∀ s : State,
    (let waits (a : Armed) : Bool := a.read.isSome && a.snap.isNone && !(s.sys.restarting && decide (a.source = 2))
     (s.imp.armed.find? waits = none → exec .snapshotComplete s = .next s) ∧
     (∀ a r, s.imp.armed.find? waits = some a → a.read = some r →
      ((s.readTo r 3264).bad = false → ∃ t, exec .snapshotComplete s = .next t ∧ t.drive = s.drive ∧ t.sched = s.sched ∧
        t.imp = { s.imp with armed := s.imp.armed.map (fun x =>
          if x.order = a.order then { a with read := none, snap := some (imgOfBytes (s.readTo r 3264).got) } else x) }) ∧
      ((s.readTo r 3264).bad = true → ∃ t, exec .snapshotComplete s = .next t ∧ t.drive = s.drive ∧ t.sense = s.sense ∧ t.clk = s.clk ∧
        (∀ x ∈ t.imp.armed, x ∈ s.imp.armed ∧ x.order ≠ a.order)))) ∧
    (s.pair.held = false ∨ s.runs = false → exec .proofResult s = .next s) ∧
    (s.pair.held = true → s.runs = true → ∃ t, exec .proofResult s = .next t ∧ t.drive = s.drive ∧ t.sense = s.sense ∧ t.clk.frame = s.clk.frame ∧
      (let due := s.resultsDue
       let early := due.filter (fun q => !s.resultLate q)
       let plain := s.sched.batches.any (fun (b : Batch) => match b.state with
         | .applied seq _ => b.reqs.any (fun r => !s.outstanding seq (dIngress r.desc))
         | _ => false)
       t.clk.cycle = (if early ≠ [] ∨ plain = true then max s.clk.cycle 1800 else if due = [] then s.clk.cycle else max s.clk.cycle 3420) ∧
       (early ≠ [] ∨ plain = true → t = early.foldl State.resultsOf ((s.atCycle 1800).completePlain)) ∧
       (early = [] → plain = false → t = if due = [] then s else due.foldl State.resultsOf (s.atCycle 3420)))) ∧
    (s.imp.locates.find? (fun l => decide (l.start + 1024 ≤ s.clk.frame)) = none → exec .localisationEnd s = .next s) ∧
    (∀ l, s.imp.locates.find? (fun l => decide (l.start + 1024 ≤ s.clk.frame)) = some l → ∃ t, exec .localisationEnd s = .next t ∧
      t.drive = s.drive ∧ t.imp.locates = s.imp.locates.filter (fun x => decide (x ≠ l)))

/-- The slot table and the token refill (R269, R271, R286, R288, R290, R291, R511). At the tick before its slot starts, the next entry of the
active bank is latched, entry 0 after the last one; a pending start latches entry 0 of its bank, a pending swap takes the other bank at the
wrap, a pending stop latches its end. A slot starts at its tick; a stopped table runs no more. Every 64 frames each enabled domain's balances
grow by its rates up to its depths, after new rates have come into force. -/
def Obligations.SlotsAndRefillComplete : Prop :=
  ∀ s : State, s.sys.mode.ticks = true →
    (∀ o, s.sched.next = some o → exec .slotLatch s = .next s) ∧
    (∀ c bank entry start cycle, s.sched.next = none →
      ((s.sched.current = some c ∧ s.sched.running = true ∧ c.stop ≤ s.clk.frame + 1 ∧ start = max c.stop (s.clk.frame + 1) ∧
          entry = (if c.last || decide (c.entry = 511) then 0 else c.entry + 1) ∧
          cycle = (if c.last || decide (c.entry = 511) then (c.cycle + 1) % 2 ^ 32 else c.cycle) ∧
          ((s.sched.op = none ∧ bank = s.sched.active) ∨
           (∃ o, s.sched.op = some o ∧ o.op = 0 ∧ o.latched = false ∧ (c.last || decide (c.entry = 511)) = true ∧ o.accepted < s.clk.frame ∧
              o.at_ ≤ start ∧ bank = !s.sched.active))) ∨
       (s.sched.current = none ∧ cycle = 0 ∧ entry = 0 ∧ ∃ o, s.sched.op = some o ∧ o.op = 1 ∧ o.latched = false ∧ o.at_ ≤ s.clk.frame + 1 ∧
          o.accepted < s.clk.frame ∧ start = max o.at_ (s.clk.frame + 1) ∧ bank = o.bank)) →
      ∃ t, exec .slotLatch s = .next t ∧ t.sched.active = bank ∧ t.sched.current = s.sched.current ∧
        t.sched.next = some { bank := bank, entry := entry, word := s.slotEntry bank entry, start := start, cycle := cycle }) ∧
    (∀ c o, s.sched.next = none → s.sched.current = some c → s.sched.running = true → c.stop ≤ s.clk.frame + 1 → s.sched.op = some o → o.op = 2 →
      o.accepted < s.clk.frame → ∃ t, exec .slotLatch s = .next t ∧ t.sched.next = none ∧
        t.sched.op = some { o with latched := true, fire := max c.stop (s.clk.frame + 1) }) ∧
    (∀ c, s.sched.next = none → s.sched.current = some c → s.sched.running = false ∨ s.clk.frame + 1 < c.stop → exec .slotLatch s = .next s) ∧
    (∀ o, s.sched.next = some o →
      (s.clk.frame < o.start → exec .slotStart s = .next s) ∧
      (o.start ≤ s.clk.frame → ∃ t, exec .slotStart s = .next t ∧ t.sched.current = some o ∧ t.sched.next = none ∧ t.sched.running = true ∧
        t.sched.cycle = o.cycle)) ∧
    (∀ c o, s.sched.next = none → s.sched.current = some c → s.sched.op = some o → o.op = 2 → o.latched = true → c.stop ≤ s.clk.frame →
      ∃ t, exec .slotStart s = .next t ∧ t.sched.current = none ∧ t.sched.running = false ∧ t.sched.op = none) ∧
    (s.clk.frame % 64 ≠ 0 ∨ s.clk.refilled = true → exec .tokenRefill s = .next s) ∧
    (s.clk.frame % 64 = 0 → s.clk.refilled = false → ∃ t, exec .tokenRefill s = .next t ∧ t.clk.refilled = true ∧
      ∀ d < 128, t.domain d = (if (s.domain d).enable then (s.domain d).refill
        else match (s.domain d).nextRates with
          | some (c, p, b, q) => { s.domain d with cir := c, pir := p, cbs := b, pbs := q, nextRates := none }
          | none => s.domain d))

/-! ## Health, monitors, calibration runs and the fault queue -/

/-- Monitors and the health report (R385 to R388). Each rail's reading is stored and its runs inside and outside the window are counted; the
alarm stands from the second sample outside to the second inside. A process monitor records its baseline in Standby and keeps its alarm once
raised. The report of a period carries HEALTHY as the failures of the period, overflow, temperature and supplies give it. -/
def Obligations.HealthEventsComplete : Prop :=
  ∀ s : State,
    (s.clk.frame % 50000 = 0 → s.clk.reported = false → s.sys.restarting = false → s.runs = true → s.sys.mode ≠ .reset → s.sys.mode ≠ .boot →
      ∃ t, exec .healthReport s = .next t ∧ t.clk.reported = true ∧ t.faults.reports = s.faults.reports + 1 ∧
        t.faults.healthy = (decide (s.faults.permanents = 0 ∧ s.faults.rbFailed = 0 ∧ s.faults.pathFailed = 0) && !s.faults.overflowPeriod &&
          !s.faults.thermalLimit && !s.supplyStands) ∧
        t.faults.report = s.reportBytes t.faults.healthy ∧ t.faults.permanents = 0 ∧ t.faults.rbFailed = 0 ∧ t.faults.pathFailed = 0) ∧
    (s.clk.frame % 50000 ≠ 0 ∨ s.clk.reported = true ∨ s.sys.restarting = true ∨ s.runs = false → exec .healthReport s = .next s) ∧
    (s.runs = false → ∀ v, exec (.voltSample v) s = .next s ∧ exec (.procMonitorCount v) s = .next s) ∧
    (s.runs = true → ∀ v : List Nat, v.length = 24 → ∃ t, exec (.voltSample v) s = .next t ∧ t.faults.volts = v ∧
      ∀ k < 24, ∀ out : Bool, out = outside (s.rail k).1 (s.rail k).2.1 1 ((v[k]?).getD 0) →
        rd t.faults.voltOut k 0 = (if out then rd s.faults.voltOut k 0 + 1 else 0) ∧
        rd t.faults.voltIn k 0 = (if out then 0 else rd s.faults.voltIn k 0 + 1) ∧
        rd t.faults.voltAlarm k false = (if rd s.faults.voltAlarm k false then decide (rd t.faults.voltIn k 0 < 2) else decide (2 ≤ rd t.faults.voltOut k 0))) ∧
    (s.runs = true → ∀ v : List Nat, v.length = 16 → ∃ t, exec (.procMonitorCount v) s = .next t ∧
      ∀ p < 16, ∀ b, b = rd s.faults.procBase p 0 →
        rd t.faults.procBase p 0 = (if b = 0 ∧ s.sys.mode = .standby then (v[p]?).getD 0 else b) ∧
        rd t.faults.procAlarm p false =
          (rd s.faults.procAlarm p false || decide (b ≠ 0 ∧ s.faults.procDrift * b < 100 * (b - (v[p]?).getD 0))))

/-- Calibration runs and the fault queue (R370, R381, R384, R399, R401, R405). At a tick divisible by 64 every scope whose sensor moved too
far becomes pending; each frame the lowest pending scope that may start runs from the next tick; a run whose frames have passed comes into force at the next
tick. Handling the head of the fault queue takes it out, logs it, and retires a unit that is permanent from the next tick. -/
def Obligations.CalibrationAndFaultEventsComplete : Prop :=
  ∀ s : State,
    (s.clk.frame % 64 = 0 → s.cal.tempTrigger = true → s.sys.restarting = false → s.sys.mode.calibrates = true →
      ∃ t, exec .calTempCheck s = .next t ∧ ∀ n, t.scope n =
        (if converterScopes.contains n && s.tempDue n then { s.scope n with pending := true } else s.scope n)) ∧
    (s.clk.frame % 64 ≠ 0 ∨ s.cal.tempTrigger = false ∨ s.sys.restarting = true ∨ s.sys.mode.calibrates = false → exec .calTempCheck s = .next s) ∧
    (s.sys.restarting = true ∨ s.sys.mode.calibrates = false ∨ s.cal.lastStart = some s.clk.frame → exec .calStart s = .next s) ∧
    (s.sys.restarting = false → s.sys.mode.calibrates = true → s.cal.lastStart ≠ some s.clk.frame → ∀ n,
      (converterScopes ++ [0x300]).find? (fun n => (s.scope n).pending && s.canStart n) = some n →
      exec .calStart s = .next { s with atTick := s.atTick ++ [.calStart n], cal := { s.cal with lastStart := some s.clk.frame } }) ∧
    (∀ (scope : BitVec 16) (d : CalData), isScope scope.toNat = true →
      ((s.scope scope.toNat).running = none → exec (.calInForce scope d) s = .next s) ∧
      (∀ f, (s.scope scope.toNat).running = some f → f + s.runLength scope.toNat ≤ s.clk.frame + 1 →
        (∀ e ∈ s.cal.due, e.1 ≠ scope.toNat) →
        exec (.calInForce scope d) s = .next { s with atTick := s.atTick ++ [.calForce scope.toNat],
                                                      cal := { s.cal with due := s.cal.due ++ [(scope.toNat, d)] } })) ∧
    (s.sys.restarting = true → exec .faultEntryHandled s = .next s) ∧
    (∀ e q, s.sys.restarting = false → s.faults.queue = e :: q → s.faults.overflow = false →
      ∃ t, exec .faultEntryHandled s = .next t ∧ t.faults.queue = q ∧ t.faults.units = s.faults.units ∧
        t.atTick = s.atTick ++ (if e.permanent && !s.retired e.kind e.index && [1, 2, 3, 4, 5].contains e.kind
          then [.retire e.kind e.index e.reason] else [])) ∧
    (∀ e q, s.sys.restarting = false → s.faults.queue = e :: q → s.faults.overflow = true →
      ∃ t u : State, exec .faultEntryHandled s = .next t ∧ t = u.endOverflow ∧ u.faults.queue = q ∧
        u.atTick = s.atTick ++ (if e.permanent && !s.retired e.kind e.index && [1, 2, 3, 4, 5].contains e.kind
          then [.retire e.kind e.index e.reason] else []))

/-! ## The scheduler, routes and HDMA transfers -/

/-- Fetched descriptors, checks, batches and completions (R257, R261, R265, R277, R278, R284, R355, R480). Descriptors join their queue in order; a
read that gives too few stops the domain. A checked untimed head may be granted; one that the rules forbid leaves its queue with a completion
where the ring has room. The waiting batch becomes a route job in the next free ring slot, based on the last batch of the chain. A completion
record takes the next entry of its ring, with the phase and the lease epoch. -/
def Obligations.SchedulerCommandsComplete : Prop :=
  ∀ s : State,
    (∀ (dom : BitVec 7) (queue : BitVec 9) (descs : List (BitVec 256)) (d i : Nat), d = dom.toNat → i = queue.toNat →
      (s.host.xfers.find? (fun x => decide (x.dom = d) && decide (x.use = .fetch i) && decide (0 < x.inFlight)) = none →
        exec (.descriptorFetched dom queue descs) s = .next s) ∧
      (∀ x, s.host.xfers.find? (fun x => decide (x.dom = d) && decide (x.use = .fetch i) && decide (0 < x.inFlight)) = some x →
        (x.inFlight / 32 ≤ descs.length → ∃ t, exec (.descriptorFetched dom queue descs) s = .next t ∧
          t.queue d i = { (s.queue d i).setDescs ((s.queue d i).descs ++ descs.take (x.inFlight / 32)) with
            fetching := (s.queue d i).fetching - x.inFlight / 32 } ∧ t.sched.domains = s.sched.domains ∧ t.drive = s.drive) ∧
        (descs.length < x.inFlight / 32 → ∃ t, exec (.descriptorFetched dom queue descs) s = .next t ∧ (t.xlate d).stopped = true ∧
          t.sched = s.sched))) ∧
    (∀ (dom : BitVec 7) (queue : BitVec 9) (d i : Nat), d = dom.toNat → i = queue.toNat →
      ((s.queue d i).descs = [] ∨ (s.queue d i).checked = true ∨ (s.queue d i).inFlight = true ∨ s.domainOn d = false ∨ s.schedRuns = false →
        exec (.descriptorCheck dom queue) s = .next s) ∧
      (∀ e r, (s.queue d i).descs = e :: r → (s.queue d i).checked = false → (s.queue d i).inFlight = false → s.domainOn d = true → s.schedRuns = true →
        ∀ ok : Prop, (ok ↔ (dIngress e = i ∧ dEgress e < 512 ∧ s.inMask d (dEgress e) = true)) →
        (∀ q, (ok ∧ dAction e ≤ 2 ∧ dWhen e = 0 ∧ q = { s.queue d i with checked := true, late := false, due := none }) ∨
            (ok ∧ dAction e ≤ 2 ∧ dWhen e ≤ 2 ∧ dWhen e ≠ 0 ∧
              ((s.timed e = .past ∧ dStrict e = false ∧ q = { (s.queue d i).setTimed false with checked := true, late := true, due := none }) ∨
               (s.timed e = .waits ∧ q = (s.queue d i).setTimed true) ∨
               (∃ f, s.timed e = .due f ∧
                 q = { (s.queue d i).setTimed (decide (s.clk.frame + 1 < f)) with checked := true, late := false, due := some f }))) →
          exec (.descriptorCheck dom queue) s = .next (s.setQueue d i q)) ∧
        (∀ st, (st = stNotPermitted ∧ ¬ ok) ∨ (st = stBadOpcode ∧ ok ∧ (2 < dAction e ∨ 2 < dWhen e)) ∨
            (st = stLate ∧ ok ∧ dAction e ≤ 2 ∧ dWhen e ≤ 2 ∧ dWhen e ≠ 0 ∧ s.timed e = .past ∧ dStrict e = true) →
          ((s.domain d).room = false → exec (.descriptorCheck dom queue) s = .next s) ∧
          ((s.domain d).room = true → ∃ (t : State) (r : Req), exec (.descriptorCheck dom queue) s = .next t ∧
            r.desc = e ∧ r.head = (s.queue d i).pop.head ∧ r.late = false ∧
            t.sched.cpls = s.sched.cpls ++ [{ dom := d, record := cplRecord r st 0 0 0 0xFFFFFFFF }] ∧
            (t.queue d i).descs = (s.queue d i).pop.descs)))) ∧
    (s.mayForm = false → exec .arbitrationDecision s = .next s) ∧
    (s.mayForm = true → ∀ (r : Req) (rest : List Req), s.sched.returned = r :: rest →
      ∀ u : State, u = { s with sched := { s.sched with returned := rest } } →
        exec .arbitrationDecision s = .next
          (State.mirrorGrant (if r.strict = true ∧ (∃ f, r.due = some f ∧ f ≤ s.clk.frame) then u.completeBare r stLate 0 else u.join r) r)) ∧
    (s.mayForm = true → s.sched.returned = [] →
      (let u := s.policeHeads
       let green := u.eligible.filter (fun d => u.unpoliced || decide (0 < (u.domain d).balC))
       let best := u.smallest (if green = [] then u.eligible else green)
       (best = none → exec .arbitrationDecision s = .next u.closeBatch) ∧
       (∀ d, best = some d → exec .arbitrationDecision s = .next
          (match u.grant d u.eligible with
           | (v, some r) => State.mirrorGrant (if r.strict = true ∧ (∃ f, r.due = some f ∧ f ≤ v.clk.frame) then v.completeBare r stLate 0 else v.join r) r
           | (v, none) => v)))) ∧
    (∀ (b : Batch) (dest base : Nat), s.sched.batches.find? (fun (b : Batch) => b.state == .waiting) = some b → s.ringSlot = some dest → s.schedRuns = true →
      s.burin.queue.length < 8 → base = (match (s.sched.batches.filter Batch.inChain).getLast? with | some x => x.dest | none => 0xFFFE) →
      exec .batchSubmit s = .next { s with
        sched := { s.sched with batches := s.sched.batches.map (fun x => if x.id = b.id then { b with dest := dest, base := base, state := .routing } else x) }
        burin := { s.burin with
          queue := s.burin.queue ++ [{ dest := dest, base := base, delta := some (b.reqs.map Req.change), owner := .batch b.id }]
          ringNext := if dest = 511 then 480 else dest + 1 } }) ∧
    (s.sched.batches.find? (fun (b : Batch) => b.state == .waiting) = none ∨ s.ringSlot = none ∨ s.schedRuns = false ∨ 8 ≤ s.burin.queue.length →
      exec .batchSubmit s = .next s) ∧
    (∀ (dom : BitVec 7) (d : Nat) (x : Domain), d = dom.toNat → x = s.domain d →
      (s.pair.held = false ∨ (s.xlate d).stopped = true ∨ s.host.linkUp = false ∨ (s.fn d).d3 = true ∨ x.cK = 0 ∨ takeCpl d s.sched.cpls = none →
        exec (.completionWrite dom) s = .next s) ∧
      (s.pair.held = true → (s.xlate d).stopped = false → s.host.linkUp = true → (s.fn d).d3 = false → x.cK ≠ 0 →
        ∀ c rest, takeCpl d s.sched.cpls = some (c, rest) → ∃ t y, exec (.completionWrite dom) s = .next t ∧ t.sched.cpls = rest ∧
          t.domain d = { x with cWrite := if x.cWrite + 1 = 2 ^ x.cK then 0 else x.cWrite + 1
                                cPhase := x.cPhase != decide (x.cWrite + 1 = 2 ^ x.cK), cReserved := x.cReserved - 1 } ∧
          t.host.xfers = s.host.xfers ++ [y] ∧ y.write = true ∧ y.dom = d ∧ y.iova = x.cBase + 32 * x.cWrite ∧ y.len = 32 ∧
          y.data = bytesLE 32 (stampRecord c.record x.cPhase s.pair.epoch).toNat))

/-- Route jobs (R203, R204, R218 to R220, R505). The idle engine starts the first queued job once a descriptor is loaded. A job that ends leaves
the engine idle and answers its command or its batch: INTERNAL where a plate it read was bad or its trace check failed twice, else its plate
is written and the counts are returned. A job whose destination is being copied for a PLATE_READ waits. -/
def Obligations.RouteJobsComplete : Prop :=
  ∀ s : State,
    (s.burin.running ≠ none ∨ s.burin.queue = [] ∨ s.desc.loaded = false → exec .routeJobStart s = .next s) ∧
    (∀ j q, s.burin.running = none → s.burin.queue = j :: q → s.desc.loaded = true → ∃ t, exec .routeJobStart s = .next t ∧
      t.burin.running = some (s.readJob j) ∧ t.burin.queue = q ∧ t.burin.store = s.burin.store ∧ t.sched = s.sched ∧ t.drive = s.drive ∧
      (∀ w ∈ t.burin.softWords, w ∈ s.burin.softWords) ∧
      (s.burin.softWords = [] → s.burin.badWords = [] → t = { s with burin := { s.burin with running := some (s.readJob j), queue := q } })) ∧
    (s.burin.running = none → ∀ b, exec (.routeJobComplete b) s = .next s) ∧
    (∀ (r : Running) (b : BitVec 2), s.burin.running = some r → s.underCopy r.job.dest = true → exec (.routeJobComplete b) s = .next s) ∧
    (∀ (r : Running) (b : BitVec 2) (g : Geo) (res : Routed) (u : State), s.burin.running = some r → s.underCopy r.job.dest = false → g = geoOf r.bytes r.legacy →
      res = routeJob r.bytes g r.perm r.base r.pinned r.pinState →
      u = ({ s with burin := { s.burin with running := none } } : State).tally 0x202 1 →
      (r.bad = true → exec (.routeJobComplete b) s = .next (u.jobFailed r.job)) ∧
      (r.bad = false → b = 3 ∨ traceOk g res r.pinned r.pinState = false →
        exec (.routeJobComplete b) s = .next ((u.fail 6 0 5 u.clk.frame [43] true false).jobFailed r.job)) ∧
      (r.bad = false → b ≠ 3 → traceOk g res r.pinned r.pinState = true →
        (∀ c, r.job.owner = .cmd c → exec (.routeJobComplete b) s = .next ((u.writeRoute r res g).answer c
            (if (routeCounts g r.base res r.refused).partialPlate then stNoRoute else stOk)
            [(0, (routeCounts g r.base res r.refused).circuits), (2, (routeCounts g r.base res r.refused).unrealised),
             (4, (routeCounts g r.base res r.refused).disturbed), (6, (routeCounts g r.base res r.refused).changed),
             (8, min 65535 (s.clk.cycles - r.startCycle))])) ∧
        (∀ id, r.job.owner = .batch id → exec (.routeJobComplete b) s = .next
          (match (u.writeRoute r res g).sched.batches.find? (fun (b : Batch) => decide (b.id = id)) with
           | none => u.writeRoute r res g
           | some b => (u.writeRoute r res g).batchRouted b r res (routeCounts g r.base res r.refused).disturbed))))

/-- HDMA (R476 to R481, R497, R505). HDMA issues the next burst of the transfer whose turn it is, an urgent one before ordinary ones, which it
pre-empts; a walk's leaf is cached, or its fault stops the domain (an event record is lost instead). Read data join their transfer, and the
last of them completes it; a failed read stops the domain. The end of a PLATE_READ copy writes its bytes to the buffer. -/
def Obligations.TransfersComplete : Prop :=
  ∀ s : State,
    (s.nextXferOf = none → exec .hdmaBurst s = .next s) ∧
    (∀ x, s.nextXferOf = some x → x.urgent = false →
      ((s.xlate x.dom).mode = 0 → x.isEvent = false → ∃ t, exec .hdmaBurst s = .next t ∧ (t.xlate x.dom).stopped = true) ∧
      ((s.xlate x.dom).mode = 2 → x.write = false → ∃ t, exec .hdmaBurst s = .next t ∧
        t.host.out = s.host.out ++ [.hostRead x.dom x.client (s.burstAddr x) (s.burstLen x)] ∧ t.host.lastDom = x.dom) ∧
      exec .hdmaBurst s = .next (({ s with host := { s.host with lastDom := x.dom } } : State).burst x)) ∧
    (∀ x, s.nextXferOf = some x → x.urgent = true → ∃ u : State, exec .hdmaBurst s = .next (u.burst x) ∧ u.host.lastDom = s.host.lastDom ∧
      u.host.xfers = s.host.xfers.map (fun y =>
        if !y.urgent && decide (0 < y.issued ∧ y.issued < y.len) && !y.preempted then { y with preempted := true } else y)) ∧
    (∀ (dom : BitVec 7) (w : Walk),
      (s.host.xfers.find? (fun x => decide (x.dom = dom.toNat) && x.walking) = none → exec (.translationWalkDone dom w) s = .next s) ∧
      (∀ x, s.host.xfers.find? (fun x => decide (x.dom = dom.toNat) && x.walking) = some x →
        (∀ r, walkOf w (s.burstAddr x) = .inr r → x.isEvent = false → ∃ t, exec (.translationWalkDone dom w) s = .next t ∧
          (t.xlate x.dom).stopped = true) ∧
        (∀ r fn, walkOf w (s.burstAddr x) = .inr r → x.use = .event fn → ∃ t, exec (.translationWalkDone dom w) s = .next t ∧
          (t.fn fn).ringLost = true ∧ t.host.xlate = s.host.xlate) ∧
        (∀ p, walkOf w (s.burstAddr x) = .inl p → ∃ u : State, exec (.translationWalkDone dom w) s =
            .next (if u.canIssue { x with walking := false } then u.burst { x with walking := false } else u) ∧
          u.host.tlb = ((x.dom, s.burstAddr x / 4096, p.1, p.2.1, p.2.2) :: s.host.tlb).take 2048 ∧ u.host.xlate = s.host.xlate))) ∧
    (∀ (ok : Bool) (data : List Byte),
      (s.host.xfers.find? (fun x => decide (x.client = 3) && decide (0 < x.inFlight)) = none → exec (.commandBufferReadDone ok data) s = .next s) ∧
      (∀ x, s.host.xfers.find? (fun x => decide (x.client = 3) && decide (0 < x.inFlight)) = some x →
        (ok = false ∨ data.length ≠ x.inFlight → ∃ t, exec (.commandBufferReadDone ok data) s = .next t ∧ (t.xlate x.dom).stopped = true) ∧
        (ok = true → data.length = x.inFlight →
          (let y : Xfer := { x with inFlight := 0, data := x.data ++ data }
           exec (.commandBufferReadDone ok data) s = .next
             (if x.len ≤ x.issued then ((s.setXfer y).plateBurst x data).readDone y else (s.setXfer y).plateBurst x data))))) ∧
    (s.host.copies = [] → exec .plateReadCopyEnd s = .next s) ∧
    (∀ c rest, s.host.copies = c :: rest →
      (let u : State := ({ s with host := { s.host with copies := rest } } : State).eccCorrect c.plate c.offset c.before.length
       let v : State := if u.sys.running.contains c.cmd then u.bufferOut c.cmd c.iova (s.copyBytes c) [] else u
       exec .plateReadCopyEnd s = .next (State.drainPort v.host.portWaits.length v).finishWrites))

/-! ## Leases and the referee -/

/-- Lease frames and events of a module (R330, R332 to R334, R338, R342). A valid frame counts towards the link and acts by its type, a bad one
is discarded. GO starts a lease only under the conditions of R338, with the image of the epoch before as a takeover; otherwise it is ignored. At
E_m the lease ends and the switches open unless R342 extends it; ISO ends it at once. CLAIM keeps the epoch, every fifth of L. -/
def Obligations.LeaseCommandsComplete : Prop :=
  ∀ (s : State) (now : Nat) (u : State), u = s.islandAt now →
    (∀ (port : Bool) (f : RefFrame),
      ((s.refServed port = false ∨ s.referee = true) → ∀ c, c = .arm port f now ∨ c = .disarm port f now ∨ c = .renew port f now ∨ c = .refStatus port f now ∨
        c = .go port now → exec c s = .next u) ∧
      ((s.island = false ∨ s.referee = true) → exec (.refIsolated port now) s = .next u ∧ exec (.isoRelease port now) s = .next u) ∧
      (s.island = true → s.referee = false →
        exec (.isoRelease port now) s = .next (u.setRefPort port { s.refPort port with iso := false }) ∧
        ((s.refPort port).iso = true ∨ port ≠ s.pair.refB → exec (.refIsolated port now) s = .next (u.setRefPort port { s.refPort port with iso := true })) ∧
        ((s.refPort port).iso = false → port = s.pair.refB → ∃ t, exec (.refIsolated port now) s = .next t ∧ t.pair.held = false ∧ t.pair.armed = none ∧
          (t.refPort port).iso = true ∧ (s.pair.held = true → t.drive.closed = false ∧ t.pair.image = some s.pair.epoch) ∧
          (s.sys.mode ∉ [Mode.reset, .boot, .startupCal, .isolated] → TickOp.enter .isolated ∈ t.atTick))) ∧
      (s.refServed port = true → s.referee = false →
        (∀ c type, (c = .arm port f now ∧ type = tArm) ∨ (c = .disarm port f now ∧ type = tDisarm) ∨ (c = .renew port f now ∧ type = tRenew) ∨
            (c = .refStatus port f now ∧ type = tRefStatus) → refValid type f = false → exec c s = .next (u.refBad port)) ∧
        (∀ v, v = u.refHeard port now →
          (v.refPort port).last = now ∧ (v.refPort port).up = ((s.refPort port).up || decide (2 ≤ (s.refPort port).valid)) ∧
          (refValid tArm f = true → exec (.arm port f now) s = .next (if v.isoOn || !v.linkUp then v else
            { v with pair := { v.pair with armed := some (f.epoch.toNat, f.arg.toNat, now), reportedArmed := false } })) ∧
          (refValid tDisarm f = true → exec (.disarm port f now) s = .next { v with pair := { v.pair with armed := none, reportedArmed := false } }) ∧
          (refValid tRefStatus f = true → exec (.refStatus port f now) s = .next (v.seeEpoch f.epoch.toNat)) ∧
          (refValid tRenew f = true → v.pair.held = true → f.epoch.toNat = v.pair.epoch → (now < v.pair.em ∨ v.pair.extended = true) →
            exec (.renew port f now) s = .next { v with pair := { v.pair with
              em := now + f.arg.toNat - 33, len := f.arg.toNat, claimFrom := now, extended := false } }) ∧
          (refValid tRenew f = true → (v.pair.held = false ∨ f.epoch.toNat ≠ v.pair.epoch ∨ (v.pair.em ≤ now ∧ v.pair.extended = false)) →
            exec (.renew port f now) s = .next (v.seeEpoch f.epoch.toNat))) ∧
        (s.pair.held = true ∨ s.pair.armed = none → exec (.go port now) s = .next u) ∧
        (∀ epoch len since, s.pair.held = false → s.pair.armed = some (epoch, len, since) →
          ∀ ok : Prop, (ok ↔ (since + 1250 ≤ now ∧ s.linkUp = true ∧ s.want = true ∧ s.pair.hbFresh = true ∧ (s.mirrorUp = true → s.pair.reportedArmed = true))) →
            (¬ ok → exec (.go port now) s = .next u) ∧
            (ok → ∀ take : Prop, (take ↔ (s.mirror.ready = true ∧ s.mirror.epoch = (epoch + 2 ^ 32 - 1) % 2 ^ 32 ∨ s.pair.image = some ((epoch + 2 ^ 32 - 1) % 2 ^ 32))) →
              ∃ t, exec (.go port now) s = .next t ∧ t.pair.held = true ∧ t.pair.epoch = epoch ∧ t.pair.em = now + len - 33 ∧ t.pair.armed = none ∧
                (t.pair.takeover = true ↔ take) ∧ (t.drive.closed = true ↔ take) ∧ t.imp = s.imp)) ∧
        exec (.statusSend port now) s = .next (u.refSend port tStatus s.clk.siteId s.refFlags s.refEpochOut 0))) ∧
    (s.island = false ∨ s.pair.held = false ∨ now < s.pair.em → exec (.leaseEnd now) s = .next u) ∧
    (s.island = true → s.pair.held = true → s.pair.em ≤ now →
      (s.mayExtend = true → s.pair.extended = true → exec (.leaseEnd now) s = .next u) ∧
      (s.mayExtend = true → s.pair.extended = false → s.linkUp = false → ∃ t, exec (.leaseEnd now) s = .next t ∧
        t.pair = { u.pair with extended := true } ∧ t.drive = s.drive) ∧
      (s.mayExtend = false ∨ (s.pair.extended = false ∧ s.linkUp = true) → ∃ t, exec (.leaseEnd now) s = .next t ∧ t.pair.held = false ∧
        t.pair.image = some s.pair.epoch ∧ t.drive = { s.drive with closed := false, holding := false } ∧ TickOp.enter .standby ∈ t.atTick)) ∧
    (s.island = false → ∀ c, c = .heartbeatStale now ∨ c = .recoveredClockLoss now ∨ c = .claimSend now → exec c s = .next u) ∧
    (s.island = true → s.pair.held = false ∨ s.pair.extended = false → exec (.heartbeatStale now) s = .next { u with pair := { u.pair with hbFresh := false } }) ∧
    (s.island = true → s.pair.held = true → s.pair.extended = true → ∃ t, exec (.heartbeatStale now) s = .next t ∧ t.pair.held = false ∧ t.drive.closed = false) ∧
    (s.island = true → exec (.recoveredClockLoss now) s = .next (if s.pair.recovered then { u with pair := { u.pair with
      recovered := false, em := if s.pair.held then s.pair.em - ceilDiv ((s.pair.em - now) * 100) 1000000 else s.pair.em } } else u)) ∧
    (s.island = true → s.pair.held = false ∨ s.pair.hbFresh = false ∨ s.isoOn = true ∨ now < s.pair.claimFrom + s.pair.len / 5 → exec (.claimSend now) s = .next u) ∧
    (s.island = true → s.pair.held = true → s.pair.hbFresh = true → s.isoOn = false → s.pair.claimFrom + s.pair.len / 5 ≤ now →
      (s.pair.solo = true → exec (.claimSend now) s = .next (if now < s.pair.em then
        { u with pair := { u.pair with em := now + s.pair.len - 33, claimFrom := now } } else u)) ∧
      (s.pair.solo = false → exec (.claimSend now) s = .next (({ u with pair := { u.pair with claimFrom := s.pair.claimFrom + s.pair.len / 5 } } : State).refSend
        s.pair.refB tClaim s.clk.siteId s.refFlags s.pair.epoch 0)))

/-- The referee (R333, R334, R336, R337) and frames on links that go down. It takes its epoch at the start, arms the candidate it chooses, sends
GO 20 µs after, answers a CLAIM in time with RENEW, frees the lease at X or at RELEASE, and asserts ISO to a module that drives without one. -/
def Obligations.RefereeCommandsComplete : Prop :=
  ∀ (s : State) (now : Nat) (u : State), u = s.islandAt now →
    (s.referee = false ∨ s.island = false → ∀ c f site, c = .refereeStart now ∨ c = .refereeStatusReceived f now ∨ c = .refereeClaim f now ∨
      c = .refereeRelease site now ∨ c = .refereeStatusDriving f now ∨ c = .refereeExpiry now → exec c s = .next u) ∧
    (s.referee = true → s.island = true →
      (∀ both : Prop, (both ↔ (s.pair.portA.up = true ∧ s.pair.portB.up = true ∧ s.pair.portA.upSince + 1875 ≤ now ∧ s.pair.portB.upSince + 1875 ≤ now)) →
        (s.pair.refReady = true ∨ (¬ both ∧ now < s.pair.refSince + 6250) → exec (.refereeStart now) s = .next u) ∧
        (s.pair.refReady = false → both ∨ s.pair.refSince + 6250 ≤ now → exec (.refereeStart now) s = .next { u with pair := { u.pair with
          refReady := true, refEpoch := max (if s.pair.portA.seen then s.pair.portA.epoch else 0) (if s.pair.portB.seen then s.pair.portB.epoch else 0) } })) ∧
      (∀ f, refValid tStatus f = false → exec (.refereeStatusReceived f now) s = .next (u.refBad f.site) ∧ exec (.refereeStatusDriving f now) s = .next (u.refBad f.site)) ∧
      (∀ f, refValid tClaim f = false → exec (.refereeClaim f now) s = .next (u.refBad f.site)) ∧
      (∀ (f : RefFrame) (v w : State), v = u.refHeard f.site now → w = v.setRefPort f.site { v.refPort f.site with flags := f.flags, epoch := f.epoch.toNat, seen := true } →
        w.pair.refHolder = s.pair.refHolder ∧ w.pair.refX = s.pair.refX ∧ w.pair.refEpoch = s.pair.refEpoch ∧ w.pair.refReady = s.pair.refReady ∧
        (refValid tStatus f = true → exec (.refereeStatusReceived f now) s = .next w.refereeWatch ∧
          exec (.refereeStatusDriving f now) s = .next (if tb f.flags.toNat 5 = true ∧ s.pair.refHolder ≠ some f.site ∧
            (s.pair.refHolder.isSome = true ∨ ∃ e, find? s.pair.refEnd (bit f.site) = some e ∧ e + 250 ≤ now) then (w.refereeIso f.site true).refereeWatch
            else w.refereeWatch)) ∧
        (refValid tClaim f = true →
          (s.pair.refReady = true ∧ f.epoch.toNat = s.pair.refEpoch ∧
            ((s.pair.refHolder = some f.site ∧ now + 250 ≤ s.pair.refX) ∨ (s.pair.refHolder = none ∧ tb f.flags.toNat 5 = true)) →
            exec (.refereeClaim f now) s = .next (w.refereeRenew f.site now).refereeWatch) ∧
          (s.pair.refReady = false ∨ f.epoch.toNat ≠ s.pair.refEpoch ∨ (s.pair.refHolder = some f.site ∧ s.pair.refX < now + 250) ∨
            (s.pair.refHolder = none ∧ tb f.flags.toNat 5 = false) ∨ (s.pair.refHolder = some (!f.site)) →
            exec (.refereeClaim f now) s = .next w.refereeWatch))) ∧
      (∀ site, exec (.refereeRelease site now) s = .next (if s.pair.refHolder = some site then (u.refereeFree now).refereeWatch else u)) ∧
      exec (.refereeExpiry now) s = .next (if s.pair.refHolder.isSome = true ∧ s.pair.refX ≤ now then (u.refereeFree s.pair.refX).refereeWatch else u)) ∧
    (∀ v : State, v = u.refereeWatch →
      (s.referee = false ∨ s.island = false ∨ s.pair.refReady = false ∨ v.pair.refArmed.isSome = true ∨ v.refereeChoice = none →
        exec (.refereeArm now) s = .next v) ∧
      (∀ site, s.referee = true → s.island = true → s.pair.refReady = true → v.pair.refArmed = none → v.refereeChoice = some site →
        exec (.refereeArm now) s = .next (({ v with pair := { v.pair with refArmed := some (site, now + 90) } } : State).refSend site tArm site 0
          ((v.pair.refEpoch + 1) % 2 ^ 32) v.pair.refL)) ∧
      (s.referee = false ∨ s.island = false ∨ s.pair.refReady = false ∨ v.pair.refHolder.isSome = true ∨ v.pair.refArmed = none ∨
        (∃ site since, v.pair.refArmed = some (site, since) ∧ now < since + 1250) → exec (.refereeGo now) s = .next v) ∧
      (∀ site since, s.referee = true → s.island = true → s.pair.refReady = true → v.pair.refHolder = none → v.pair.refArmed = some (site, since) →
        since + 1250 ≤ now → ∃ t, exec (.refereeGo now) s = .next t ∧ t.host.out = v.host.out ++ [.refSymbol site] ∧
          t.pair = { v.pair with refEpoch := (v.pair.refEpoch + 1) % 2 ^ 32, refHolder := some site, refX := max (v.pair.refFree + 32) (now + 5) + v.pair.refL, refArmed := none })) ∧
    (∀ port, (s.refServed port = false → exec (.statusSend port now) s = .next u ∧ exec (.refLinkDown port now) s = .next u) ∧
      ((s.refPort port).up = false → exec (.refLinkDown port now) s = .next u) ∧
      (s.refServed port = true → s.referee = true → exec (.statusSend port now) s = .next
        (u.refSend port tRefStatus port 0 s.pair.refEpoch (match s.pair.refHolder with | some h => bit h | none => 0xFF))) ∧
      (s.refServed port = true → (s.refPort port).up = true → ∃ v : State, (v.refPort port).up = false ∧ (v.refPort port).valid = 0 ∧
        v.pair.held = s.pair.held ∧ v.drive = s.drive ∧
        exec (.refLinkDown port now) s = .next (if s.referee then v.refereeWatch else { v with pair := { v.pair with armed := none, reportedArmed := false } })))

/-! ## The mirror link and planned swaps -/

/-- Messages of the holder (R348, R350 to R354, R357). A module that is no partner ignores them. A partner notes SEQ and EPOCH, starts a resync at
a gap, and then takes the message: the FRAME's plate and the impression it names, requests, completions, proof, pins, plates, and the segments
of captures, after which SWAP_READY is sent once both captures of one frame are complete. -/
def Obligations.MirrorMessagesComplete : Prop :=
  ∀ (s : State) (h : MirrorHdr),
    (s.asPartner = false → ∀ c,
      (∃ m, c = .mirrorFrame h m) ∨ (∃ m, c = .mirrorImpression h m) ∨ (∃ m, m.dom < 128 ∧ c = .mirrorRequest h m) ∨
      (∃ d i r, d < 128 ∧ c = .mirrorCompletion h d i r) ∨ (∃ l, c = .mirrorProof h l) ∨ (∃ n p, n < 4608 ∧ c = .mirrorPin h n p) ∨
      (∃ p o l, p < 512 ∧ o + l.length ≤ 4096 ∧ c = .mirrorPlate h p o l) ∨ (∃ f k l, k < 10 ∧ c = .mirrorImage h f k l) ∨
      (∃ f k l, k < 32 ∧ c = .mirrorLoopset h f k l) ∨ (∃ d, c = .mirrorResyncData h d) ∨ c = .mirrorBadCheck ∨
      (∃ d, c = .mirrorDelayEcho d) → exec c s = .next s) ∧
    (s.asPartner = true → ∀ (gap : Prop) (u0 u : State), (gap ↔ ∃ q, s.mirror.seqRx = some q ∧ h.seq.toNat ≠ (q + 1) % 2 ^ 32) →
      u0 = { s with mirror := { s.mirror with seqRx := some h.seq.toNat, epoch := h.epoch.toNat } } → ((gap ∧ u = u0.startResync) ∨ (¬ gap ∧ u = u0)) →
      (∀ (m : FrameMsg) (v w : State),
        v = { u with
          mirror := { u.mirror with
            lastFrame := some m, framesSeen := (m.frame :: u.mirror.framesSeen).take 4, silent := false, named := none,
            offset := tickOffset ((m.arrival : Int) - (u.mirror.delay : Int) - (u.clk.tickTime : Int)) }
          sys := { u.sys with holdLegacy := decide (m.mode = 11) || (decide (m.mode = 5) && u.sys.holdLegacy) } } →
        w = { v with imp := { v.imp with seq := (m.seq.toNat + 1) % 2 ^ 32 } } →
        (m.seq.toNat = 0xFFFFFFFF → exec (.mirrorFrame h m) s = .next v) ∧
        (m.seq.toNat ≠ 0xFFFFFFFF → 512 ≤ m.plate → exec (.mirrorFrame h m) s = .next w) ∧
        (m.seq.toNat ≠ 0xFFFFFFFF → m.plate < 512 →
          (∀ i, w.mirror.impressions.find? (fun i => decide (i.plate = m.plate)) = some i → exec (.mirrorFrame h m) s = .next (w.applyNamedBy m i)) ∧
          (w.mirror.impressions.find? (fun i => decide (i.plate = m.plate)) = none →
            exec (.mirrorFrame h m) s = .next { w with mirror := { w.mirror with named := some m } }))) ∧
      (∀ m : ImpressionMsg,
        (∀ f, u.mirror.named = some f → f.plate = m.plate → exec (.mirrorImpression h m) s = .next (u.applyNamedBy f m)) ∧
        ((∀ f, u.mirror.named = some f → f.plate ≠ m.plate) → exec (.mirrorImpression h m) s = .next
          { u with mirror := { u.mirror with impressions := keepImpressions u.mirror.impressions m } })) ∧
      (∀ m : RequestMsg, m.dom < 128 → exec (.mirrorRequest h m) s = .next (u.takeRequest m)) ∧
      (∀ (d i : Nat) (r : BitVec 256), d < 128 → ∃ t, exec (.mirrorCompletion h d i r) s = .next t ∧
        t.domain d = { u.domain d with cWrite := if i + 1 = 2 ^ (u.domain d).cK then 0 else i + 1
                                       cPhase := tb r.toNat 63 != decide (i + 1 = 2 ^ (u.domain d).cK) } ∧
        t.mirror.granted = u.mirror.granted.filter (fun q => !(decide (q.1.dom = d) && decide (dTag q.1.desc = fld r.toNat 0 32))) ∧
        (d, i, r) ∈ t.mirror.cpls ∧ t.drive = s.drive) ∧
      (∀ l, exec (.mirrorProof h l) s = .next (u.adoptProof l)) ∧
      (∀ n b, n < 4608 → exec (.mirrorPin h n b) s = .next { u with faults := { u.faults with
        pins := match b with | some x => wr u.faults.pins n x | none => del u.faults.pins n, recordDue := true } }) ∧
      (∀ p o l, p < 512 → o + l.length ≤ 4096 → exec (.mirrorPlate h p o l) s = .next (u.portWrite 6 p o l none)) ∧
      (∀ f k l, k < 10 → ∀ v : State, v = (match u.mirror.image with | some (g, _) => if g = f then u else u.dropImage | none => u) →
        exec (.mirrorImage h f k l) s = .next (State.trySwapReady { v with mirror := { v.mirror with
          image := some (f, wr (match v.mirror.image with | some (_, x) => x | none => []) k l) } })) ∧
      (∀ f k l, k < 32 → exec (.mirrorLoopset h f k l) s = .next (State.trySwapReady { u with mirror := { u.mirror with
          loopset := some (f, wr (match u.mirror.loopset with | some (g, x) => if g = f then x else [] | none => []) k l) } })) ∧
      (∀ d, exec (.mirrorResyncData h d) s = .next (u.takeResync d))) ∧
    (s.asPartner = true →
      (∃ t, exec .mirrorBadCheck s = .next t ∧ t.mirror.resync = true ∧ t.mirror.ready = false ∧ t.mirror.image = none ∧ t.mirror.loopset = none ∧
        t.drive = s.drive) ∧
      (∀ d, exec (.mirrorDelayEcho d) s = .next { s with mirror := { s.mirror with delay := d } })) ∧
    (s.clk.cycle ≠ 0 → exec .imageInstall s = .next { s with atTick := s.atTick ++ [.imageInstall] } ∧
      exec .loopsetInstall s = .next { s with atTick := s.atTick ++ [.loopsetInstall] }) ∧
    (s.clk.cycle = 0 →
      (s.asPartner = false → exec .imageInstall s = .next s ∧ exec .loopsetInstall s = .next s) ∧
      (s.asPartner = true →
        (s.mirror.image = none → exec .imageInstall s = .next s) ∧
        (∀ f l, s.mirror.image = some (f, l) → exec .imageInstall s = .next
          (if s.clk.frame < f + 8 then s else if l.length = 10 then s.installImage f l else s.dropImage)) ∧
        (s.mirror.loopset = none → exec .loopsetInstall s = .next s) ∧
        (∀ f l, s.mirror.loopset = some (f, l) → exec .loopsetInstall s = .next
          (if s.clk.frame < f + (if s.pair.swapFrame = some f then 8 else 64) then s
           else if l.length = 32 then s.installLoopset l else { s with mirror := { s.mirror with loopset := none } }))))

/-- Lanes, status and planned swaps (R342, R346 to R349, R353, R359, R360, R533). The link is down with its last lane; a lane that ends a loss
starts a resync. A swap goes on while the partner is READY and ARMED. At the swap frame both captures are made and their streaming begins; at frame f + 8, with
SWAP_READY, the switches open, RELEASE is sent and the module goes to Standby; a request that waits too long ends with TIMEOUT. -/
def Obligations.SwapsAndLanesComplete : Prop :=
  ∀ s : State,
    (s.mirror.resync = false → exec .mirrorResyncEnd s = .next s) ∧
    (s.mirror.resync = true → ∃ t, exec .mirrorResyncEnd s = .next t ∧ t.mirror = { s.mirror with resync := false } ∧ t.drive = s.drive) ∧
    (∀ lane, (if lane then s.mirror.lane1 else s.mirror.lane0) = false → exec (.mirrorLaneDown lane) s = .next s) ∧
    (s.mirror.lane0 = true → s.mirror.lane1 = true → ∀ lane, ∃ t, exec (.mirrorLaneDown lane) s = .next t ∧
      t.mirror = (if lane then { s.mirror with lane1 := false } else { s.mirror with lane0 := false }) ∧ t.drive = s.drive ∧ t.pair = s.pair) ∧
    (s.mirror.lane0 ≠ s.mirror.lane1 → s.mirror.named = none → (s.pair.held = false ∨ s.pair.extended = false) →
      ∃ t, exec (.mirrorLaneDown s.mirror.lane1) s = .next t ∧ t.mirrorUp = false ∧ t.mirror.ready = false ∧ t.mirror.status = none ∧
        t.mirror.image = none ∧ t.mirror.loopset = none ∧ t.drive.closed = s.drive.closed ∧ t.pair.held = s.pair.held ∧
        (s.pair.swap = none → t.pair = s.pair ∧ t.drive = s.drive) ∧ (s.pair.held = true → t.pair.swap = none)) ∧
    (∀ lane, (s.clk.ethref = false → exec (.mirrorLaneUp lane) s = .next s) ∧
      (s.clk.ethref = true → ∀ v : State, v = { s with mirror := if lane then { s.mirror with lane1 := true } else { s.mirror with lane0 := true } } →
        exec (.mirrorLaneUp lane) s = .next (if s.mirrorUp = false ∧ v.asPartner = true then v.startResync else v))) ∧
    (∀ h (m : StandbyMsg),
      (s.paired = false ∨ s.pair.held = false ∨ s.mirrorUp = false → exec (.standbyStatus h m) s = .next s) ∧
      (s.paired = true → s.pair.held = true → s.mirrorUp = true → ∀ fresh : Bool,
        (fresh = true ↔ (m.ready = false ∧ ∀ x, s.mirror.status = some x → x.ready = true)) →
        ∀ v w : State, v = { s with mirror := { s.mirror with
          status := some m, statusPrev := if s.clk.ticks ≤ s.mirror.statusTick + 1 then s.mirror.status else none, statusTick := s.clk.ticks,
          statusLast := some m, statusFrame := s.clk.frame, resyncOut := s.mirror.resyncOut || fresh } } → w = v.checkExtension.swapWatch →
        (s.pair.extended = false → (s.pair.swap = none ∨ (m.ready = true ∧ m.armed = true)) → w = v) ∧
        exec (.standbyStatus h m) s = .next (if m.swapReq = true ∧ (∀ x, s.mirror.status = some x → x.swapReq = false) ∧ w.pair.held = true ∧
          w.pair.swap = none then w.startSwap none false else w))) ∧
    (s.pair.held = false ∨ s.pair.swapCaptured = true ∨ s.pair.swapFrame ≠ some s.clk.frame → exec .swapCapture s = .next s) ∧
    (s.pair.held = true → s.pair.swapCaptured = false → s.pair.swapFrame = some s.clk.frame → ∃ t, exec .swapCapture s = .next t ∧
      t = ({ s with pair := { s.pair with swapCaptured := true } } : State).captureImage.captureLoopset.sendCaptures ∧
      t.pair = { s.pair with swapCaptured := true } ∧ t.drive = s.drive ∧ t.mirror.imageOut.length = 8 ∧ t.mirror.loopsetOut.length = 27) ∧
    (∀ h frame, exec (.swapReady h frame) s = .next (if s.pair.held = true ∧ s.pair.swapCaptured = true ∧ s.pair.swapFrame = some frame then
      { s with pair := { s.pair with swapReady := true } } else s)) ∧
    (s.pair.swapFrame = none ∨ s.pair.swap = none ∨ s.pair.held = false ∨ s.pair.swapCaptured = false ∨ s.pair.swapReady = false ∨
      s.partnerReady = false ∨ (∃ f, s.pair.swapFrame = some f ∧ s.clk.frame < f + 8) → exec .swapHandover s = .next s) ∧
    (∀ f a c standby, s.pair.swapFrame = some f → s.pair.swap = some (a, c, standby) → s.pair.held = true → s.pair.swapCaptured = true →
      s.pair.swapReady = true → s.partnerReady = true → f + 8 ≤ s.clk.frame → ∃ t, exec .swapHandover s = .next t ∧ t.pair.held = false ∧ t.pair.image = some s.pair.epoch ∧
        t.drive = { s.drive with closed := false, holding := false } ∧ t.mirror.status = none ∧ TickOp.enter .standby ∈ t.atTick) ∧
    (s.pair.swap = none → (∀ a c, s.pair.swapReq ≠ some (a, some c)) → exec .swapTimeout s = .next s) ∧
    (∀ a c standby, s.pair.swap = some (a, c, standby) →
      (s.clk.frame < a + 500000 ∨ s.pair.swapCaptured = true → exec .swapTimeout s = .next s) ∧
      (a + 500000 ≤ s.clk.frame → s.pair.swapCaptured = false →
        ∀ v : State, v = { s with pair := { s.pair with swap := none, swapFrame := none, swapRequested := false } } →
        (c = none → exec .swapTimeout s = .next v) ∧
        (∀ r, c = some r → exec .swapTimeout s = .next (v.answer r stTimeout (if standby then [(0, s.sys.mode.num), (1, s.sys.target.num)] else []))))) ∧
    (∀ a c, s.pair.swap = none → s.pair.swapReq = some (a, some c) → exec .swapTimeout s = .next
      (if s.clk.frame < a + 1000000 then s else ({ s with pair := { s.pair with swapReq := none } } : State).answer c stTimeout [])) ∧
    (exec .revertDelay s = .next (if s.clk.pref = true ∧ s.asPartner = true ∧ s.mirror.ready = true ∧ s.faults.healthy = true ∧ 0 < s.pair.revertDelay ∧
        s.pair.swapReq = none ∧ s.pair.standbySince + 1000000000 * s.pair.revertDelay ≤ s.ns then
      { s with pair := { s.pair with swapReq := some (s.clk.frame, none) } } else s)) ∧
    (exec .swapInterval s = .next (if s.paired = true ∧ s.pair.held = true ∧ s.pair.swap = none ∧ s.pair.swapDeferred = false ∧ 0 < s.pair.swapInterval ∧
        s.pair.lastChange + 1000000000 * s.pair.swapInterval ≤ s.ns then s.startSwap none false else s))

/-! ## Fabric time -/

/-- PTP, PPS, SYNC_IN and steps (R29, R308, R310, R312, R314, R315, R318, R320 to R323). A port that is down, off or in a restart, and a
message of another transport, tag or domain, is ignored. An Announce of a better master replaces the best one, a Sync and its Follow_Up and the delay
responses complete measurements, requests are sent and answered, a master that falls silent is lost. PPS edges, the lost input, the output pulse and SYNC_IN follow their rules; an accepted step is applied 64 cycles after the tick. -/
def Obligations.TimeCommandsComplete : Prop :=
  ∀ s : State,
    (∀ port, s.ptpOn port = true ↔ (s.ptp port).up = true ∧ tb (s.ptp port).config.toNat 0 = true ∧ s.sys.restarting = false) ∧
    (∀ port (h : PtpHdr), s.ptpHears port h = true ↔ s.ptpOn port = true ∧ h.transport = fld (s.ptp port).config.toNat 2 2 ∧
      h.vid = (if tb (s.ptp port).config.toNat 4 then some (fld (s.ptp port).config.toNat 5 12) else none) ∧ h.domain = fld (s.ptp port).config.toNat 20 7) ∧
    (∀ port h, s.ptpHears port h = false → ∀ c, (∃ a, c = .ptpAnnounce port ⟨h, a⟩) ∨ (∃ q w l a b, c = .ptpSync port h q w l a b) ∨
      (∃ q a b, c = .ptpFollowUp port ⟨h, q⟩ a b) ∨ (∃ o q l a b, c = .ptpDelayResp port ⟨⟨h, q⟩, o⟩ l a b) ∨ (∃ q a, c = .ptpPdelayReq port h q a) ∨
      (∃ o q w a b, c = .ptpPdelayResp port ⟨h, q⟩ o w a b) ∨ (∃ o q a b, c = .ptpPdelayRespFollowUp port ⟨⟨h, q⟩, o⟩ a b) → exec c s = .next s) ∧
    (∀ (port : Bool) (h : PtpHdr) (p : PtpPort), p = s.ptp port → s.ptpHears port h = true →
      (∀ a : Announce,
        (a.logInterval < -3 ∨ 4 < a.logInterval → exec (.ptpAnnounce port ⟨h, a⟩) s = .next s) ∧
        (-3 ≤ a.logInterval → a.logInterval ≤ 4 →
          (p.best = none ∨ (∃ b, p.best = some b ∧ b.1 ≠ h.sender ∧ announceWins (h.sender, a) b = true) → exec (.ptpAnnounce port ⟨h, a⟩) s =
            .next (s.setPtp port { p with best := some (h.sender, a), annAt := s.ns, syncSeen := false, hasMaster := false }).selectPort) ∧
          (∀ b, p.best = some b → b.1 = h.sender →
            exec (.ptpAnnounce port ⟨h, a⟩) s = .next (s.setPtp port { p with best := some (h.sender, a), annAt := s.ns }).selectPort) ∧
          (∀ b, p.best = some b → b.1 ≠ h.sender → announceWins (h.sender, a) b = false →
            exec (.ptpAnnounce port ⟨h, a⟩) s = .next (s.setPtp port p).selectPort))) ∧
      (∀ (q : W16) (l : Int) (t1 c : PtpTime) (o : BitVec 80),
        (p.fromMaster h = true ↔ ∃ m, p.best = some m ∧ m.1 = h.sender) ∧
        (p.fromMaster h = false → (∀ w, exec (.ptpSync port h q w l t1 c) s = .next s) ∧ exec (.ptpFollowUp port ⟨h, q⟩ t1 c) s = .next s ∧
          exec (.ptpDelayResp port ⟨⟨h, q⟩, o⟩ l t1 c) s = .next s) ∧
        (p.fromMaster h = true →
          (l < -7 ∨ 1 < l → ∀ w, exec (.ptpSync port h q w l t1 c) s = .next (s.setPtp port { p with sync := none })) ∧
          (-7 ≤ l → l ≤ 1 → ∀ w, exec (.ptpSync port h q w l t1 c) s = .next ((s.setPtp port { p with
            sync := some { seq := q, t1 := t1, t2 := s.ns16, corr := c, log := l, waits := w, ingress := p.ingress, egress := p.egress,
                           asymmetry := p.asymmetry }
            syncSeen := true, hasMaster := true, syncAt := s.ns, syncLog := l }).selectPort.syncDone port)) ∧
          (p.sync = none ∨ (∃ y, p.sync = some y ∧ (y.waits = false ∨ y.seq ≠ q)) → exec (.ptpFollowUp port ⟨h, q⟩ t1 c) s = .next s) ∧
          (∀ y, p.sync = some y → y.waits = true → y.seq = q → exec (.ptpFollowUp port ⟨h, q⟩ t1 c) s =
            .next ((s.setPtp port { p with sync := some { y with t1 := t1, corr := y.corr + c, waits := false } }).syncDone port)) ∧
          (p.p2p = true ∨ (∀ r, p.req = some r → r.seq ≠ q ∨ o ≠ ownPort port) → exec (.ptpDelayResp port ⟨⟨h, q⟩, o⟩ l t1 c) s = .next s) ∧
          (∀ r, p.p2p = false → p.req = some r → r.seq = q → o = ownPort port →
            (p.sync = none ∨ (∃ y, p.sync = some y ∧ y.waits = true) → exec (.ptpDelayResp port ⟨⟨h, q⟩, o⟩ l t1 c) s =
              .next (s.setPtp port { p with resp := some (t1, c), reqLog := clampInt (-7) 5 l })) ∧
            (∀ (y : PtpSync) (dms dsm : Int) (z : State × Bool), p.sync = some y → y.waits = false →
              dms = y.t2 - (y.ingress : Int) - y.t1 - y.corr → dsm = t1 - (r.t + (y.egress : Int)) - c →
              z = (s.setPtp port { p with sync := none, req := none, resp := none, reqLog := clampInt (-7) 5 l }).pathDelay port (dms + dsm) →
              exec (.ptpDelayResp port ⟨⟨h, q⟩, o⟩ l t1 c) s =
                .next (if z.2 then z.1.portOffset port (roundDiv (dms - dsm - 2 * y.asymmetry) 2) y.log else z.1)))) ∧
        (p.p2p = false ∨ (∀ r, p.req = some r → r.seq ≠ q ∨ o ≠ ownPort port) → ∀ w, exec (.ptpPdelayResp port ⟨h, q⟩ o w t1 c) s = .next s) ∧
        (∀ r, p.p2p = true → p.req = some r → r.seq = q → o = ownPort port →
          exec (.ptpPdelayResp port ⟨h, q⟩ o true t1 c) s = .next (s.setPtp port { p with pdelay := some (q, t1, s.ns16, c) }) ∧
          exec (.ptpPdelayResp port ⟨h, q⟩ o false t1 c) s = .next ((s.setPtp port { p with req := none, pdelay := none }).pathDelay port
            ((s.ns16 - (r.ingress : Int)) - (r.t + (r.egress : Int)) - c)).1) ∧
        (p.p2p = false ∨ o ≠ ownPort port ∨ (∀ a b d, p.pdelay ≠ some (q, a, b, d)) → exec (.ptpPdelayRespFollowUp port ⟨⟨h, q⟩, o⟩ t1 c) s = .next s) ∧
        (∀ a b d r, p.p2p = true → o = ownPort port → p.pdelay = some (q, a, b, d) → p.req = some r →
          exec (.ptpPdelayRespFollowUp port ⟨⟨h, q⟩, o⟩ t1 c) s = .next ((s.setPtp port { p with req := none, pdelay := none }).pathDelay port
            ((b - (r.ingress : Int)) - (r.t + (r.egress : Int)) - (t1 - a) - (d + c))).1)) ∧
      (∀ (q : W16) (c : PtpTime), (p.p2p = false → exec (.ptpPdelayReq port h q c) s = .next s) ∧
        (p.p2p = true → exec (.ptpPdelayReq port h q c) s = .next { s with host := { s.host with out := s.host.out ++
          (.ptpTx port 3 q.toNat (ownPort port).toNat h.sender.toNat (s.ns16 - (p.ingress : Int)) (s.ns16 + (p.egress : Int)) c ::
            (if tb p.config.toNat 35 then
              [.ptpTx port 4 q.toNat (ownPort port).toNat h.sender.toNat (s.ns16 - (p.ingress : Int)) (s.ns16 + (p.egress : Int)) c] else [])) } }))) ∧
    (∀ (port peer : Bool) (p : PtpPort), p = s.ptp port →
      (s.ptpOn port = false ∨ p.p2p ≠ peer ∨ (p.p2p = false ∧ p.best = none) ∨ (0 < p.reqSeq.toNat ∧ s.ns < p.reqAt + logInterval p.reqLog) →
        exec (.delayReqSend port peer) s = .next s) ∧
      (s.ptpOn port = true → p.p2p = peer → p.p2p = true ∨ p.best.isSome = true → p.reqSeq = 0 ∨ p.reqAt + logInterval p.reqLog ≤ s.ns →
        ∃ u, exec (.delayReqSend port peer) s = .next u ∧
          u.ptp port = { p with req := some { seq := p.reqSeq, t := s.ns16, ingress := p.ingress, egress := p.egress }, resp := none,
                                reqSeq := p.reqSeq + 1, reqAt := s.ns, pdelay := none } ∧
          u.host.out = s.host.out ++
            [.ptpTx port (if p.p2p then 2 else 1) p.reqSeq.toNat (ownPort port).toNat 0 0 (s.ns16 + (p.egress : Int)) 0])) ∧
    (∀ port,
      (s.sys.restarting = true → exec (.announceTimeout port) s = .next s) ∧
      (s.sys.restarting = false → ∀ lost quiet : Prop,
        (lost ↔ ∃ m, (s.ptp port).best = some m ∧
          (s.ptp port).annAt + fld (s.ptp port).config.toNat 27 8 * logInterval m.2.logInterval ≤ s.ns) →
        (quiet ↔ (s.ptp port).syncSeen = true ∧ (s.ptp port).syncAt + 16 * logInterval (s.ptp port).syncLog ≤ s.ns) →
        (¬ lost → ¬ quiet → exec (.announceTimeout port) s = .next s) ∧
        (lost → ∃ t, exec (.announceTimeout port) s = .next t ∧
          t.ptp port = { s.ptp port with best := none, syncSeen := false, hasMaster := false, sync := none, req := none, resp := none } ∧ t.pair = s.pair) ∧
        (¬ lost → quiet → ∃ t, exec (.announceTimeout port) s = .next t ∧
          t.ptp port = { s.ptp port with syncSeen := false, hasMaster := false, sync := none, resp := none } ∧ t.pair = s.pair)) ∧
      (∃ t, exec (.ethPortDown port) s = .next t ∧ t.ptp port = { s.ptp port with
        up := false, delays := [], held := 0, reseed := 0, pdelay := none, best := none, syncSeen := false, hasMaster := false, sync := none,
        req := none, resp := none }) ∧
      (∀ rate, (s.clk.ethref = false → exec (.ethPortUp port rate) s = .next s) ∧
        (s.clk.ethref = true → ∃ t, exec (.ethPortUp port rate) s = .next t ∧ t.ptp port = { s.ptp port with
          up := true, rate25 := rate
          ingress := if (s.ptp port).latSet then (s.ptp port).ingress else if rate then 2064384 else 4404019
          egress := if (s.ptp port).latSet then (s.ptp port).egress else if rate then 1468006 else 3145728 } ∧ t.sys = s.sys))) ∧
    (∀ near : Prop, (near ↔ ∃ e, s.ft.ppsEdge = some e ∧ s.ns < e + 1000000) →
      (near → s.ft.ppsGlitch = true ∨ s.ft.ppsHeld.isSome = true → ∃ t, exec .ppsInEdge s = .next t ∧
        t.ft = { s.ft with ppsHeld := none, ppsEdge := some s.ns, ppsGlitch := true }) ∧
      (¬ near ∨ (s.ft.ppsGlitch = false ∧ s.ft.ppsHeld = none) → exec .ppsInEdge s = .next { s with ft := { s.ft with
        ppsHeld := some s.edgeTime, ppsEdge := some s.ns, ppsGlitch := false } })) ∧
    (s.ft.ppsHeld = none ∨ s.ft.ppsEdge = none ∨ (∃ e, s.ft.ppsEdge = some e ∧ s.ns < e + 1000000) → exec .ppsInAccept s = .next s) ∧
    (∀ (t : Int) (e : Nat) (u v : State), s.ft.ppsHeld = some t → s.ft.ppsEdge = some e → e + 1000000 ≤ s.ns → u = { s with ft := { s.ft with ppsHeld := none } } →
      v = { u with ft := { u.ft with ppsValid := true, ppsOffset := fromSecond t, ppsLast := e, ppsLost := false } } →
      ∀ ok : Prop, (ok ↔ ((fromSecond t).natAbs ≤ 65536000 ∨ (s.ft.source = .pps ∧ (s.ft.state = .freerun ∨ s.ft.state = .acquiring) ∧
          s.ft.stepThreshold * 65536 < (fromSecond t).natAbs))) →
        (ok → s.ft.source = .pps → exec .ppsInAccept s = .next (v.servo (fromSecond t) 0)) ∧
        (ok → s.ft.source ≠ .pps → exec .ppsInAccept s = .next v) ∧ (¬ ok → exec .ppsInAccept s = .next u)) ∧
    (s.ft.ppsLost = true ∨ s.ns < s.ft.ppsLast + 2000000000 → exec .ppsLoss s = .next s) ∧
    (s.ft.ppsLost = false → s.ft.ppsLast + 2000000000 ≤ s.ns → ∃ t, exec .ppsLoss s = .next t ∧ t.ft.ppsValid = false ∧ t.ft.ppsLost = true ∧ t.pair = s.pair ∧
      (s.ft.source = .pps → s.sys.restarting = false → s.ft.state = .locked ∨ s.ft.state = .acquiring → t.ft.state = .holdover)) ∧
    (tb s.ft.ppsOut.toNat 0 = false ∨ s.ppsSecond < s.ft.ppsOutNext → exec .ppsOutRise s = .next s) ∧
    (tb s.ft.ppsOut.toNat 0 = true → s.ft.ppsOutNext ≤ s.ppsSecond →
      (tb s.ft.ppsOut.toNat 1 = true → s.ft.state ≠ .locked → s.ft.state ≠ .holdover → exec .ppsOutRise s = .next
        { s with ft := { s.ft with ppsOutNext := s.ppsSecond + 1 } }) ∧
      (tb s.ft.ppsOut.toNat 1 = false ∨ s.ft.state = .locked ∨ s.ft.state = .holdover → exec .ppsOutRise s = .next
        { s with ft := { s.ft with ppsOutNext := s.ppsSecond + 1, ppsOutLine := true, ppsOutEnd := s.ns + 1000 * fld s.ft.ppsOut.toNat 8 24 } })) ∧
    (exec .ppsOutFall s = .next (if s.ft.ppsOutLine = true ∧ s.ft.ppsOutEnd ≤ s.ns then { s with ft := { s.ft with ppsOutLine := false } } else s)) ∧
    (s.ft.syncLine = true → ((s.ns : Int) - s.ft.syncTime).natAbs < 2000 → exec .syncInEdge s = .next { s with
      ft := { s.ft with syncLine := true, syncStuck := false, syncTick := s.clk.ticks } }) ∧
    (s.ft.syncLine = false ∨ 2000 ≤ ((s.ns : Int) - s.ft.syncTime).natAbs → ∀ tick, tick = (if 27 ≤ s.toTick then s.clk.frame + 1 else s.clk.frame + 2) →
      exec .syncInEdge s = .next { s with
        ft := { s.ft with syncLine := true, syncStuck := false, syncTick := s.clk.ticks, syncCount := s.ft.syncCount + 1, syncTime := s.ns }
        imp := { s.imp with armed := s.imp.armed.map (fun a => if a.trigger = .onSync ∧ a.due = none then { a with due := some (2000 * tick) } else a) } }) ∧
    (s.ft.syncLine = false ∨ s.ft.syncStuck = true ∨ s.clk.ticks < s.ft.syncTick + 500000 → exec .syncStuck s = .next s) ∧
    (s.ft.syncLine = true → s.ft.syncStuck = false → s.ft.syncTick + 500000 ≤ s.clk.ticks → ∃ t, exec .syncStuck s = .next t ∧
      t.ft = { s.ft with syncStuck := true }) ∧
    (s.ft.step = none ∨ (∃ q, s.ft.step = some q ∧ q.armed = false) ∨ s.pair.held = true ∨ s.runs = false → exec .timeStep s = .next s) ∧
    (∀ q, s.ft.step = some q → q.armed = true → s.pair.held = false → s.runs = true → ∃ t, exec .timeStep s = .next t ∧
      t.ft.t = (match q.absolute with | some a => a | none => ((((s.atCycle 64).ns16 + q.offset) / 65536) % 2 ^ 64).toNat) * 2 ^ 48 ∧
      t.ft.rem = 0 ∧ t.ft.step = none ∧ t.sched.current = none ∧ t.sched.next = none ∧ t.sched.running = false ∧
      ∀ a ∈ t.imp.armed, a.source ≠ 0)

/-! ## Rules that are stated whole -/

/-- QUEUE_RESET (R259, R517): ENABLE clears, the fetched descriptors go without a completion, HEAD takes TAIL, and the command answers OK at once,
with no payload. Requests that are granted, and every other queue, stand. -/
def Obligations.QueueResetActs : Prop :=
  ∀ (s : State) (m : MbCmd) (i : Nat), s.Admits m false anyNoRf false true → m.length.toNat = 8 → m.buf = 0 → i = m.f 0 2 → i < 512 →
    s.inMask m.dom i = true → ∃ u t : State, exec (.queueReset m) s = .next t ∧ t = u.thenReplied 0x0042 m stOk [] ∧
      (u.queue m.dom i).on = false ∧ (u.queue m.dom i).descs = [] ∧ (u.queue m.dom i).head = (s.queue m.dom i).tail ∧
      (u.queue m.dom i).tail = (s.queue m.dom i).tail ∧ (u.queue m.dom i).inFlight = (s.queue m.dom i).inFlight ∧
      (∀ d k, d < 128 → k < 512 → (d ≠ m.dom ∨ k ≠ i) → u.queue d k = s.queue d k) ∧
      t.sched.queues = u.sched.queues ∧ t.sched.cpls = s.sched.cpls ∧ t.sched.batches = s.sched.batches ∧ t.sched.returned = s.sched.returned ∧
      t.imp = s.imp ∧ t.burin = s.burin ∧ t.drive = s.drive

/-- FUSE_READ (R537): with OFFSET a multiple of 32 and at most 480, bit 8·j + b of the response's payload is fuse bit 8·(OFFSET + j) + b, the bit
(b mod 8) of array byte OFFSET + j; another OFFSET gives BAD_LENGTH. The fuses do not change. -/
def Obligations.FuseReadReturnsArray : Prop :=
  ∀ (s : State) (m : MbCmd), s.Admits m true anyMode true true → m.length.toNat = 4 → m.buf = 0 →
    (m.f 0 2 % 32 = 0 → m.f 0 2 ≤ 480 → ∃ v, exec (.fuseRead m) s = .next (s.replied 0x00A2 m stOk [(0, v)]) ∧
      (s.replied 0x00A2 m stOk [(0, v)]).sys.fuses = s.sys.fuses ∧
      (∀ k, k < 256 → v.testBit k = s.sys.fuses.getLsbD (8 * m.f 0 2 + k)) ∧
      (∀ flags e n k, k < 256 → (rspWord (refOf 0x00A2 m) stOk flags 0 e n [(0, v)]).getLsbD (8 * 0x18 + k) = s.sys.fuses.getLsbD (8 * m.f 0 2 + k))) ∧
    (m.f 0 2 % 32 ≠ 0 ∨ 480 < m.f 0 2 → exec (.fuseRead m) s = .next (s.replied 0x00A2 m stBadLength []))

/-- Frames of the REF ports (R331): the 16 bytes of a frame that a module or the referee sends, field by field, little-endian, with SEQ counting the
frames of the port modulo 2¹⁶, the flags of a module frame, and CHECK over bytes 0x00 to 0x0D. A received frame is valid when CHECK agrees. -/
def Obligations.RefFrameLayout : Prop :=
  (∀ (type : Nat) (site : Bool) (flags epoch arg seq : Nat) (l : List Byte), l = refBytes type site flags epoch arg seq →
    l.length = 16 ∧ (type < 2 ^ 8 → fieldB l 0x00 1 = type) ∧ fieldB l 0x01 1 = bit site ∧ (flags < 2 ^ 16 → fieldB l 0x02 2 = flags) ∧
    (epoch < 2 ^ 32 → fieldB l 0x04 4 = epoch) ∧ (arg < 2 ^ 32 → fieldB l 0x08 4 = arg) ∧ (seq < 2 ^ 16 → fieldB l 0x0C 2 = seq) ∧
    fieldB l 0x0E 2 = crc16 (l.take 14)) ∧
  (crc16 [] = 0xFFFF ∧ (∀ l b, crc16 (l ++ [b]) = crc16Bit (crc16 l ^^^ (b.toNat * 256)) 8) ∧
    (∀ c, c < 2 ^ 16 → ∀ k, crc16Bit c (k + 1) = crc16Bit (if c.testBit 15 then (2 * c) % 2 ^ 16 ^^^ 0x1021 else (2 * c) % 2 ^ 16) k) ∧ ∀ c, crc16Bit c 0 = c) ∧
  (∀ (s : State) (port : Bool) (type : Nat) (site : Bool) (flags epoch arg : Nat) (t : State), t = s.refSend port type site flags epoch arg →
    t.host.out = s.host.out ++ [.refTx port type (refBytes type site flags epoch arg (s.refPort port).seqTx.toNat)] ∧
    (t.refPort port).seqTx = (s.refPort port).seqTx + 1) ∧
  (∀ (s : State), s.refFlags < 2 ^ 8 ∧ s.refFlags.testBit 0 = s.want ∧ s.refFlags.testBit 1 = s.imageEpoch.isSome ∧ s.refFlags.testBit 2 = s.clk.pref ∧
    s.refFlags.testBit 3 = s.faults.healthy ∧ s.refFlags.testBit 4 = s.pair.armed.isSome ∧ s.refFlags.testBit 5 = s.drive.closed ∧
    s.refFlags.testBit 6 = s.pair.extended ∧ s.refFlags.testBit 7 = s.pair.swapReq.isSome) ∧
  (∀ (type : Nat) (f : RefFrame), refValid type f = true ↔
    f.check.toNat = crc16 ((refBytes type f.site f.flags.toNat f.epoch.toNat f.arg.toNat f.seq.toNat).take 14))
end

