-- ==== Sys2Proof/Laws/Bits.lean ====
section
/-! SUPPORT. Bit fields: what `pack`, `fld` and `setFld` read back, and the fields of a queue state word (R254). -/

namespace Sys2Proof.Machine

theorem fld_lt (x lo w : Nat) : fld x lo w < 2 ^ w := Nat.mod_lt _ (Nat.two_pow_pos _)

theorem pack_cons (w v : Nat) (r : List (Nat × Nat)) : pack ((w, v) :: r) = v % 2 ^ w + 2 ^ w * pack r := rfl

theorem fld_pack_head (w v : Nat) (r : List (Nat × Nat)) : fld (pack ((w, v) :: r)) 0 w = v % 2 ^ w := by
  simp [fld, pack, Nat.add_mul_mod_self_left]

theorem fld_pack_tail (w v : Nat) (r : List (Nat × Nat)) (lo n : Nat) : fld (pack ((w, v) :: r)) (w + lo) n = fld (pack r) lo n := by
  rw [pack_cons]
  unfold fld
  rw [Nat.pow_add, ← Nat.div_div_eq_div_mul, Nat.add_mul_div_left _ _ (Nat.two_pow_pos w),
    Nat.div_eq_of_lt (Nat.mod_lt _ (Nat.two_pow_pos w)), Nat.zero_add]

theorem pack_lt (l : List (Nat × Nat)) : pack l < 2 ^ (l.map Prod.fst).sum := by
  induction l with
  | nil => simp [pack]
  | cons e r ih =>
    obtain ⟨w, v⟩ := e
    simp only [pack, List.map_cons, List.sum_cons, Nat.pow_add]
    have h1 := Nat.mod_lt v (Nat.two_pow_pos w)
    calc v % 2 ^ w + 2 ^ w * pack r < 2 ^ w + 2 ^ w * pack r := by omega
      _ = 2 ^ w * (pack r + 1) := by ring
      _ ≤ 2 ^ w * 2 ^ ((r.map Prod.fst).sum) := Nat.mul_le_mul_left _ ih

theorem fld_narrow (x lo w n : Nat) (h : fld x lo w < 2 ^ n) (hn : n ≤ w) : fld x lo n = fld x lo w := by
  unfold fld at *
  rw [← Nat.mod_mod_of_dvd _ (pow_dvd_pow 2 hn), Nat.mod_eq_of_lt h]

theorem testBit_fld (x lo w i : Nat) : (fld x lo w).testBit i = (decide (i < w) && x.testBit (lo + i)) := by
  unfold fld
  rw [Nat.testBit_mod_two_pow, Nat.testBit_div_two_pow, Nat.add_comm]

/-- The parts above, in and below a field. -/
theorem setFld_parts (x lo w v : Nat) :
    setFld x lo w v = (x / 2 ^ (lo + w) * 2 ^ w + v % 2 ^ w) * 2 ^ lo + x % 2 ^ lo := by
  unfold setFld fld
  have h1 : x = x / 2 ^ lo * 2 ^ lo + x % 2 ^ lo := by rw [Nat.mul_comm]; exact (Nat.div_add_mod x (2 ^ lo)).symm
  have h2 : x / 2 ^ lo = x / 2 ^ (lo + w) * 2 ^ w + x / 2 ^ lo % 2 ^ w := by
    rw [Nat.pow_add, ← Nat.div_div_eq_div_mul, Nat.mul_comm]; exact (Nat.div_add_mod _ _).symm
  generalize hq : x / 2 ^ (lo + w) * 2 ^ w = q at *
  generalize hf : x / 2 ^ lo % 2 ^ w = f at *
  generalize hr : x % 2 ^ lo = r at *
  generalize hp : 2 ^ lo = p at *
  rw [h2] at h1
  rw [h1, Nat.add_mul, Nat.add_mul]
  omega

theorem testBit_setFld (x lo w v i : Nat) :
    (setFld x lo w v).testBit i = if lo ≤ i ∧ i < lo + w then v.testBit (i - lo) else x.testBit i := by
  rw [setFld_parts, Nat.mul_comm, Nat.testBit_two_pow_mul_add _ (Nat.mod_lt _ (Nat.two_pow_pos lo))]
  by_cases h1 : i < lo
  · rw [if_pos h1, if_neg (by omega), Nat.testBit_mod_two_pow]; simp [h1]
  · rw [if_neg h1, Nat.mul_comm, Nat.testBit_two_pow_mul_add _ (Nat.mod_lt _ (Nat.two_pow_pos w))]
    by_cases h2 : i - lo < w
    · rw [if_pos h2, if_pos (by omega), Nat.testBit_mod_two_pow]; simp [h2]
    · rw [if_neg h2, if_neg (by omega), Nat.testBit_div_two_pow]; congr 1; omega

/-- A bit of the queue state word after a field is set. -/
theorem Queue.testBit_put (q : Queue) (lo w v i : Nat) (h : i < 128) :
    (q.put lo w v).word.toNat.testBit i = if lo ≤ i ∧ i < lo + w then v.testBit (i - lo) else q.word.toNat.testBit i := by
  show (BitVec.ofNat 128 (setFld _ _ _ _)).toNat.testBit i = _
  rw [BitVec.toNat_ofNat, Nat.testBit_mod_two_pow, testBit_setFld]
  simp [h]

/-- A field of the queue state word that another field's setting leaves. -/
theorem Queue.get_put_ne (q : Queue) (lo w v lo' w' : Nat) (h : lo' + w' ≤ 128) (hd : lo' + w' ≤ lo ∨ lo + w ≤ lo') :
    (q.put lo w v).get lo' w' = q.get lo' w' := by
  apply Nat.eq_of_testBit_eq
  intro i
  unfold Queue.get
  rw [testBit_fld, testBit_fld]
  by_cases hi : i < w'
  · simp only [hi, decide_true, Bool.true_and]
    rw [Queue.testBit_put _ _ _ _ _ (by omega), if_neg (by omega)]
  · simp [hi]

/-- A field of the queue state word that has been set. -/
theorem Queue.get_put (q : Queue) (lo w v : Nat) (h : lo + w ≤ 128) : (q.put lo w v).get lo w = v % 2 ^ w := by
  apply Nat.eq_of_testBit_eq
  intro i
  unfold Queue.get
  rw [testBit_fld, Nat.testBit_mod_two_pow]
  by_cases hi : i < w
  · simp only [hi, decide_true, Bool.true_and]
    rw [Queue.testBit_put _ _ _ _ _ (by omega), if_pos (by omega)]
    congr 1; omega
  · simp [hi]

end Sys2Proof.Machine
end

