-- ==== Sys2Proof/Laws/Mem.lean ====
section
/-! SUPPORT. Tables and byte stores: a write is read back, leaves every other key alone, and keeps the canonical form. -/

namespace Sys2Proof.Machine

theorem find?_wr {α : Type} (t : Tbl α) (i j : Nat) (v : α) :
    find? (wr t i v) j = if i = j then some v else find? t j := by
  induction t with
  | nil => simp [wr, find?]
  | cons e r ih =>
    obtain ⟨k, w⟩ := e
    unfold wr
    split
    · simp [find?]
    · split
      · subst i; simp only [find?]; split <;> rfl
      · simp only [find?, ih]
        split
        · subst j; simp_all
        · rfl

@[simp] theorem rd_wr {α : Type} (t : Tbl α) (i j : Nat) (v d : α) :
    rd (wr t i v) j d = if i = j then v else rd t j d := by
  simp only [rd, find?_wr]; split <;> rfl

/-- Every key of the table is above n. -/
def Above {α : Type} (n : Nat) (t : Tbl α) : Prop := ∀ e ∈ t, n < e.1

theorem rising_cons {α : Type} (k : Nat) (v : α) (r : Tbl α) :
    rising ((k, v) :: r) = true ↔ Above k r ∧ rising r = true := by
  induction r generalizing k v with
  | nil => simp [rising, Above]
  | cons e r ih =>
    obtain ⟨k', v'⟩ := e
    have h := ih k' v'
    simp only [rising, Bool.and_eq_true, decide_eq_true_eq, h, Above, List.mem_cons, forall_eq_or_imp]
    constructor
    · rintro ⟨a, b, c⟩
      exact ⟨⟨a, fun e he => Nat.lt_trans a (b e he)⟩, b, c⟩
    · rintro ⟨⟨a, _⟩, b, c⟩
      exact ⟨a, b, c⟩

theorem find?_above {α : Type} (n : Nat) (t : Tbl α) (h : Above n t) (j : Nat) (hj : j ≤ n) : find? t j = none := by
  induction t with
  | nil => rfl
  | cons e r ih =>
    obtain ⟨k, w⟩ := e
    have hk := h (k, w) (by simp)
    simp only [find?]
    rw [if_neg (by simp only at hk; omega)]
    exact ih (fun e he => h e (by simp [he]))

theorem find?_del {α : Type} (t : Tbl α) (h : rising t = true) (i j : Nat) :
    find? (del t i) j = if i = j then none else find? t j := by
  induction t with
  | nil => simp [del, find?]
  | cons e r ih =>
    obtain ⟨k, w⟩ := e
    obtain ⟨ha, hr⟩ := (rising_cons k w r).1 h
    unfold del
    split
    · subst i
      split
      · subst j; exact find?_above k r ha k (Nat.le_refl k)
      · simp [find?, *]
    · simp only [find?, ih hr]
      split
      · subst j; rw [if_neg (Ne.symm ‹_›)]
      · rfl

/-- A byte that is set is read back, and every other byte reads as before. -/
theorem Mem.byte_set (d : Byte) (m : Mem) (h : rising m = true) (a c : Nat) (b : Byte) :
    Mem.byte d (Mem.set d m a b) c = if a = c then b else Mem.byte d m c := by
  unfold Mem.byte Mem.set
  split
  · simp only [rd, find?_del m h]
    split <;> simp_all
  · simp

theorem mem_wr {α : Type} (t : Tbl α) (i : Nat) (v : α) (e : Nat × α) (h : e ∈ wr t i v) : e = (i, v) ∨ e ∈ t := by
  induction t with
  | nil => simpa [wr] using h
  | cons x r ih =>
    obtain ⟨k, w⟩ := x
    unfold wr at h
    split at h
    · simpa using h
    · split at h
      · simp only [List.mem_cons] at h ⊢; tauto
      · simp only [List.mem_cons] at h ⊢
        rcases h with h | h
        · tauto
        · have := ih h; tauto

theorem mem_del {α : Type} (t : Tbl α) (i : Nat) (e : Nat × α) (h : e ∈ del t i) : e ∈ t := by
  induction t with
  | nil => simp [del] at h
  | cons x r ih =>
    obtain ⟨k, w⟩ := x
    unfold del at h
    split at h
    · simp [h]
    · simp only [List.mem_cons] at h ⊢
      rcases h with h | h
      · tauto
      · exact .inr (ih h)

theorem rising_wr {α : Type} (t : Tbl α) (i : Nat) (v : α) (h : rising t = true) : rising (wr t i v) = true := by
  induction t with
  | nil => rfl
  | cons x r ih =>
    obtain ⟨k, w⟩ := x
    obtain ⟨ha, hr⟩ := (rising_cons k w r).1 h
    unfold wr
    split
    · rw [rising_cons]
      refine ⟨fun e he => ?_, h⟩
      simp only [List.mem_cons] at he
      rcases he with rfl | he
      · assumption
      · have := ha e he; omega
    · split
      · subst i; exact (rising_cons k v r).2 ⟨ha, hr⟩
      · rw [rising_cons]
        refine ⟨fun e he => ?_, ih hr⟩
        rcases mem_wr r i v e he with rfl | h1
        · simp only; omega
        · exact ha e h1

theorem rising_del {α : Type} (t : Tbl α) (i : Nat) (h : rising t = true) : rising (del t i) = true := by
  induction t with
  | nil => rfl
  | cons x r ih =>
    obtain ⟨k, w⟩ := x
    obtain ⟨ha, hr⟩ := (rising_cons k w r).1 h
    unfold del
    split
    · exact hr
    · exact (rising_cons k w _).2 ⟨fun e he => ha e (mem_del r i e he), ih hr⟩

/-- Setting a byte keeps the canonical form. -/
theorem Mem.wf_set (d : Byte) (m : Mem) (a : Nat) (b : Byte) (h : Mem.wf d m = true) : Mem.wf d (Mem.set d m a b) = true := by
  simp only [Mem.wf, Bool.and_eq_true, List.all_eq_true] at h ⊢
  unfold Mem.set
  split
  · exact ⟨rising_del m a h.1, fun e he => h.2 e (mem_del m a e he)⟩
  · refine ⟨rising_wr m a b h.1, fun e he => ?_⟩
    rcases mem_wr m a b e he with rfl | h1
    · simpa using by assumption
    · exact h.2 e h1

/-- Storing bytes keeps the canonical form. -/
theorem Mem.wf_store (d : Byte) (l : List Byte) (m : Mem) (a : Nat) (h : Mem.wf d m = true) : Mem.wf d (Mem.store d m a l) = true := by
  induction l generalizing m a with
  | nil => exact h
  | cons b r ih => exact ih _ _ (Mem.wf_set d m a b h)

/-- What a byte reads as after a store: the byte stored there, else what it read as before. -/
theorem Mem.byte_store (d : Byte) (l : List Byte) (m : Mem) (a c : Nat) (h : Mem.wf d m = true) :
    Mem.byte d (Mem.store d m a l) c = if a ≤ c ∧ c < a + l.length then l.getD (c - a) d else Mem.byte d m c := by
  induction l generalizing m a with
  | nil => simp only [Mem.store, List.length_nil]; rw [if_neg (by omega)]
  | cons b r ih =>
    have hr : rising m = true := by simp only [Mem.wf, Bool.and_eq_true] at h; exact h.1
    simp only [Mem.store, ih _ _ (Mem.wf_set d m a b h), Mem.byte_set d m hr, List.length_cons]
    by_cases h1 : a = c
    · subst h1; simp
    · by_cases h2 : a + 1 ≤ c ∧ c < a + 1 + r.length
      · have h3 : a ≤ c ∧ c < a + (r.length + 1) := by omega
        have h4 : c - a = (c - (a + 1)) + 1 := by omega
        rw [if_pos h2, if_pos h3, h4]; rfl
      · have h3 : ¬(a ≤ c ∧ c < a + (r.length + 1)) := by omega
        rw [if_neg h2, if_neg h3, if_neg h1]

end Sys2Proof.Machine
end

