-- ==== Sys2Proof/Laws/Still.lean ====
section
/-! SUPPORT. The part of the state that almost no operation touches: the queue, the frame number, the mode, the fuse array, the four
byte stores but the debug one, and whether a lease is held and the lines are closed. The lemmas `X_still` of the files
beside this one say of each operation that it leaves this part alone. -/

namespace Sys2Proof.Machine

/-- What `State.still` reads. -/
structure Still where
  pending : List Instr
  frame : Nat
  mode : Mode
  fuses : BitVec 4096
  flash : Mem
  recovery : Mem
  store : Mem
  closed : Bool
  held : Bool

/-- The part of the state that only a few operations change. -/
def State.still (s : State) : Still :=
  { pending := s.pending, frame := s.clk.frame, mode := s.sys.mode, fuses := s.sys.fuses, flash := s.sys.flash,
    recovery := s.sys.recoveryBuf, store := s.burin.store, closed := s.drive.closed, held := s.pair.held }

/-- An update that keeps the parts of each block keeps all of it. -/
@[simp] theorem still_mk (u : State) (a : List TickOp) (c : Clk) (f : FabTime) (d : Desc) (dr : Drive) (se : Sense) (l : Loops)
    (b : Burin) (i : Imp) (sc : Sched) (p : Pair) (m : Mirror) (fa : Faults) (ca : Cal) (sy : Sys) (h : HostIf)
    (hc : c.frame = u.clk.frame) (hm : sy.mode = u.sys.mode) (hf : sy.fuses = u.sys.fuses) (hfl : sy.flash = u.sys.flash)
    (hr : sy.recoveryBuf = u.sys.recoveryBuf) (hb : b.store = u.burin.store) (hd : dr.closed = u.drive.closed)
    (hp : p.held = u.pair.held) :
    (State.mk u.pending a c f d dr se l b i sc p m fa ca sy h).still = u.still := by
  simp [State.still, hc, hm, hf, hfl, hr, hb, hd, hp]

@[simp] theorem still_ite (c : Prop) [Decidable c] (a b : State) :
    (if c then a else b).still = if c then a.still else b.still := by split <;> rfl

theorem foldl_still {α : Type} (f : State → α → State) (h : ∀ t x, (f t x).still = t.still) (l : List α) (s : State) :
    (l.foldl f s).still = s.still := by
  induction l generalizing s with
  | nil => rfl
  | cons x r ih => rw [List.foldl_cons, ih, h]

@[simp] theorem when_still (c : Bool) (f : State → State) (h : ∀ t, (f t).still = t.still) (s : State) :
    (when c f s).still = s.still := by
  unfold when
  split
  · exact h s
  · rfl

end Sys2Proof.Machine
end

