-- ==== Sys2Proof/Laws/StillOps.lean ====
section
/-! SUPPORT. What the operations of Machine/Ops.lean leave alone (Laws/Still.lean). -/

namespace Sys2Proof.Machine

@[simp] theorem State.due_still (s : State) (o : TickOp) :
    (State.due s o).still = s.still := by
  rfl

@[simp] theorem State.atTickNow_still (s : State) (o : TickOp) (f : State → State) (h : ∀ t, (f t).still = t.still) :
    (State.atTickNow s o f).still = s.still := by
  simp [State.atTickNow, h]

@[simp] theorem State.emit_still (s : State) (o : Out) :
    (State.emit s o).still = s.still := by
  rfl

@[simp] theorem State.setFn_still (s : State) (n : Nat) (f : Fn) :
    (State.setFn s n f).still = s.still := by
  rfl

@[simp] theorem State.modFn_still (s : State) (n : Nat) (g : Fn → Fn) :
    (State.modFn s n g).still = s.still := by
  rfl

@[simp] theorem State.msix_still (s : State) (n v : Nat) :
    (State.msix s n v).still = s.still := by
  simp [State.msix]

@[simp] theorem State.setDomain_still (s : State) (d : Nat) (x : Domain) :
    (State.setDomain s d x).still = s.still := by
  rfl

@[simp] theorem State.setXlate_still (s : State) (d : Nat) (x : Xlate) :
    (State.setXlate s d x).still = s.still := by
  rfl

@[simp] theorem State.newXfer_still (s : State) (dom : Nat) (use : XferUse) (urgent write : Bool) (iova len : Nat) (data : List Byte) :
    (State.newXfer s dom use urgent write iova len data).still = s.still := by
  rfl

@[simp] theorem State.present_rsp_still (s : State) (n : Nat) (r : BitVec 512) (notify : Bool) :
    (State.present_rsp s n r notify).still = s.still := by
  simp [State.present_rsp]

@[simp] theorem State.keepAnswer_still (s : State) (client seq : Nat) (r : BitVec 512) :
    (State.keepAnswer s client seq r).still = s.still := by
  rfl

@[simp] theorem State.answerMgmt_still (s : State) (client seq : Nat) (port : Bool) (r : BitVec 512) :
    (State.answerMgmt s client seq port r).still = s.still := by
  simp [State.answerMgmt, foldl_still]

@[simp] theorem State.answerAt_still (s : State) (time : Nat) (c : CmdRef) (status flags done : Nat) (payload : List (Nat × Nat)) :
    (State.answerAt s time c status flags done payload).still = s.still := by
  simp only [State.answerAt]
  (repeat' split) <;> simp

@[simp] theorem State.answer_still (s : State) (c : CmdRef) (status : Nat) (payload : List (Nat × Nat)) :
    (State.answer s c status payload).still = s.still := by
  simp [State.answer]

@[simp] theorem State.answerDue_still (s : State) (c : CmdRef) (status : Nat) (payload : List (Nat × Nat)) :
    (State.answerDue s c status payload).still = s.still := by
  rfl

@[simp] theorem State.flashJob_still (s : State) (j : FlashJob) :
    (State.flashJob s j).still = s.still := by
  rfl

@[simp] theorem State.setFunit_still (s : State) (kind index : Nat) (u : FUnit) :
    (State.setFunit s kind index u).still = s.still := by
  rfl

@[simp] theorem State.setDch_still (s : State) (i : Nat) (c : DriveCh) :
    (State.setDch s i c).still = s.still := by
  rfl

@[simp] theorem State.modDch_still (s : State) (i : Nat) (f : DriveCh → DriveCh) :
    (State.modDch s i f).still = s.still := by
  rfl

@[simp] theorem State.setSch_still (s : State) (i : Nat) (c : SenseCh) :
    (State.setSch s i c).still = s.still := by
  rfl

@[simp] theorem State.modSch_still (s : State) (i : Nat) (f : SenseCh → SenseCh) :
    (State.modSch s i f).still = s.still := by
  rfl

@[simp] theorem State.setQueue_still (s : State) (d i : Nat) (q : Queue) :
    (State.setQueue s d i q).still = s.still := by
  rfl

@[simp] theorem State.setScope_still (s : State) (n : Nat) (x : Scope) :
    (State.setScope s n x).still = s.still := by
  rfl

@[simp] theorem State.tallyIf_still (s : State) (ev : Nat) (p : Nat → Bool) (n : Nat) :
    (State.tallyIf s ev p n).still = s.still := by
  rfl

@[simp] theorem State.tally_still (s : State) (ev n : Nat) :
    (State.tally s ev n).still = s.still := by
  rfl

@[simp] theorem State.setRefPort_still (s : State) (b : Bool) (p : RefPort) :
    (State.setRefPort s b p).still = s.still := by
  simp [State.setRefPort]

@[simp] theorem State.setPtp_still (s : State) (b : Bool) (p : PtpPort) :
    (State.setPtp s b p).still = s.still := by
  simp [State.setPtp]

end Sys2Proof.Machine
end

