-- ==== Sys2Proof/Laws/StillChannel.lean ====
section
/-! SUPPORT. What the operations of Machine/Channel.lean leave alone (Laws/Still.lean). -/

namespace Sys2Proof.Machine

@[simp] theorem State.setCs_still (s : State) (i : Nat) (w : BitVec 512) :
    (State.setCs s i w).still = s.still := by
  rfl

@[simp] theorem State.outCode_still (s : State) (i code : Nat) :
    (State.outCode s i code).still = s.still := by
  first | rfl | (simp [State.outCode, foldl_still]; done) | (simp only [State.outCode]; (repeat' split) <;> simp [foldl_still])

end Sys2Proof.Machine
end

