-- ==== Sys2Proof/Laws/StillBus.lean ====
section
/-! SUPPORT. What the operations of Machine/Bus.lean leave alone (Laws/Still.lean). -/

namespace Sys2Proof.Machine

@[simp] theorem State.busAccess_still (s : State) (m : Nat) (write : Bool) (t : BusTarget) :
    (State.busAccess s m write t).still = s.still := by
  first | rfl | (simp [State.busAccess, foldl_still]; done) | (simp only [State.busAccess]; (repeat' split) <;> simp [foldl_still])

end Sys2Proof.Machine
end

