-- ==== Sys2Proof/Laws/StillEvents.lean ====
section
/-! SUPPORT. What the operations of Machine/Events.lean leave alone (Laws/Still.lean). -/

namespace Sys2Proof.Machine

@[simp] theorem State.appendLog_still (s : State) (r : BitVec 256) :
    (State.appendLog s r).still = s.still := by
  rfl

@[simp] theorem State.deliver_still (s : State) (src : Nat) (r : BitVec 256) (n : Nat) :
    (State.deliver s src r n).still = s.still := by
  simp [State.deliver]

@[simp] theorem State.raiseTo_still (s : State) (n : Nat) (e : Ev) (fns : List Nat) :
    (State.raiseTo s n e fns).still = s.still := by
  simp [State.raiseTo, foldl_still]

@[simp] theorem State.wrapped_still (s : State) (due : Bool) :
    (State.wrapped s due).still = s.still := by
  simp [State.wrapped]

@[simp] theorem State.raise_still (s : State) (n : Nat) (sc : EvScope) (e : Ev) :
    (State.raise s n sc e).still = s.still := by
  simp [State.raise, foldl_still]

@[simp] theorem State.raiseUnit_still (s : State) (n kind index : Nat) (e : Ev) :
    (State.raiseUnit s n kind index e).still = s.still := by
  simp [State.raiseUnit]

@[simp] theorem State.raiseMode_still (s : State) (old new : Mode) :
    (State.raiseMode s old new).still = s.still := by
  simp [State.raiseMode]

@[simp] theorem State.returns_still (s : State) (v : Nat) :
    (State.returns s v).still = s.still := by
  rfl

end Sys2Proof.Machine
end

