-- ==== Sys2Proof/Laws/StillClock.lean ====
section
/-! SUPPORT. What the operations of Machine/Clock.lean leave alone (Laws/Still.lean). -/

namespace Sys2Proof.Machine

@[simp] theorem State.tallyCycles_still (s : State) (n : Nat) :
    (State.tallyCycles s n).still = s.still := by
  simp [State.tallyCycles, foldl_still]

@[simp] theorem State.advance_still (s0 : State) (n : Nat) :
    (State.advance s0 n).still = s0.still := by
  simp [State.advance]

@[simp] theorem State.idle_still (s : State) :
    (State.idle s).still = s.still := by
  simp [State.idle]

@[simp] theorem State.atCycle_still (s : State) (c : Nat) :
    (State.atCycle s c).still = s.still := by
  simp [State.atCycle]

@[simp] theorem State.setRate_still (s : State) :
    (State.setRate s).still = s.still := by
  rfl

end Sys2Proof.Machine
end

