-- ==== Sys2Proof/Laws/StillFaults.lean ====
section
/-! SUPPORT. What the operations of Machine/Faults.lean leave alone (Laws/Still.lean). -/

namespace Sys2Proof.Machine

@[simp] theorem State.startSwap_still (s : State) (c : Option CmdRef) (standby : Bool) :
    (State.startSwap s c standby).still = s.still := by
  simp only [State.startSwap]
  (repeat' split) <;> simp

@[simp] theorem State.requestSwap_still (s : State) :
    (State.requestSwap s).still = s.still := by
  simp [State.requestSwap]

@[simp] theorem State.unhealthy_still (s : State) :
    (State.unhealthy s).still = s.still := by
  simp [State.unhealthy]

@[simp] theorem State.overflowAct_still (s : State) :
    (State.overflowAct s).still = s.still := by
  simp [State.overflowAct]

@[simp] theorem State.postEntry_still (s : State) (e : FEntry) :
    (State.postEntry s e).still = s.still := by
  simp [State.postEntry]

@[simp] theorem State.queueFailure_still (s : State) (kind index reason date count : Nat) (fresh permanent : Bool) :
    (State.queueFailure s kind index reason date count fresh permanent).still = s.still := by
  simp only [State.queueFailure]
  (repeat' split) <;> simp

@[simp] theorem State.fail_still (s : State) (kind index reason date : Nat) (events : List Nat) (counted rule4 : Bool) :
    (State.fail s kind index reason date events counted rule4).still = s.still := by
  simp [State.fail, foldl_still]

@[simp] theorem State.withdraw_still (s : State) (kind index : Nat) :
    (State.withdraw s kind index).still = s.still := by
  simp [State.withdraw]

@[simp] theorem State.endOverflow_still (s : State) :
    (State.endOverflow s).still = s.still := by
  simp [State.endOverflow, foldl_still]

end Sys2Proof.Machine
end

