-- ==== Sys2Proof/Laws/StillDrive.lean ====
section
/-! SUPPORT. What the operations of Machine/Drive.lean leave alone (Laws/Still.lean). -/

namespace Sys2Proof.Machine

@[simp] theorem State.putIn_still (s : State) (follow : Bool) (tick i : Nat) (w : Writer) (code : Nat) :
    (State.putIn s follow tick i w code).still = s.still := by
  first | rfl | (simp [State.putIn, foldl_still]; done) | (simp only [State.putIn]; (repeat' split) <;> simp [foldl_still])

@[simp] theorem State.putCode_still (s : State) (i : Nat) (w : Writer) (code : Nat) :
    (State.putCode s i w code).still = s.still := by
  simp [State.putCode]

@[simp] theorem State.setNow_still (s : State) (i code : Nat) :
    (State.setNow s i code).still = s.still := by
  first | rfl | (simp [State.setNow, foldl_still]; done) | (simp only [State.setNow]; (repeat' split) <;> simp [foldl_still])

@[simp] theorem State.driveTick_still (s : State) :
    (State.driveTick s).still = s.still := by
  rfl

@[simp] theorem State.driveStand_still (s : State) :
    (State.driveStand s).still = s.still := by
  rfl

@[simp] theorem State.driveIdle_still (s : State) :
    (State.driveIdle s).still = s.still := by
  simp [State.driveIdle, foldl_still]

@[simp] theorem State.latchLoads_still (s old : State) (charge : List (Nat × Nat)) :
    (State.latchLoads s old charge).still = s.still := by
  first | rfl | (simp [State.latchLoads, foldl_still]; done) | (simp only [State.latchLoads]; (repeat' split) <;> simp [foldl_still])

@[simp] theorem State.rangeAt_still (s : State) (i range : Nat) :
    (State.rangeAt s i range).still = s.still := by
  simp only [State.rangeAt]
  (repeat' split) <;> simp

@[simp] theorem State.rangeDone_still (s : State) (cmds : List CmdRef) :
    (State.rangeDone s cmds).still = s.still := by
  simp [State.rangeDone, foldl_still]

@[simp] theorem State.rangeRelease_still (s : State) (i : Nat) :
    (State.rangeRelease s i).still = s.still := by
  first | rfl | (simp [State.rangeRelease, foldl_still]; done) | (simp only [State.rangeRelease]; (repeat' split) <;> simp [foldl_still])

@[simp] theorem State.rangeWaits_still (s : State) :
    (State.rangeWaits s).still = s.still := by
  first | rfl | (simp [State.rangeWaits, foldl_still]; done) | (simp only [State.rangeWaits]; (repeat' split) <;> simp [foldl_still])

@[simp] theorem State.withdrawAll_still (s : State) (l : List Nat) :
    (State.withdrawAll s l).still = s.still := by
  simp [State.withdrawAll, foldl_still]

@[simp] theorem State.bankCheck_still (s : State) (b : Nat) :
    (State.bankCheck s b).still = s.still := by
  simp [State.bankCheck]

@[simp] theorem State.vhtrCheck_still (s : State) (g : Nat) :
    (State.vhtrCheck s g).still = s.still := by
  simp [State.vhtrCheck]

@[simp] theorem State.readbackFail_still (s : State) (i cls : Nat) :
    (State.readbackFail s i cls).still = s.still := by
  simp [State.readbackFail]

@[simp] theorem State.readbackNext_still (s : State) (r i : Nat) :
    (State.readbackNext s r i).still = s.still := by
  simp [State.readbackNext, foldl_still]

end Sys2Proof.Machine
end

