-- ==== Sys2Proof/Laws/StillLoops.lean ====
section
/-! SUPPORT. What the operations of Machine/Loops.lean leave alone (Laws/Still.lean). -/

namespace Sys2Proof.Machine

@[simp] theorem State.keepWord_still (s : State) (x : Nat) :
    (State.keepWord s x).still = s.still := by
  rfl

@[simp] theorem State.advanceEpoch_still (s : State) (x : Nat) :
    (State.advanceEpoch s x).still = s.still := by
  rfl

@[simp] theorem State.moveEngine_still (s : State) (i : Nat) :
    (State.moveEngine s i).still = s.still := by
  simp [State.moveEngine]

@[simp] theorem State.replace_still (old new : State) : (State.replace old new).still = new.still := by
  simp only [State.replace]
  exact foldl_still _ (by simp) _ _

@[simp] theorem State.writeLoop_still (s : State) (i : Nat) (w : BitVec 512) (exact : Int) :
    (State.writeLoop s i w exact).still = s.still := by
  simp [State.writeLoop]

@[simp] theorem State.writeBlock_still (s : State) (i : Nat) (w : BitVec 512) :
    (State.writeBlock s i w).still = s.still := by
  simp [State.writeBlock]

@[simp] theorem State.takeTarget_still (s : State) (i : Nat) (w : BitVec 512) : (State.takeTarget s i w).1.still = s.still := by
  unfold State.takeTarget
  split
  · rfl
  · exact when_still _ _ (by simp) _

@[simp] theorem State.restartCell_still (s : State) (i : Nat) :
    (State.restartCell s i).still = s.still := by
  first | rfl | (simp [State.restartCell, foldl_still]; done) | (simp only [State.restartCell]; (repeat' split) <;> simp [foldl_still])

@[simp] theorem State.lockNote_still (s : State) (i : Nat) (old new : BitVec 512) (restarted : Bool) :
    (State.lockNote s i old new restarted).still = s.still := by
  first | rfl | (simp [State.lockNote, foldl_still]; done) | (simp only [State.lockNote]; (repeat' split) <;> simp [foldl_still])

@[simp] theorem State.unlockedTick_still (s : State) (i : Nat) :
    (State.unlockedTick s i).still = s.still := by
  first | rfl | (simp [State.unlockedTick, foldl_still]; done) | (simp only [State.unlockedTick]; (repeat' split) <;> simp [foldl_still])

@[simp] theorem State.thermalUpdate_still (s : State) (i k : Nat) : (State.thermalUpdate s i k).still = s.still := by
  have h : ∀ (c : Bool) (w : BitVec 512), (if c then s.takeTarget i w else (s, w)).1.still = s.still := by
    intro c w
    cases c <;> simp
  unfold State.thermalUpdate
  extract_lets kind x smp old t w0 s0 o m back wA block seed s1
  have h0 : s0.still = s.still := h _ _
  have h1 : s1.still = s.still := (when_still _ _ (by simp) _).trans h0
  clear_value s1 wA block seed o
  (repeat' split) <;> simp [h1]

@[simp] theorem State.rangeStep_still (s : State) (i : Nat) :
    (State.rangeStep s i).still = s.still := by
  simp [State.rangeStep]

@[simp] theorem State.endDwell_still (s : State) (c : Nat) :
    (State.endDwell s c).still = s.still := by
  first | rfl | (simp [State.endDwell, foldl_still]; done) | (simp only [State.endDwell]; (repeat' split) <;> simp [foldl_still])

@[simp] theorem State.beginDwell_still (s : State) (c : Nat) (x : Bool) :
    (State.beginDwell s c x).still = s.still := by
  first | rfl | (simp [State.beginDwell, foldl_still]; done) | (simp only [State.beginDwell]; (repeat' split) <;> simp [foldl_still])

@[simp] theorem State.trimUpdate_still (s t0 : State) (c : Nat) :
    (State.trimUpdate s t0 c).still = s.still := by
  simp only [State.trimUpdate]
  (repeat' split) <;> simp

@[simp] theorem State.tickStatus_still (s : State) (i : Nat) :
    (State.tickStatus s i).still = s.still := by
  rfl

@[simp] theorem State.updateLoop_still (s t0 : State) (inp : TickIn) (k i : Nat) :
    (State.updateLoop s t0 inp k i).still = s.still := by
  simp only [State.updateLoop, when]
  (repeat' split) <;> simp

@[simp] theorem State.overruns_still (s : State) :
    (State.overruns s).still = s.still := by
  first | rfl | (simp [State.overruns, foldl_still]; done) | (simp only [State.overruns]; (repeat' split) <;> simp [foldl_still])

@[simp] theorem State.engineBudget_still (s : State) (inp : TickIn) :
    (State.engineBudget s inp).still = s.still := by
  simp [State.engineBudget, foldl_still]

@[simp] theorem State.loopFrame_still (s : State) (inp : TickIn) (k : Nat) : (State.loopFrame s inp k).still = s.still := by
  simp only [State.loopFrame]
  split
  · rfl
  · simp [foldl_still]

@[simp] theorem State.restartLoops_still (s : State) :
    (State.restartLoops s).still = s.still := by
  simp [State.restartLoops, foldl_still]

@[simp] theorem State.leaseLoops_still (s : State) (first : Bool) :
    (State.leaseLoops s first).still = s.still := by
  simp [State.leaseLoops, foldl_still]

@[simp] theorem State.setTone_still (s : State) (i m a phi : Nat) :
    (State.setTone s i m a phi).still = s.still := by
  simp [State.setTone]

@[simp] theorem State.defaultTones_still (s : State) :
    (State.defaultTones s).still = s.still := by
  simp [State.defaultTones, foldl_still]

end Sys2Proof.Machine
end

