-- ==== Sys2Proof/Laws/StillSense.lean ====
section
/-! SUPPORT. What the operations of Machine/Sense.lean leave alone (Laws/Still.lean). -/

namespace Sys2Proof.Machine

@[simp] theorem State.setCore_still (s : State) (c : Nat) (x : AdcCore) :
    (State.setCore s c x).still = s.still := by
  rfl

@[simp] theorem State.placeGroup_still (old new : State) (g : Nat) : (State.placeGroup old new g).still = new.still := by
  simp only [State.placeGroup]
  rw [foldl_still _ (by simp), foldl_still _ (by intro t x; split <;> simp)]

@[simp] theorem State.pairEvents_still (old new : State) (p : Nat) : (State.pairEvents old new p).still = new.still := by
  simp only [State.pairEvents]
  (repeat' split) <;> simp

@[simp] theorem State.setSpare_still (s : State) (g : Nat) (v : Option (Nat × Bool)) : (State.setSpare s g v).still = s.still := by
  simp only [State.setSpare]
  rw [State.placeGroup_still]
  simp

@[simp] theorem State.retireCore_still (old s : State) (p : Nat) : (State.retireCore old s p).still = s.still := by
  simp only [State.retireCore]
  rw [foldl_still _ (by intro t x; split <;> simp), State.placeGroup_still]
  (repeat' split) <;> simp

@[simp] theorem State.restoreCore_still (old s : State) (p : Nat) : (State.restoreCore old s p).still = s.still := by
  simp only [State.restoreCore]
  rw [State.placeGroup_still]
  (repeat' split) <;> simp

@[simp] theorem State.askUrgent_still (s : State) (core : Nat) (u : Urgent) :
    (State.askUrgent s core u).still = s.still := by
  simp [State.askUrgent]

@[simp] theorem State.anomaly_still (s : State) (core : Nat) (retry : Nat × Nat) :
    (State.anomaly s core retry).still = s.still := by
  simp [State.anomaly]

@[simp] theorem State.check_still (s : State) (core : Nat) (raw : Int) (retry : Option (Nat × Nat)) (posted : Nat) :
    (State.check s core raw retry posted).still = s.still := by
  simp only [State.check]
  (repeat' split) <;> simp

@[simp] theorem State.proofSample_still (s : State) (x : Nat) (w : W32) :
    (State.proofSample s x w).still = s.still := by
  rfl

@[simp] theorem State.convert_still (s : State) (core x : Nat) (raw : Int) (filter urgent store proof : Bool) :
    (State.convert s core x raw filter urgent store proof).still = s.still := by
  simp [State.convert]

@[simp] theorem State.modCore_still (s : State) (core : Nat) (f : AdcCore → AdcCore) :
    (State.modCore s core f).still = s.still := by
  rfl

@[simp] theorem State.serveProof_still (s : State) (core : Nat) (raw : Int) (t : List W16) (u : Urgent) (e : Nat) :
    (State.serveProof s core raw t u e).still = s.still := by
  simp [State.serveProof]

@[simp] theorem State.serveUrgent_still (s : State) (core : Nat) (raw : Int) (u : Urgent) :
    (State.serveUrgent s core raw u).still = s.still := by
  simp only [State.serveUrgent]
  (repeat' split) <;> simp

@[simp] theorem State.serveEntry_still (s : State) (core : Nat) (raw : Int) (t : List W16) (k : AdcCore) :
    (State.serveEntry s core raw t k).still = s.still := by
  simp only [State.serveEntry]
  (repeat' split) <;> simp

@[simp] theorem State.boundary_still (s : State) (core : Nat) (raw : Int) (len : Nat) :
    (State.boundary s core raw len).still = s.still := by
  have h0 : ∀ k : AdcCore, (s.setCore core k).still = s.still := fun k => by simp
  simp only [State.boundary]
  generalize (if (s.core core).used < urgentCapacity len then
    nextUrgent (s.core core).urgent s.clk.frame (s.core core).boundary else none) = o
  generalize List.filter _ (s.core core).urgent = l
  cases l with
  | cons u r => simp [h0]
  | nil => cases o <;> simp [h0]

@[simp] theorem State.swapBanks_still (s : State) :
    (State.swapBanks s).still = s.still := by
  rfl

@[simp] theorem State.startCores_still (s : State) :
    (State.startCores s).still = s.still := by
  rfl

@[simp] theorem State.setTia_still (s : State) (x range : Nat) :
    (State.setTia s x range).still = s.still := by
  simp [State.setTia]

@[simp] theorem State.borrowTia_still (s : State) (x range : Nat) :
    (State.borrowTia s x range).still = s.still := by
  first | rfl | (simp [State.borrowTia, foldl_still]; done) | (simp only [State.borrowTia]; (repeat' split) <;> simp [foldl_still])

@[simp] theorem State.returnTia_still (s : State) (x : Nat) :
    (State.returnTia s x).still = s.still := by
  first | rfl | (simp [State.returnTia, foldl_still]; done) | (simp only [State.returnTia]; (repeat' split) <;> simp [foldl_still])

@[simp] theorem State.writeTia_still (s : State) (x range : Nat) :
    (State.writeTia s x range).still = s.still := by
  first | rfl | (simp [State.writeTia, foldl_still]; done) | (simp only [State.writeTia]; (repeat' split) <;> simp [foldl_still])

@[simp] theorem State.returnTias_still (s : State) (p : Nat → Bool) :
    (State.returnTias s p).still = s.still := by
  first | rfl | (simp [State.returnTias, foldl_still]; done) | (simp only [State.returnTias]; (repeat' split) <;> simp [foldl_still])

@[simp] theorem State.judgeTest_still (s : State) (g x : Nat) (base second : W32) :
    (State.judgeTest s g x base second).still = s.still := by
  simp [State.judgeTest, foldl_still]

@[simp] theorem State.testTick_still (s : State) (g : Nat) :
    (State.testTick s g).still = s.still := by
  simp [State.testTick]

@[simp] theorem State.stopTests_still (s : State) : (State.stopTests s).still = s.still := by
  simp only [State.stopTests]
  refine foldl_still _ (fun t g => ?_) _ _
  split <;> simp

@[simp] theorem State.pathTests_still (s : State) :
    (State.pathTests s).still = s.still := by
  simp [State.pathTests, foldl_still]

@[simp] theorem State.pairEpochs_still (s : State) (pair : Nat) : (State.pairEpochs s pair).still = s.still := by
  simp only [State.pairEpochs]
  exact foldl_still _ (by simp) _ _

@[simp] theorem State.listCore_still (s : State) (c : Nat) :
    (State.listCore s c).still = s.still := by
  first | rfl | (simp [State.listCore, foldl_still]; done) | (simp only [State.listCore]; (repeat' split) <;> simp [foldl_still])

@[simp] theorem State.startCapture_still (s : State) (c : CmdRef) (iova pair index filter range : Nat) :
    (State.startCapture s c iova pair index filter range).still = s.still := by
  simp [State.startCapture]

@[simp] theorem State.stopCapture_still (s : State) :
    (State.stopCapture s).still = s.still := by
  first | rfl | (simp [State.stopCapture, foldl_still]; done) | (simp only [State.stopCapture]; (repeat' split) <;> simp [foldl_still])

end Sys2Proof.Machine
end

