-- ==== Sys2Proof/Laws/StillBurin.lean ====
section
/-! SUPPORT. What the operations of Machine/Burin.lean leave alone (Laws/Still.lean). -/

namespace Sys2Proof.Machine

@[simp] theorem State.eccCorrect_still (s : State) (p off len : Nat) :
    (State.eccCorrect s p off len).still = s.still := by
  first | rfl | (simp [State.eccCorrect, foldl_still]; done) | (simp only [State.eccCorrect]; (repeat' split) <;> simp [foldl_still])

@[simp] theorem State.readEvents_still (s : State) (j : Job) :
    (State.readEvents s j).still = s.still := by
  first | rfl | (simp [State.readEvents, foldl_still]; done) | (simp only [State.readEvents]; (repeat' split) <;> simp [foldl_still])

end Sys2Proof.Machine
end

