-- ==== Sys2Proof/Laws/StillSched.lean ====
section
/-! SUPPORT. What the operations of Machine/Sched.lean leave alone (Laws/Still.lean). -/

namespace Sys2Proof.Machine

@[simp] theorem State.mirrorTx_still (s : State) (type : Nat) (payload : List Byte) :
    (State.mirrorTx s type payload).still = s.still := by
  simp [State.mirrorTx]

@[simp] theorem State.mirrorSend_still (s : State) (type : Nat) (payload : List Byte) :
    (State.mirrorSend s type payload).still = s.still := by
  simp [State.mirrorSend]

@[simp] theorem State.mirrorRequestOf_still (s : State) (d i : Nat) (granted : Option (BitVec 256 × Nat)) :
    (State.mirrorRequestOf s d i granted).still = s.still := by
  simp [State.mirrorRequestOf]

@[simp] theorem State.complete_still (s : State) (r : Req) (status proof disturbed time seq : Nat) :
    (State.complete s r status proof disturbed time seq).still = s.still := by
  simp [State.complete]

@[simp] theorem State.landed_still (s : State) (r : Req) :
    (State.landed s r).still = s.still := by
  rfl

@[simp] theorem State.completeBare_still (s : State) (r : Req) (status disturbed : Nat) :
    (State.completeBare s r status disturbed).still = s.still := by
  simp [State.completeBare]

@[simp] theorem State.fetch_still (s : State) (d i : Nat) : (State.fetch s d i).still = s.still := by
  unfold State.fetch
  extract_lets q at_ avail n f
  have h : f.2.still = s.still := by simp [f, State.fresh]
  clear_value f n
  (repeat' split) <;> simp [h]

@[simp] theorem State.fetchAll_still (s : State) :
    (State.fetchAll s).still = s.still := by
  simp [State.fetchAll, foldl_still]

@[simp] theorem State.refuse_still (s : State) (d i st : Nat) (late : Bool) : (State.refuse s d i st late).still = s.still := by
  simp only [State.refuse]
  (repeat' split) <;> simp

@[simp] theorem State.checkHead_still (s : State) (d i : Nat) : (State.checkHead s d i).still = s.still := by
  unfold State.checkHead
  extract_lets q
  clear_value q
  (repeat' split) <;> simp

@[simp] theorem State.recheckHeads_still (s : State) :
    (State.recheckHeads s).still = s.still := by
  simp [State.recheckHeads, foldl_still]

@[simp] theorem State.timedTick_still (s : State) :
    (State.timedTick s).still = s.still := by
  first | rfl | (simp [State.timedTick, foldl_still]; done) | (simp only [State.timedTick]; (repeat' split) <;> simp [foldl_still])

@[simp] theorem State.policeHeads_still (s : State) : (State.policeHeads s).still = s.still := by
  unfold State.policeHeads
  split
  · rfl
  · refine foldl_still _ (fun t d => ?_) _ _
    simp only []
    split
    · exact foldl_still _ (by simp) _ _
    · rfl

@[simp] theorem State.grant_still (s : State) (d : Nat) (elig : List Nat) : (State.grant s d elig).1.still = s.still := by
  unfold State.grant
  split
  · rfl
  · extract_lets q
    clear_value q
    split
    · rfl
    · simp +zetaDelta [foldl_still]

@[simp] theorem State.setBatch_still (s : State) (b : Batch) :
    (State.setBatch s b).still = s.still := by
  rfl

@[simp] theorem State.closeBatch_still (s : State) :
    (State.closeBatch s).still = s.still := by
  simp only [State.closeBatch]
  (repeat' split) <;> simp

@[simp] theorem State.join_still (s : State) (r : Req) :
    (State.join s r).still = s.still := by
  simp only [State.join]
  (repeat' split) <;> simp

@[simp] theorem State.joinOrLate_still (s : State) (r : Req) :
    (State.joinOrLate s r).still = s.still := by
  first | rfl | (simp [State.joinOrLate, foldl_still]; done) | (simp only [State.joinOrLate]; (repeat' split) <;> simp [foldl_still])

@[simp] theorem State.mirrorGrant_still (s : State) (r : Req) :
    (State.mirrorGrant s r).still = s.still := by
  first | rfl | (simp [State.mirrorGrant, foldl_still]; done) | (simp only [State.mirrorGrant]; (repeat' split) <;> simp [foldl_still])

@[simp] theorem State.resetQueue_still (s : State) (d i : Nat) :
    (State.resetQueue s d i).still = s.still := by
  rfl

end Sys2Proof.Machine
end

