-- ==== Sys2Proof/Laws/StillImp.lean ====
section
/-! SUPPORT. What the operations of Machine/Imp.lean leave alone (Laws/Still.lean). -/

namespace Sys2Proof.Machine

@[simp] theorem State.latchReads_still (s : State) (p : Nat) :
    (State.latchReads s p).still = s.still := by
  rfl

@[simp] theorem State.portDecision_still (s : State) (r : Nat) :
    (State.portDecision s r).still = s.still := by
  rfl

@[simp] theorem State.startRead_still (s : State) (a : Armed) : (State.startRead s a).2.still = s.still := by
  simp [State.startRead]

@[simp] theorem State.portServed_still (s : State) (w : PortWrite) :
    (State.portServed s w).still = s.still := by
  first | rfl | (simp [State.portServed, foldl_still]; done) | (simp only [State.portServed]; (repeat' split) <;> simp [foldl_still])

@[simp] theorem State.addArmed_still (s : State) (a : Armed) :
    (State.addArmed s a).still = s.still := by
  rfl

@[simp] theorem State.setArmed_still (s : State) (a : Armed) :
    (State.setArmed s a).still = s.still := by
  rfl

@[simp] theorem State.dropArmed_still (s : State) (order : Nat) :
    (State.dropArmed s order).still = s.still := by
  rfl

@[simp] theorem State.armSlot_still (s : State) (plate start : Nat) :
    (State.armSlot s plate start).still = s.still := by
  rfl

@[simp] theorem State.startReads_still (s : State) : (State.startReads s).still = s.still := by
  unfold State.startReads
  refine foldl_still _ (fun t a => ?_) _ _
  split <;> simp

@[simp] theorem State.mirrorArmed_still (s : State) (a : Armed) (img : PlateImg) :
    (State.mirrorArmed s a img).still = s.still := by
  simp [State.mirrorArmed]

@[simp] theorem State.returnReqs_still (s : State) (l : List (Req × Nat)) :
    (State.returnReqs s l).still = s.still := by
  simp [State.returnReqs, foldl_still]

@[simp] theorem State.discardBatches_still (s : State) (ids : List Nat) :
    (State.discardBatches s ids).still = s.still := by
  simp [State.discardBatches]

@[simp] theorem State.breakChain_still (s : State) :
    (State.breakChain s).still = s.still := by
  simp only [State.breakChain]
  (repeat' split) <;> simp

@[simp] theorem State.strictDrop_still (s : State) (id : Nat) :
    (State.strictDrop s id).still = s.still := by
  first | rfl | (simp [State.strictDrop, foldl_still]; done) | (simp only [State.strictDrop]; (repeat' split) <;> simp [foldl_still])

@[simp] theorem State.strictLate_still (s : State) :
    (State.strictLate s).still = s.still := by
  simp only [State.strictLate]
  (repeat' split) <;> simp [foldl_still, when]

@[simp] theorem State.discardArmed_still (s : State) (a : Armed) (status : Nat) (event : Bool) :
    (State.discardArmed s a status event).still = s.still := by
  simp only [State.discardArmed]
  (repeat' split) <;> simp

@[simp] theorem State.putCell_still (s : State) (c : Nat) (state : Bool) :
    (State.putCell s c state).still = s.still := by
  simp [State.putCell]

@[simp] theorem State.refreshTrace_still (s : State) (cells i : Nat) :
    (State.refreshTrace s cells i).still = s.still := by
  simp [State.refreshTrace, foldl_still]

@[simp] theorem State.commitImpression_still (s : State) :
    (State.commitImpression s).still = s.still := by
  unfold State.commitImpression
  extract_lets t retry wait pick ready taken s0 s1
  have h1 : s1.still = s.still := by
    refine (foldl_still _ (fun u a => ?_) _ _).trans (State.tally_still _ _ _)
    split <;> simp
  generalize s1 = u at h1
  generalize pick = p
  generalize retry = r
  cases p with
  | some a =>
    simp only
    split
    · exact h1
    · rw [← h1]; simp [foldl_still]
  | none =>
    simp only
    cases r with
    | none => simpa using h1
    | some x => rw [← h1]; simp [foldl_still]

@[simp] theorem State.commitWork_still (s : State) :
    (State.commitWork s).still = s.still := by
  simp [State.commitWork]

@[simp] theorem State.modProof_still (s : State) (seq : Nat) (f : ProofRec → ProofRec) :
    (State.modProof s seq f).still = s.still := by
  rfl

@[simp] theorem State.mirrorProofOf_still (s : State) (seq : Nat) :
    (State.mirrorProofOf s seq).still = s.still := by
  simp only [State.mirrorProofOf]
  (repeat' split) <;> simp

@[simp] theorem State.completeProved_still (s : State) (seq i byte : Nat) :
    (State.completeProved s seq i byte).still = s.still := by
  simp only [State.completeProved]
  (repeat' split) <;> simp [foldl_still, when]

@[simp] theorem State.finalResult_still (s : State) (i e : Nat) (own : Option Nat) (first byte : Nat) :
    (State.finalResult s i e own first byte).still = s.still := by
  simp only [State.finalResult]
  (repeat' split) <;> simp

@[simp] theorem State.localise_still (s : State) (it : ProofItem) :
    (State.localise s it).still = s.still := by
  first | rfl | (simp [State.localise, foldl_still]; done) | (simp only [State.localise]; (repeat' split) <;> simp [foldl_still])

@[simp] theorem State.endAwaiting_still (s : State) (l : List (Nat × Nat × Nat)) (byte : Nat) :
    (State.endAwaiting s l byte).still = s.still := by
  simp [State.endAwaiting, foldl_still]

@[simp] theorem State.trimRetry_still (s : State) (hit : Nat → Bool) (byte : Nat) :
    (State.trimRetry s hit byte).still = s.still := by
  simp only [State.trimRetry]
  (repeat' split) <;> simp

@[simp] theorem State.supersede_still (s : State) (hit : Nat → Bool) :
    (State.supersede s hit).still = s.still := by
  simp [State.supersede, foldl_still]

@[simp] theorem State.touch_still (s : State) (drive : Nat) :
    (State.touch s drive).still = s.still := by
  rfl

@[simp] theorem State.touchCircuit_still (s : State) (cells i e : Nat) :
    (State.touchCircuit s cells i e).still = s.still := by
  simp [State.touchCircuit, foldl_still]

@[simp] theorem State.proveCircuit_still (s : State) (seq i e first : Nat) (retried : Bool) :
    (State.proveCircuit s seq i e first retried).still = s.still := by
  rfl

@[simp] theorem State.newProof_still (s : State) (plate source flags changed retryOf : Nat) (circuits : List Nat) (cmd : Option CmdRef) (late : Bool) :
    (State.newProof s plate source flags changed retryOf circuits cmd late).still = s.still := by
  rfl

@[simp] theorem State.applyImpression_still (s : State) (a : Armed) (img : PlateImg) (pinned : Bool) (changed : List Nat)
    (joined gone : List (Nat × Nat × Nat)) : (State.applyImpression s a img pinned changed joined gone).still = s.still := by
  unfold State.applyImpression
  extract_lets n seq old oc ch s0 s1 src s2 s3 s4 joins s5 fresh set s6 s7 s8 s9
  have h1 : s1.still = s.still := (foldl_still _ (by simp) _ _).trans (by simp [s0])
  have h2 : s2.still = s1.still := by simp [s2]
  have h3 : s3.still = s2.still := foldl_still _ (by intro t c; (repeat' split) <;> simp) _ _
  have h4 : s4.still = s3.still := foldl_still _ (by simp) _ _
  have h5 : s5.still = s4.still := by simp [s5]
  have h6 : s6.still = s5.still := by simp [s6]
  have h7 : s7.still = s6.still := foldl_still _ (by simp) _ _
  have h8 : s8.still = s7.still := foldl_still _ (by simp) _ _
  have h9 : s9.still = s.still := by simp only [s9, State.dropArmed_still, h8, h7, h6, h5, h4, h3, h2, h1]
  clear_value s9
  split
  · simp [h9]
  · split
    · exact h9
    · simp [foldl_still, h9]

@[simp] theorem State.applyRetry_still (s : State) (set : List (Nat × Nat × Nat)) (latest : Nat) :
    (State.applyRetry s set latest).still = s.still := by
  simp [State.applyRetry, foldl_still]

@[simp] theorem State.withdrawCodes_still (s : State) (cells : List Nat) :
    (State.withdrawCodes s cells).still = s.still := by
  simp [State.withdrawCodes, foldl_still]

@[simp] theorem State.checkFixed_still (s : State) :
    (State.checkFixed s).still = s.still := by
  simp only [State.checkFixed]
  (repeat' split) <;> simp

@[simp] theorem State.applyFixed_still (s : State) : (State.applyFixed s).still = s.still := by
  unfold State.applyFixed
  extract_lets src s1
  have h1 : s1.still = s.still := by simp [s1]
  clear_value s1
  (repeat' split) <;> simp [h1]

@[simp] theorem State.discardStale_still (s : State) :
    (State.discardStale s).still = s.still := by
  simp only [State.discardStale]
  (repeat' split) <;> simp [foldl_still, when]

@[simp] theorem State.askTap_still (s : State) (x : Nat) :
    (State.askTap s x).still = s.still := by
  simp only [State.askTap]
  (repeat' split) <;> simp

@[simp] theorem State.proofTick_still (s : State) :
    (State.proofTick s).still = s.still := by
  simp [State.proofTick, foldl_still]

@[simp] theorem State.armRetry_still (s : State) (it : ProofItem) :
    (State.armRetry s it).still = s.still := by
  simp [State.armRetry]

@[simp] theorem State.resultOf_still (s : State) (it : ProofItem) :
    (State.resultOf s it).still = s.still := by
  simp only [State.resultOf]
  (repeat' split) <;> simp

@[simp] theorem State.firstResult_still (s : State) (r : ProofRec) (range3 : Bool) (fails : Nat) :
    (State.firstResult s r range3 fails).still = s.still := by
  simp only [State.firstResult]
  (repeat' split) <;> simp

@[simp] theorem State.resultsOf_still (s : State) (seq : Nat) :
    (State.resultsOf s seq).still = s.still := by
  simp only [State.resultsOf]
  (repeat' split) <;> simp [foldl_still]

@[simp] theorem State.completePlain_still (s : State) : (State.completePlain s).still = s.still := by
  unfold State.completePlain
  refine foldl_still _ (fun t b => ?_) _ _
  split
  · refine foldl_still _ (fun t r => ?_) _ _
    split <;> simp
  · rfl

@[simp] theorem State.locateTick_still (s : State) :
    (State.locateTick s).still = s.still := by
  rfl

@[simp] theorem State.markSuspects_still (s : State) (l : Locate) :
    (State.markSuspects s l).still = s.still := by
  simp only [State.markSuspects]
  (repeat' split) <;> (try simp) <;> rw [foldl_still] <;> (try intro t x) <;> (repeat' split) <;> simp

end Sys2Proof.Machine
end

