-- ==== Sys2Proof/Laws/StillSlots.lean ====
section
/-! SUPPORT. What the operations of Machine/Slots.lean leave alone (Laws/Still.lean). -/

namespace Sys2Proof.Machine

@[simp] theorem State.writeSlots_still (s : State) (bank : Bool) (first : Nat) (l : List Nat) :
    (State.writeSlots s bank first l).still = s.still := by
  simp [State.writeSlots]

@[simp] theorem State.finishOp_still (s : State) (status : Nat) (time : Nat) :
    (State.finishOp s status time).still = s.still := by
  simp only [State.finishOp]
  (repeat' split) <;> simp

@[simp] theorem State.latchOcc_still (s : State) (entry start cycle : Nat) : (State.latchOcc s entry start cycle).still = s.still := by
  simp [State.latchOcc]

@[simp] theorem State.latchDue_still (s : State) :
    (State.latchDue s).still = s.still := by
  simp only [State.latchDue]
  (repeat' split) <;> simp

@[simp] theorem State.slotDue_still (s : State) :
    (State.slotDue s).still = s.still := by
  simp only [State.slotDue]
  (repeat' split) <;> simp

@[simp] theorem State.slotTick_still (s : State) :
    (State.slotTick s).still = s.still := by
  simp only [State.slotTick]
  (repeat' split) <;> simp

@[simp] theorem State.stopSlots_still (s : State) :
    (State.stopSlots s).still = s.still := by
  simp only [State.stopSlots]
  (repeat' split) <;> simp

@[simp] theorem State.slotSwap_still (s : State) (c : CmdRef) (op : Nat) (timed strict bank : Bool) (time : Nat) :
    (State.slotSwap s c op timed strict bank time).still = s.still := by
  simp [State.slotSwap]

end Sys2Proof.Machine
end

