-- ==== Sys2Proof/Laws/StillRoutes.lean ====
section
/-! SUPPORT. What the operations of Machine/Routes.lean leave alone (Laws/Still.lean). -/

namespace Sys2Proof.Machine

@[simp] theorem State.armBatch_still (s : State) (b : Batch) :
    (State.armBatch s b).still = s.still := by
  simp [State.armBatch]

@[simp] theorem State.armWaiting_still (s : State) :
    (State.armWaiting s).still = s.still := by
  simp [State.armWaiting, foldl_still]

@[simp] theorem State.batchRouted_still (s : State) (b : Batch) (r : Running) (res : Routed) (dist : Nat) :
    (State.batchRouted s b r res dist).still = s.still := by
  simp [State.batchRouted, foldl_still]

@[simp] theorem State.jobFailed_still (s : State) (j : Job) :
    (State.jobFailed s j).still = s.still := by
  simp only [State.jobFailed]
  (repeat' split) <;> simp [foldl_still, when]

end Sys2Proof.Machine
end

