-- ==== Sys2Proof/Laws/StillTime.lean ====
section
/-! SUPPORT. What the operations of Machine/Time.lean leave alone (Laws/Still.lean). -/

namespace Sys2Proof.Machine

@[simp] theorem State.gatePps_still (s : State) :
    (State.gatePps s).still = s.still := by
  first | rfl | (simp [State.gatePps, foldl_still]; done) | (simp only [State.gatePps]; (repeat' split) <;> simp [foldl_still])

@[simp] theorem State.servoTo_still (s : State) (st : ServoState) :
    (State.servoTo s st).still = s.still := by
  first | rfl | (simp [State.servoTo, foldl_still]; done) | (simp only [State.servoTo]; (repeat' split) <;> simp [foldl_still])

@[simp] theorem State.holdover_still (s : State) :
    (State.holdover s).still = s.still := by
  simp [State.holdover]

@[simp] theorem State.measured_still (s : State) :
    (State.measured s).still = s.still := by
  simp [State.measured]

@[simp] theorem State.lockRuns_still (s : State) (o : Int) :
    (State.lockRuns s o).still = s.still := by
  simp [State.lockRuns]

@[simp] theorem State.servo_still (s : State) (o tau : Int) :
    (State.servo s o tau).still = s.still := by
  simp [State.servo]

@[simp] theorem State.hostOffset_still (s : State) (o : Int) :
    (State.hostOffset s o).still = s.still := by
  simp [State.hostOffset]

@[simp] theorem State.checkSource_still (s : State) :
    (State.checkSource s).still = s.still := by
  first | rfl | (simp [State.checkSource, foldl_still]; done) | (simp only [State.checkSource]; (repeat' split) <;> simp [foldl_still])

@[simp] theorem State.selectPort_still (s : State) :
    (State.selectPort s).still = s.still := by
  simp [State.selectPort]

@[simp] theorem State.loseMaster_still (s : State) (b : Bool) :
    (State.loseMaster s b).still = s.still := by
  simp [State.loseMaster]

@[simp] theorem State.pathDelay_still (s : State) (b : Bool) (d : Int) : (State.pathDelay s b d).1.still = s.still := by
  simp only [State.pathDelay]
  (repeat' split) <;> simp

@[simp] theorem State.portOffset_still (s : State) (b : Bool) (o tau : Int) :
    (State.portOffset s b o tau).still = s.still := by
  simp [State.portOffset]

@[simp] theorem State.e2eDone_still (s : State) (b : Bool) :
    (State.e2eDone s b).still = s.still := by
  first | rfl | (simp [State.e2eDone, foldl_still]; done) | (simp only [State.e2eDone]; (repeat' split) <;> simp [foldl_still])

@[simp] theorem State.syncDone_still (s : State) (b : Bool) :
    (State.syncDone s b).still = s.still := by
  simp only [State.syncDone]
  (repeat' split) <;> simp

@[simp] theorem State.peerDone_still (s : State) (b : Bool) (t2 t3 t4 corr : Int) :
    (State.peerDone s b t2 t3 t4 corr).still = s.still := by
  simp only [State.peerDone]
  (repeat' split) <;> simp

@[simp] theorem State.portDown_still (s : State) (b : Bool) :
    (State.portDown s b).still = s.still := by
  simp [State.portDown]

@[simp] theorem State.timeItem_still (s : State) (item : Nat) (b : Bool) (v : Nat) :
    (State.timeItem s item b v).still = s.still := by
  simp [State.timeItem]

end Sys2Proof.Machine
end

