-- ==== Sys2Proof/Laws/StillHealth.lean ====
section
/-! SUPPORT. What the operations of Machine/Health.lean leave alone (Laws/Still.lean). -/

namespace Sys2Proof.Machine

@[simp] theorem State.mirrorPinOf_still (s : State) (cell : Nat) (st : Option Bool) :
    (State.mirrorPinOf s cell st).still = s.still := by
  simp [State.mirrorPinOf]

@[simp] theorem State.pinCell_still (s : State) (cell : Nat) (st : Bool) :
    (State.pinCell s cell st).still = s.still := by
  simp [State.pinCell]

@[simp] theorem State.unpinCell_still (s : State) (cell : Nat) :
    (State.unpinCell s cell).still = s.still := by
  simp [State.unpinCell]

@[simp] theorem State.pinRetired_still (s : State) :
    (State.pinRetired s).still = s.still := by
  simp [State.pinRetired, foldl_still]

@[simp] theorem State.assignSpares_still (s : State) :
    (State.assignSpares s).still = s.still := by
  simp only [State.assignSpares]
  rw [foldl_still]
  · intro t x
    (repeat' split) <;> simp

@[simp] theorem State.engineCheck_still (s : State) :
    (State.engineCheck s).still = s.still := by
  simp [State.engineCheck]

@[simp] theorem State.degradePort_still (s : State) (p : Nat) :
    (State.degradePort s p).still = s.still := by
  simp [State.degradePort]

@[simp] theorem State.retireAt_still (s : State) (kind index reason : Nat) :
    (State.retireAt s kind index reason).still = s.still := by
  simp only [State.retireAt]
  (repeat' split) <;> simp

@[simp] theorem State.restartLoop_still (s : State) (i : Nat) :
    (State.restartLoop s i).still = s.still := by
  simp [State.restartLoop]

@[simp] theorem State.restoreAt_still (s : State) (kind index : Nat) :
    (State.restoreAt s kind index).still = s.still := by
  simp only [State.restoreAt]
  (repeat' split) <;> simp [foldl_still, when]

@[simp] theorem State.writeRetirement_still (s : State) :
    (State.writeRetirement s).still = s.still := by
  rfl

@[simp] theorem State.recordTick_still (s : State) :
    (State.recordTick s).still = s.still := by
  simp [State.recordTick]

@[simp] theorem State.loadRetirement_still (s : State) : (State.loadRetirement s).still = s.still := by
  unfold State.loadRetirement
  split
  · simp
  · extract_lets body bits ret s1 s2 state s3 s4 s5 ports s6 _src s7
    have hr : ∀ (t : State) (k i r : Nat), (ret t k i r).still = t.still := fun t k i r => by simp [ret]
    clear_value ret bits
    have h1 : s1.still = s.still := foldl_still _ (by intro t i; simp [hr, State.fresh]) _ _
    have h2 : s2.still = s1.still := foldl_still _ (by intro t i; split <;> simp [hr]) _ _
    have h3 : s3.still = s2.still := foldl_still _ (by simp) _ _
    have h4 : s4.still = s3.still := foldl_still _ (by simp [hr]) _ _
    have h5 : s5.still = s4.still := foldl_still _ (by simp [hr]) _ _
    have h6 : s6.still = s5.still := foldl_still _ (by simp) _ _
    clear_value s6
    have h7 : s7.still = s6.still := rfl
    clear_value s7
    simp [h7, h6, h5, h4, h3, h2, h1]

@[simp] theorem State.tempCheck_still (s : State) (k : Nat) :
    (State.tempCheck s k).still = s.still := by
  simp [State.tempCheck]

@[simp] theorem State.tempTick_still (s : State) (readings : List Int) :
    (State.tempTick s readings).still = s.still := by
  simp [State.tempTick, foldl_still]

@[simp] theorem State.voltCheck_still (s : State) (v : Nat) :
    (State.voltCheck s v).still = s.still := by
  simp [State.voltCheck]

@[simp] theorem State.procCheck_still (s : State) (p count : Nat) :
    (State.procCheck s p count).still = s.still := by
  simp [State.procCheck]

@[simp] theorem State.publish_still (s : State) :
    (State.publish s).still = s.still := by
  simp [State.publish]

end Sys2Proof.Machine
end

