-- ==== Sys2Proof/Laws/StillLease.lean ====
section
/-! SUPPORT. What the operations of Machine/Lease.lean leave alone (Laws/Still.lean). -/

namespace Sys2Proof.Machine

@[simp] theorem State.refSend_still (s : State) (port : Bool) (type : Nat) (site : Bool) (flags epoch arg : Nat) :
    (State.refSend s port type site flags epoch arg).still = s.still := by
  simp [State.refSend]

@[simp] theorem State.islandAt_still (s : State) (now : Nat) :
    (State.islandAt s now).still = s.still := by
  rfl

@[simp] theorem State.raiseCore_still (s : State) (n : Nat) (sc : EvScope) (e : Ev) :
    (State.raiseCore s n sc e).still = s.still := by
  simp [State.raiseCore]

@[simp] theorem State.refHeard_still (s : State) (port : Bool) (now : Nat) :
    (State.refHeard s port now).still = s.still := by
  simp [State.refHeard]

@[simp] theorem State.refBad_still (s : State) (port : Bool) :
    (State.refBad s port).still = s.still := by
  simp [State.refBad]

@[simp] theorem State.seeEpoch_still (s : State) (e : Nat) :
    (State.seeEpoch s e).still = s.still := by
  simp [State.seeEpoch]

@[simp] theorem State.sendRelease_still (s : State) :
    (State.sendRelease s).still = s.still := by
  simp [State.sendRelease]

@[simp] theorem State.endCommands_still (s : State) :
    (State.endCommands s).still = s.still := by
  simp only [State.endCommands]
  (repeat' split) <;> (try simp) <;> rw [foldl_still] <;> (try intro t x) <;> (repeat' split) <;> simp

@[simp] theorem State.heartbeat_still (s : State) :
    (State.heartbeat s).still = s.still := by
  rfl

@[simp] theorem State.fromReferee_still (s : State) (port : Bool) (type : Nat) (f : RefFrame) (now : Nat) (act : State → State)
    (h : ∀ t, (act t).still = t.still) : (State.fromReferee s port type f now act).still = s.still := by
  simp only [State.fromReferee]
  (repeat' split) <;> simp [h]

@[simp] theorem State.refereeWatch_still (s : State) :
    (State.refereeWatch s).still = s.still := by
  simp only [State.refereeWatch]
  (repeat' split) <;> simp

@[simp] theorem State.refereeFree_still (s : State) (t : Nat) :
    (State.refereeFree s t).still = s.still := by
  simp only [State.refereeFree]
  (repeat' split) <;> simp

@[simp] theorem State.refereeIso_still (s : State) (site on : Bool) :
    (State.refereeIso s site on).still = s.still := by
  simp [State.refereeIso]

@[simp] theorem State.refereeHear_still (s : State) (type : Nat) (f : RefFrame) (now : Nat) (act : State → State)
    (h : ∀ t, (act t).still = t.still) : (State.refereeHear s type f now act).still = s.still := by
  simp only [State.refereeHear]
  (repeat' split) <;> simp [h]

@[simp] theorem State.refereeRenew_still (s : State) (site : Bool) (now : Nat) :
    (State.refereeRenew s site now).still = s.still := by
  simp [State.refereeRenew]

end Sys2Proof.Machine
end

