-- ==== Sys2Proof/Laws/StillCal.lean ====
section
/-! SUPPORT. What the operations of Machine/Cal.lean leave alone (Laws/Still.lean). -/

namespace Sys2Proof.Machine

@[simp] theorem State.driveImage_still (s : State) (f : Nat → Option Nat) :
    (State.driveImage s f).still = s.still := by
  simp only [State.driveImage]
  rw [foldl_still]
  · intro t x
    (repeat' split) <;> simp

@[simp] theorem State.setApplied_still (s : State) (cells target : Nat) :
    (State.setApplied s cells target).still = s.still := by
  rfl

@[simp] theorem State.restImage_still (s : State) :
    (State.restImage s).still = s.still := by
  simp [State.restImage]

@[simp] theorem State.blockImage_still (s : State) :
    (State.blockImage s).still = s.still := by
  simp [State.blockImage]

@[simp] theorem State.allEnded_still (s : State) (n : Nat) (rejected : Bool) :
    (State.allEnded s n rejected).still = s.still := by
  simp only [State.allEnded]
  (repeat' split) <;> simp

@[simp] theorem State.returnSpare_still (s : State) (g : Nat) :
    (State.returnSpare s g).still = s.still := by
  simp only [State.returnSpare]
  (repeat' split) <;> simp

@[simp] theorem State.returnTones_still (s : State) :
    (State.returnTones s).still = s.still := by
  simp [State.returnTones, foldl_still]

@[simp] theorem State.rejectRun_still (s : State) (n reason fail : Nat) :
    (State.rejectRun s n reason fail).still = s.still := by
  simp only [State.rejectRun]
  (repeat' split) <;> simp

@[simp] theorem State.abandonRun_still (s : State) (n : Nat) :
    (State.abandonRun s n).still = s.still := by
  simp [State.abandonRun]

@[simp] theorem State.abandonRuns_still (s : State) :
    (State.abandonRuns s).still = s.still := by
  simp [State.abandonRuns, foldl_still]

@[simp] theorem State.acceptRun_still (s : State) (n flags : Nat) :
    (State.acceptRun s n flags).still = s.still := by
  simp only [State.acceptRun]
  (repeat' split) <;> simp

@[simp] theorem State.startRun_still (s : State) (n : Nat) :
    (State.startRun s n).still = s.still := by
  simp [State.startRun]

@[simp] theorem State.adcStep_still (s : State) (g e : Nat) (style : Nat) :
    (State.adcStep s g e style).still = s.still := by
  simp [State.adcStep]

@[simp] theorem State.calTick_still (s : State) :
    (State.calTick s).still = s.still := by
  simp only [State.calTick]
  rw [foldl_still]
  · intro t x
    (repeat' split) <;> simp

@[simp] theorem State.runCode_still (s : State) (i code : Nat) :
    (State.runCode s i code).still = s.still := by
  simp [State.runCode]

@[simp] theorem State.hatchStep_still (s : State) (h : Nat) :
    (State.hatchStep s h).still = s.still := by
  simp [State.hatchStep, foldl_still]

@[simp] theorem State.sweepTone_still (s : State) (e : Nat) :
    (State.sweepTone s e).still = s.still := by
  simp [State.sweepTone, foldl_still]

@[simp] theorem State.fabricTick_still (s : State) : (State.fabricTick s).still = s.still := by
  unfold State.fabricTick
  split
  · rfl
  · extract_lets s1 s2
    have h1 : s1.still = s.still :=
      (foldl_still _ (by intro t i; split <;> simp) _ _).trans (by simp)
    have h2 : s2.still = s1.still := by simp only [s2]; split <;> simp
    clear_value s2
    split
    · exact (foldl_still _ (by simp) _ _).trans (h2.trans h1)
    · exact h2.trans h1

@[simp] theorem State.writeConv_still (s : State) :
    (State.writeConv s).still = s.still := by
  rfl

@[simp] theorem State.writeFab_still (s : State) :
    (State.writeFab s).still = s.still := by
  rfl

@[simp] theorem State.loadConv_still (s : State) :
    (State.loadConv s).still = s.still := by
  simp only [State.loadConv]
  (repeat' split) <;> simp [foldl_still, when]

@[simp] theorem State.cellInForce_still (s : State) (c : Nat) :
    (State.cellInForce s c).still = s.still := by
  simp only [State.cellInForce]
  (repeat' split) <;> simp

@[simp] theorem State.voaInForce_still (s : State) (p : Nat) :
    (State.voaInForce s p).still = s.still := by
  simp [State.voaInForce]

@[simp] theorem State.adoptFab_still (s : State) (body : List Byte) :
    (State.adoptFab s body).still = s.still := by
  simp [State.adoptFab, foldl_still]

@[simp] theorem State.loadFab_still (s : State) :
    (State.loadFab s).still = s.still := by
  simp only [State.loadFab]
  (repeat' split) <;> simp

@[simp] theorem State.seedGroup_still (s : State) (g : Nat) :
    (State.seedGroup s g).still = s.still := by
  simp [State.seedGroup, foldl_still]

@[simp] theorem State.applyConv_still (s : State) (n : Nat) (d : CalData) :
    (State.applyConv s n d).still = s.still := by
  simp [State.applyConv, foldl_still]

@[simp] theorem State.applyFab_still (s : State) (d : CalData) :
    (State.applyFab s d).still = s.still := by
  simp [State.applyFab, foldl_still]

@[simp] theorem State.finishRun_still (s : State) (n : Nat) (raw : CalData) :
    (State.finishRun s n raw).still = s.still := by
  simp only [State.finishRun]
  (repeat' split) <;> simp

@[simp] theorem State.calForce_still (s : State) (n : Nat) :
    (State.calForce s n).still = s.still := by
  simp only [State.calForce]
  (repeat' split) <;> simp

@[simp] theorem State.startPhase_still (s : State) (l : List Nat) :
    (State.startPhase s l).still = s.still := by
  simp [State.startPhase, foldl_still]

@[simp] theorem State.askRun_still (s : State) (n : Nat) (c : Option CmdRef) :
    (State.askRun s n c).still = s.still := by
  rfl

@[simp] theorem State.startBanks_still (s : State) :
    (State.startBanks s).still = s.still := by
  unfold State.startBanks
  rw [foldl_still]
  · intro t r
    (repeat' split) <;> simp

@[simp] theorem State.startupPhase_still (s : State) :
    (State.startupPhase s).still = s.still := by
  simp [State.startupPhase, foldl_still]

@[simp] theorem State.calBegin_still (s : State) (n : Nat) :
    (State.calBegin s n).still = s.still := by
  simp [State.calBegin]

end Sys2Proof.Machine
end

