-- ==== Sys2Proof/Laws/StillMirror.lean ====
section
/-! SUPPORT. What the operations of Machine/Mirror.lean leave alone (Laws/Still.lean). -/

namespace Sys2Proof.Machine

@[simp] theorem State.startResync_still (s : State) :
    (State.startResync s).still = s.still := by
  simp [State.startResync]

@[simp] theorem State.mirrorIn_still (s : State) (m : MirrorHdr) (act : State → State) (h : ∀ t, (act t).still = t.still) :
    (State.mirrorIn s m act).still = s.still := by
  simp only [State.mirrorIn]
  split
  · rfl
  · rw [h]
    split <;> simp

@[simp] theorem State.applyMirror_still (s : State) (img : PlateImg) (plate frame : Nat) :
    (State.applyMirror s img plate frame).still = s.still := by
  simp [State.applyMirror, foldl_still]

@[simp] theorem State.confirmTags_still (s : State) (tags : List (Nat × Nat)) (seq time : Nat) :
    (State.confirmTags s tags seq time).still = s.still := by
  simp [State.confirmTags]

@[simp] theorem State.applyNamedBy_still (s : State) (m : FrameMsg) (i : ImpressionMsg) :
    (State.applyNamedBy s m i).still = s.still := by
  simp [State.applyNamedBy]

@[simp] theorem State.applyNamed_still (s : State) :
    (State.applyNamed s).still = s.still := by
  simp only [State.applyNamed]
  (repeat' split) <;> simp

@[simp] theorem State.takeRequest_still (s : State) (m : RequestMsg) :
    (State.takeRequest s m).still = s.still := by
  simp only [State.takeRequest]
  (repeat' split) <;> simp

@[simp] theorem State.forget_still (s : State) (dom tag : Nat) :
    (State.forget s dom tag).still = s.still := by
  rfl

@[simp] theorem State.adoptProof_still (s : State) (l : List Byte) :
    (State.adoptProof s l).still = s.still := by
  rfl

@[simp] theorem State.adoptPin_still (s : State) (cell : Nat) (pin : Option Bool) :
    (State.adoptPin s cell pin).still = s.still := by
  rfl

@[simp] theorem State.dropImage_still (s : State) :
    (State.dropImage s).still = s.still := by
  simp [State.dropImage]

@[simp] theorem State.trySwapReady_still (s : State) :
    (State.trySwapReady s).still = s.still := by
  simp only [State.trySwapReady]
  (repeat' split) <;> simp

@[simp] theorem State.installImage_still (s : State) (capture : Nat) (segs : List (Nat × List Nat)) :
    (State.installImage s capture segs).still = s.still := by
  simp only [State.installImage]
  (repeat' split) <;> (try simp) <;> rw [foldl_still] <;> (try intro t x) <;> (repeat' split) <;> simp

@[simp] theorem State.imageTick_still (s : State) :
    (State.imageTick s).still = s.still := by
  first | rfl | (simp [State.imageTick, foldl_still]; done) | (simp only [State.imageTick]; (repeat' split) <;> simp [foldl_still])

@[simp] theorem State.installLoopset_still (s : State) (segs : List (Nat × List Byte)) :
    (State.installLoopset s segs).still = s.still := by
  simp [State.installLoopset, foldl_still]

@[simp] theorem State.loopsetTick_still (s : State) :
    (State.loopsetTick s).still = s.still := by
  first | rfl | (simp [State.loopsetTick, foldl_still]; done) | (simp only [State.loopsetTick]; (repeat' split) <;> simp [foldl_still])

@[simp] theorem State.sendSection_still (s : State) (id : Nat) (data : List Byte) :
    (State.sendSection s id data).still = s.still := by
  simp [State.sendSection]

@[simp] theorem State.captureImage_still (s : State) :
    (State.captureImage s).still = s.still := by
  first | rfl | (simp [State.captureImage, foldl_still]; done) | (simp only [State.captureImage]; (repeat' split) <;> simp [foldl_still])

@[simp] theorem State.captureLoopset_still (s : State) :
    (State.captureLoopset s).still = s.still := by
  first | rfl | (simp [State.captureLoopset, foldl_still]; done) | (simp only [State.captureLoopset]; (repeat' split) <;> simp [foldl_still])

@[simp] theorem State.sendCaptures_still (s : State) :
    (State.sendCaptures s).still = s.still := by
  first | rfl | (simp [State.sendCaptures, foldl_still]; done) | (simp only [State.sendCaptures]; (repeat' split) <;> simp [foldl_still])

@[simp] theorem State.sendParts_still (s : State) (id : Nat) (head data : List Byte) :
    (State.sendParts s id head data).still = s.still := by
  first | rfl | (simp [State.sendParts, foldl_still]; done) | (simp only [State.sendParts]; (repeat' split) <;> simp [foldl_still])

@[simp] theorem State.sendGrants_still (s : State) :
    (State.sendGrants s).still = s.still := by
  first | rfl | (simp [State.sendGrants, foldl_still]; done) | (simp only [State.sendGrants]; (repeat' split) <;> simp [foldl_still])

@[simp] theorem State.sendResync_still (s : State) :
    (State.sendResync s).still = s.still := by
  simp [State.sendResync, foldl_still]

@[simp] theorem State.swapWatch_still (s : State) :
    (State.swapWatch s).still = s.still := by
  first | rfl | (simp [State.swapWatch, foldl_still]; done) | (simp only [State.swapWatch]; (repeat' split) <;> simp [foldl_still])

@[simp] theorem State.swapChoose_still (s0 : State) :
    (State.swapChoose s0).still = s0.still := by
  simp only [State.swapChoose]
  (repeat' split) <;> simp

@[simp] theorem State.swapCommit_still (s : State) :
    (State.swapCommit s).still = s.still := by
  simp only [State.swapCommit]
  (repeat' split) <;> simp

@[simp] theorem State.sendFrame_still (s : State) :
    (State.sendFrame s).still = s.still := by
  simp [State.sendFrame]

@[simp] theorem State.holderTick_still (s : State) :
    (State.holderTick s).still = s.still := by
  simp [State.holderTick]

@[simp] theorem State.partnerTick_still (s : State) :
    (State.partnerTick s).still = s.still := by
  simp [State.partnerTick]

end Sys2Proof.Machine
end

