-- ==== Sys2Proof/Laws/StillModes.lean ====
section
/-! SUPPORT. What the operations of Machine/Modes.lean leave alone (Laws/Still.lean). -/

namespace Sys2Proof.Machine

@[simp] theorem State.clearChannels_still (s : State) :
    (State.clearChannels s).still = s.still := by
  first | rfl | (simp [State.clearChannels, foldl_still]; done) | (simp only [State.clearChannels]; (repeat' split) <;> simp [foldl_still])

@[simp] theorem State.clearIdle_still (old s : State) : (State.clearIdle old s).still = s.still := by
  unfold State.clearIdle
  rw [foldl_still _ (fun t i => by split <;> simp), State.clearChannels_still]

@[simp] theorem State.smoothing_still (old s : State) : (State.smoothing old s).still = s.still := by
  unfold State.smoothing
  split
  · rfl
  · exact foldl_still _ (by simp) _ _

@[simp] theorem State.takeDescriptor_still (s : State) (bytes : List Byte) : (State.takeDescriptor s bytes).still = s.still := by
  unfold State.takeDescriptor
  extract_lets first src1 src2 s1 s2
  exact (foldl_still _ (by simp) _ _).trans (by simp +zetaDelta)

@[simp] theorem State.releaseForces_still (s : State) :
    (State.releaseForces s).still = s.still := by
  simp [State.releaseForces, foldl_still]

@[simp] theorem State.dropWaiting_still (s : State) :
    (State.dropWaiting s).still = s.still := by
  rfl

@[simp] theorem State.leave_still (s : State) (m : Mode) :
    (State.leave s m).still = s.still := by
  simp [State.leave]

@[simp] theorem State.discardAll_still (s : State) (armedOnly : Bool) :
    (State.discardAll s armedOnly).still = s.still := by
  simp [State.discardAll, foldl_still]

@[simp] theorem State.enterDark_still (s : State) :
    (State.enterDark s).still = s.still := by
  simp [State.enterDark, foldl_still]

@[simp] theorem State.flashDescriptor_still (s : State) :
    (State.flashDescriptor s).still = s.still := by
  simp only [State.flashDescriptor]
  (repeat' split) <;> simp

@[simp] theorem State.firstStandby_still (s : State) :
    (State.firstStandby s).still = s.still := by
  simp [State.firstStandby]

@[simp] theorem State.enterStandby_still (s : State) :
    (State.enterStandby s).still = s.still := by
  simp [State.enterStandby]

@[simp] theorem State.enterReferee_still (s : State) :
    (State.enterReferee s).still = s.still := by
  rfl

@[simp] theorem State.enter_still (s : State) (old m : Mode) :
    (State.enter s old m).still = s.still := by
  simp only [State.enter]
  (repeat' split) <;> simp

@[simp] theorem State.modeAnswer_still (s : State) (c : CmdRef) (persist : Bool) :
    (State.modeAnswer s c persist).still = s.still := by
  simp [State.modeAnswer]

@[simp] theorem State.modeAccept_still (s : State) (c : CmdRef) (m : Mode) (persist : Bool) :
    (State.modeAccept s c m persist).still = s.still := by
  rfl

@[simp] theorem State.setMode_still (s : State) (c : CmdRef) (m : Mode) (persist force : Bool) :
    (State.setMode s c m persist force).still = s.still := by
  simp [State.setMode]

@[simp] theorem State.modeDone_still (s : State) (c : CmdRef) :
    (State.modeDone s c).still = s.still := by
  simp [State.modeDone]

@[simp] theorem State.modeLost_still (s : State) (c : CmdRef) :
    (State.modeLost s c).still = s.still := by
  simp [State.modeLost]

@[simp] theorem State.dropMode_still (s : State) (o : TickOp) :
    (State.dropMode s o).still = s.still := by
  simp only [State.dropMode]
  (repeat' split) <;> simp

@[simp] theorem State.endProofs_still (s : State) :
    (State.endProofs s).still = s.still := by
  have h0 : ∀ (u : State) (l : List ProofRec), ({ u with imp := { u.imp with records := l } } : State).still = u.still := fun _ _ => rfl
  unfold State.endProofs
  extract_lets src s1 s2 l1 l2 s3 s4
  refine (h0 s4 _).trans ?_
  have h3 : s3.still = s.still := by
    show (s2.endAwaiting (l1 ++ l2) 0).still = _
    rw [State.endAwaiting_still]
    exact foldl_still _ (fun t x => by simp) _ s1
  have h4 : s4.still = s3.still := by
    refine foldl_still _ (fun t x => ?_) _ _
    split
    · exact foldl_still _ (fun t x => by simp) _ _
    · rfl
  rw [h4, h3]

@[simp] theorem State.regrant_still (s : State) :
    (State.regrant s).still = s.still := by
  simp [State.regrant]

@[simp] theorem State.rearm_still (s : State) :
    (State.rearm s).still = s.still := by
  simp [State.rearm, foldl_still]

@[simp] theorem State.rewriteCpls_still (s : State) :
    (State.rewriteCpls s).still = s.still := by
  simp [State.rewriteCpls, foldl_still]

@[simp] theorem State.recount_still (s : State) :
    (State.recount s).still = s.still := by
  simp [State.recount, foldl_still]

end Sys2Proof.Machine
end

