-- ==== Sys2Proof/Laws/StillFirmware.lean ====
section
/-! SUPPORT. What the operations of Machine/Firmware.lean leave alone (Laws/Still.lean). -/

namespace Sys2Proof.Machine

@[simp] theorem State.releaseLease_still (s : State) :
    (State.releaseLease s).still = s.still := by
  simp [State.releaseLease]

@[simp] theorem State.runImage_still (s : State) (b : Bool) :
    (State.runImage s b).still = s.still := by
  rfl

@[simp] theorem State.loadPolicy_still (s : State) :
    (State.loadPolicy s).still = s.still := by
  simp [State.loadPolicy]

@[simp] theorem State.bootSelect_still (s : State) :
    (State.bootSelect s).still = s.still := by
  simp only [State.bootSelect]
  (repeat' split) <;> simp

@[simp] theorem State.repeatBoot_still (s : State) :
    (State.repeatBoot s).still = s.still := by
  simp [State.repeatBoot]

@[simp] theorem State.startRestart_still (s : State) :
    (State.startRestart s).still = s.still := by
  simp [State.startRestart]

@[simp] theorem State.tryActivate_still (s : State) :
    (State.tryActivate s).still = s.still := by
  simp only [State.tryActivate]
  (repeat' split) <;> simp

@[simp] theorem State.dropBuffers_still (s : State) :
    (State.dropBuffers s).still = s.still := by
  rfl

@[simp] theorem State.deliverLate_still (s : State) :
    (State.deliverLate s).still = s.still := by
  simp [State.deliverLate, foldl_still]

@[simp] theorem State.endRestart_still (s : State) :
    (State.endRestart s).still = s.still := by
  simp only [State.endRestart]
  (repeat' split) <;> simp [foldl_still, when]

end Sys2Proof.Machine
end

