-- ==== Sys2Proof/Laws/StillHdma.lean ====
section
/-! SUPPORT. What the operations of Machine/Hdma.lean leave alone (Laws/Still.lean). -/

namespace Sys2Proof.Machine

@[simp] theorem State.setXfer_still (s : State) (x : Xfer) :
    (State.setXfer s x).still = s.still := by
  rfl

@[simp] theorem State.dropXfer_still (s : State) (id : Nat) :
    (State.dropXfer s id).still = s.still := by
  rfl

@[simp] theorem State.xlateFault_still (s : State) (x : Xfer) (reason iova : Nat) :
    (State.xlateFault s x reason iova).still = s.still := by
  simp only [State.xlateFault]
  (repeat' split) <;> simp

@[simp] theorem State.writeDone_still (s : State) (x : Xfer) :
    (State.writeDone s x).still = s.still := by
  simp only [State.writeDone]
  (repeat' split) <;> simp

@[simp] theorem State.issue_still (s : State) (x : Xfer) (addr n : Nat) :
    (State.issue s x addr n).still = s.still := by
  simp [State.issue]

@[simp] theorem State.burstIn_still (s : State) (x : Xfer) (mode : Nat) :
    (State.burstIn s x mode).still = s.still := by
  simp only [State.burstIn]
  (repeat' split) <;> simp

@[simp] theorem State.burst_still (s : State) (x : Xfer) : (State.burst s x).still = s.still := by
  unfold State.burst
  extract_lets mode f
  have h : f.2.still = s.still := by simp [f, State.fresh]
  clear_value f
  split <;> simp [h]

@[simp] theorem State.walkLeaf_still (s : State) (dom : Nat) (w : Walk) (a : Nat) :
    (State.walkLeaf s dom w a).still = s.still := by
  first | rfl | (simp [State.walkLeaf, foldl_still]; done) | (simp only [State.walkLeaf]; (repeat' split) <;> simp [foldl_still])

@[simp] theorem State.invalidate_still (s : State) (d : Nat) (all : Bool) (page n : Nat) :
    (State.invalidate s d all page n).still = s.still := by
  rfl

@[simp] theorem State.abortUse_still (s : State) (u : BufUse) :
    (State.abortUse s u).still = s.still := by
  simp only [State.abortUse]
  (repeat' split) <;> simp

@[simp] theorem State.resume_still (s : State) (d : Nat) (abort : Bool) :
    (State.resume s d abort).still = s.still := by
  simp only [State.resume]
  (repeat' split) <;> (try simp) <;> rw [foldl_still] <;> (try intro t x) <;> (repeat' split) <;> simp

@[simp] theorem State.sendPending_still (s : State) (n v : Nat) :
    (State.sendPending s n v).still = s.still := by
  simp [State.sendPending]

@[simp] theorem State.ackRsp_still (s : State) (n value : Nat) :
    (State.ackRsp s n value).still = s.still := by
  simp only [State.ackRsp]
  (repeat' split) <;> simp

@[simp] theorem State.clearEv_still (s : State) (n word value : Nat) :
    (State.clearEv s n word value).still = s.still := by
  rfl

@[simp] theorem State.frameMessages_still (s : State) :
    (State.frameMessages s).still = s.still := by
  simp [State.frameMessages, foldl_still]

@[simp] theorem State.busFlush_still (s : State) (p : PortWrite → Bool) (ids : Nat → Bool) :
    (State.busFlush s p ids).still = s.still := by
  first | rfl | (simp [State.busFlush, foldl_still]; done) | (simp only [State.busFlush]; (repeat' split) <;> simp [foldl_still])

@[simp] theorem State.freeBuffers_still (s : State) (n : Nat) :
    (State.freeBuffers s n).still = s.still := by
  unfold State.freeBuffers
  exact foldl_still _ (fun t x => by split <;> simp) _ _

@[simp] theorem State.resetFn_still (s : State) (n : Nat) :
    (State.resetFn s n).still = s.still := by
  simp [State.resetFn, foldl_still]

@[simp] theorem State.dropVfs_still (s : State) :
    (State.dropVfs s).still = s.still := by
  simp [State.dropVfs, foldl_still]

@[simp] theorem State.resetPf_still (s : State) :
    (State.resetPf s).still = s.still := by
  simp [State.resetPf]

@[simp] theorem State.paCommit_still (s : State) (value : Nat) :
    (State.paCommit s value).still = s.still := by
  simp [State.paCommit]

@[simp] theorem State.readPcCycle_still (s : State) :
    (State.readPcCycle s).still = s.still := by
  rfl

@[simp] theorem State.readCount_still (s : State) (n : Nat) :
    (State.readCount s n).still = s.still := by
  rfl

end Sys2Proof.Machine
end

