-- ==== Sys2Proof/Laws/StillOperands.lean ====
section
/-! SUPPORT. What the operations of Machine/Operands.lean leave alone (Laws/Still.lean). -/

namespace Sys2Proof.Machine

@[simp] theorem State.keepCmd_still (s : State) (op : Nat) (m : MbCmd) :
    (State.keepCmd s op m).still = s.still := by
  simp only [State.keepCmd]
  (repeat' split) <;> simp

@[simp] theorem State.take_still (s : State) (c : CmdRef) :
    (State.take s c).still = s.still := by
  simp only [State.take]
  (repeat' split) <;> simp

theorem State.judged_still (s : State) (c : CmdRef) (r : Rules) (act : State → State) (h : ∀ t, (act t).still = t.still) :
    (State.judged s c r act).still = s.still := by
  simp only [State.judged]
  (repeat' split) <;> simp [h]

theorem State.command_still (s : State) (op : Nat) (m : MbCmd) (rules : State → Rules) (act : CmdRef → State → State)
    (h : ∀ c t, (act c t).still = t.still) : (State.command s op m rules act).still = s.still := by
  simp only [State.command]
  (repeat' split) <;> simp [State.judged_still _ _ _ _ (h _)]

@[simp] theorem State.bufferOut_still (s : State) (c : CmdRef) (iova : Nat) (data : List Byte) (payload : List (Nat × Nat)) :
    (State.bufferOut s c iova data payload).still = s.still := by
  simp [State.bufferOut]

@[simp] theorem State.bufferIn_still (s : State) (c : CmdRef) (m : MbCmd) (u : BufUse) (urgent : Bool) :
    (State.bufferIn s c m u urgent).still = s.still := by
  rfl

@[simp] theorem State.dueNow_still (s : State) (c : CmdRef) (o : TickOp) (payload : List (Nat × Nat)) :
    (State.dueNow s c o payload).still = s.still := by
  simp [State.dueNow]

@[simp] theorem State.dueThen_still (s : State) (c : CmdRef) (o : TickOp) :
    (State.dueThen s c o).still = s.still := by
  rfl

end Sys2Proof.Machine
end

