-- ==== Sys2Proof/Laws/StillMailPlates.lean ====
section
/-! SUPPORT. What the operations of Machine/MailPlates.lean leave alone (Laws/Still.lean). -/

namespace Sys2Proof.Machine

@[simp] theorem State.getInfo_still (m : MbCmd) (s : State) :
    (State.getInfo m s).still = s.still := by
  simp only [State.getInfo]
  refine State.command_still _ _ _ _ _ (fun c t => ?_)
  (repeat' split) <;> simp [foldl_still]

@[simp] theorem State.getHealth_still (m : MbCmd) (s : State) :
    (State.getHealth m s).still = s.still := by
  simp only [State.getHealth]
  refine State.command_still _ _ _ _ _ (fun c t => ?_)
  (repeat' split) <;> simp [foldl_still]

@[simp] theorem State.setModeCmd_still (m : MbCmd) (s : State) :
    (State.setModeCmd m s).still = s.still := by
  simp only [State.setModeCmd]
  refine State.command_still _ _ _ _ _ (fun c t => ?_)
  (repeat' split) <;> simp [foldl_still]

@[simp] theorem State.loadDescriptor_still (m : MbCmd) (s : State) :
    (State.loadDescriptor m s).still = s.still := by
  simp only [State.loadDescriptor]
  refine State.command_still _ _ _ _ _ (fun c t => ?_)
  (repeat' split) <;> simp [foldl_still]

@[simp] theorem State.readDescriptor_still (m : MbCmd) (s : State) :
    (State.readDescriptor m s).still = s.still := by
  simp only [State.readDescriptor]
  refine State.command_still _ _ _ _ _ (fun c t => ?_)
  (repeat' split) <;> simp [foldl_still]

@[simp] theorem State.plateWrite_still (m : MbCmd) (s : State) :
    (State.plateWrite m s).still = s.still := by
  simp only [State.plateWrite]
  refine State.command_still _ _ _ _ _ (fun c t => ?_)
  (repeat' split) <;> simp [foldl_still]

@[simp] theorem State.plateRead_still (m : MbCmd) (s : State) :
    (State.plateRead m s).still = s.still := by
  simp only [State.plateRead]
  refine State.command_still _ _ _ _ _ (fun c t => ?_)
  (repeat' split) <;> simp [foldl_still]

@[simp] theorem State.submit_still (s : State) (c : CmdRef) (dest base : Nat) (delta : Option (List Change)) :
    (State.submit s c dest base delta).still = s.still := by
  simp [State.submit]

@[simp] theorem State.plateRoute_still (m : MbCmd) (s : State) :
    (State.plateRoute m s).still = s.still := by
  simp only [State.plateRoute]
  refine State.command_still _ _ _ _ _ (fun c t => ?_)
  (repeat' split) <;> simp [foldl_still]

theorem State.judgeChanges_still (s : State) (c : CmdRef) (l : List Change) (act : State → State) (h : ∀ t, (act t).still = t.still) :
    (State.judgeChanges s c l act).still = s.still := by
  simp only [State.judgeChanges]
  (repeat' split) <;> simp [h]

@[simp] theorem State.plateRouteDelta_still (m : MbCmd) (s : State) :
    (State.plateRouteDelta m s).still = s.still := by
  simp only [State.plateRouteDelta]
  refine State.command_still _ _ _ _ _ (fun c t => ?_)
  (repeat' split) <;> simp [foldl_still]

@[simp] theorem State.armImpress_still (s : State) (c : CmdRef) (plate trigger time : Nat) (strict : Bool) :
    (State.armImpress s c plate trigger time strict).still = s.still := by
  simp [State.armImpress]

@[simp] theorem State.impress_still (m : MbCmd) (s : State) :
    (State.impress m s).still = s.still := by
  simp only [State.impress]
  refine State.command_still _ _ _ _ _ (fun c t => ?_)
  (repeat' split) <;> simp [foldl_still]

@[simp] theorem State.proofRead_still (m : MbCmd) (s : State) :
    (State.proofRead m s).still = s.still := by
  simp only [State.proofRead]
  refine State.command_still _ _ _ _ _ (fun c t => ?_)
  (repeat' split) <;> simp [foldl_still]

end Sys2Proof.Machine
end

