-- ==== Sys2Proof/Laws/StillMailSched.lean ====
section
/-! SUPPORT. What the operations of Machine/MailSched.lean leave alone (Laws/Still.lean). -/

namespace Sys2Proof.Machine

@[simp] theorem State.slotWrite_still (m : MbCmd) (s : State) :
    (State.slotWrite m s).still = s.still := by
  simp only [State.slotWrite]
  refine State.command_still _ _ _ _ _ (fun c t => ?_)
  (repeat' split) <;> simp [foldl_still]

@[simp] theorem State.slotSwapCmd_still (m : MbCmd) (s : State) :
    (State.slotSwapCmd m s).still = s.still := by
  simp only [State.slotSwapCmd]
  refine State.command_still _ _ _ _ _ (fun c t => ?_)
  (repeat' split) <;> simp [foldl_still]

@[simp] theorem State.gateConfig_still (m : MbCmd) (s : State) :
    (State.gateConfig m s).still = s.still := by
  simp only [State.gateConfig]
  refine State.command_still _ _ _ _ _ (fun c t => ?_)
  (repeat' split) <;> simp [foldl_still]

@[simp] theorem State.domainConfig_still (m : MbCmd) (s : State) :
    (State.domainConfig m s).still = s.still := by
  simp only [State.domainConfig]
  refine State.command_still _ _ _ _ _ (fun c t => ?_)
  (repeat' split) <;> simp [foldl_still]

@[simp] theorem State.queueConfig_still (m : MbCmd) (s : State) :
    (State.queueConfig m s).still = s.still := by
  simp only [State.queueConfig]
  refine State.command_still _ _ _ _ _ (fun c t => ?_)
  (repeat' split) <;> simp [foldl_still]

@[simp] theorem State.queueReset_still (m : MbCmd) (s : State) :
    (State.queueReset m s).still = s.still := by
  simp only [State.queueReset]
  refine State.command_still _ _ _ _ _ (fun c t => ?_)
  (repeat' split) <;> simp [foldl_still]

end Sys2Proof.Machine
end

