-- ==== Sys2Proof/Laws/StillMailChannels.lean ====
section
/-! SUPPORT. What the operations of Machine/MailChannels.lean leave alone (Laws/Still.lean). -/

namespace Sys2Proof.Machine

@[simp] theorem State.loopConfig_still (m : MbCmd) (s : State) :
    (State.loopConfig m s).still = s.still := by
  simp only [State.loopConfig]
  refine State.command_still _ _ _ _ _ (fun c t => ?_)
  (repeat' split) <;> simp [foldl_still]

@[simp] theorem State.loopReadCmd_still (m : MbCmd) (s : State) :
    (State.loopReadCmd m s).still = s.still := by
  simp only [State.loopReadCmd]
  refine State.command_still _ _ _ _ _ (fun c t => ?_)
  (repeat' split) <;> simp [foldl_still]

@[simp] theorem State.toneAssign_still (m : MbCmd) (s : State) :
    (State.toneAssign m s).still = s.still := by
  simp only [State.toneAssign]
  refine State.command_still _ _ _ _ _ (fun c t => ?_)
  (repeat' split) <;> simp [foldl_still]

@[simp] theorem State.hatchLoad_still (m : MbCmd) (s : State) :
    (State.hatchLoad m s).still = s.still := by
  simp only [State.hatchLoad]
  refine State.command_still _ _ _ _ _ (fun c t => ?_)
  (repeat' split) <;> simp [foldl_still]

@[simp] theorem State.clearSticky_still (s : State) (i : Nat) :
    (State.clearSticky s i).still = s.still := by
  rfl

@[simp] theorem State.capture_still (s : State) (c : CmdRef) (m : MbCmd) :
    (State.capture s c m).still = s.still := by
  simp [State.capture]

@[simp] theorem State.channelRead_still (m : MbCmd) (s : State) :
    (State.channelRead m s).still = s.still := by
  simp only [State.channelRead]
  refine State.command_still _ _ _ _ _ (fun c t => ?_)
  (repeat' split) <;> simp [foldl_still]

@[simp] theorem State.force_still (s : State) (i code : Nat) :
    (State.force s i code).still = s.still := by
  simp [State.force]

@[simp] theorem State.unforce_still (s : State) (i : Nat) :
    (State.unforce s i).still = s.still := by
  simp [State.unforce]

@[simp] theorem State.channelForce_still (m : MbCmd) (s : State) :
    (State.channelForce m s).still = s.still := by
  simp only [State.channelForce]
  refine State.command_still _ _ _ _ _ (fun c t => ?_)
  (repeat' split) <;> simp [foldl_still]

@[simp] theorem State.channelRetire_still (m : MbCmd) (s : State) :
    (State.channelRetire m s).still = s.still := by
  simp only [State.channelRetire]
  refine State.command_still _ _ _ _ _ (fun c t => ?_)
  (repeat' split) <;> simp [foldl_still]

@[simp] theorem State.channelRestore_still (m : MbCmd) (s : State) :
    (State.channelRestore m s).still = s.still := by
  simp only [State.channelRestore]
  refine State.command_still _ _ _ _ _ (fun c t => ?_)
  (repeat' split) <;> simp [foldl_still]

end Sys2Proof.Machine
end

