-- ==== Sys2Proof/Laws/StillMailCal.lean ====
section
/-! SUPPORT. What the operations of Machine/MailCal.lean leave alone (Laws/Still.lean). -/

namespace Sys2Proof.Machine

@[simp] theorem State.calRun_still (m : MbCmd) (s : State) :
    (State.calRun m s).still = s.still := by
  simp only [State.calRun]
  refine State.command_still _ _ _ _ _ (fun c t => ?_)
  (repeat' split) <;> simp [foldl_still]

@[simp] theorem State.calStatus_still (m : MbCmd) (s : State) :
    (State.calStatus m s).still = s.still := by
  simp only [State.calStatus]
  refine State.command_still _ _ _ _ _ (fun c t => ?_)
  (repeat' split) <;> simp [foldl_still]

@[simp] theorem State.calPolicy_still (m : MbCmd) (s : State) :
    (State.calPolicy m s).still = s.still := by
  simp only [State.calPolicy]
  refine State.command_still _ _ _ _ _ (fun c t => ?_)
  (repeat' split) <;> simp [foldl_still]

@[simp] theorem State.askStep_still (s : State) (c : CmdRef) (absolute : Option Nat) (offset : Int) :
    (State.askStep s c absolute offset).still = s.still := by
  simp [State.askStep]

@[simp] theorem State.timeConfig_still (m : MbCmd) (s : State) :
    (State.timeConfig m s).still = s.still := by
  simp only [State.timeConfig]
  refine State.command_still _ _ _ _ _ (fun c t => ?_)
  (repeat' split) <;> simp [foldl_still]

@[simp] theorem State.timeStatus_still (m : MbCmd) (s : State) :
    (State.timeStatus m s).still = s.still := by
  simp only [State.timeStatus]
  refine State.command_still _ _ _ _ _ (fun c t => ?_)
  (repeat' split) <;> simp [foldl_still]

end Sys2Proof.Machine
end

