-- ==== Sys2Proof/Laws/StillMailPair.lean ====
section
/-! SUPPORT. What the operations of Machine/MailPair.lean leave alone (Laws/Still.lean). -/

namespace Sys2Proof.Machine

@[simp] theorem State.pairConfig_still (m : MbCmd) (s : State) :
    (State.pairConfig m s).still = s.still := by
  simp only [State.pairConfig]
  refine State.command_still _ _ _ _ _ (fun c t => ?_)
  (repeat' split) <;> simp [foldl_still]

@[simp] theorem State.pairStatus_still (m : MbCmd) (s : State) :
    (State.pairStatus m s).still = s.still := by
  simp only [State.pairStatus]
  refine State.command_still _ _ _ _ _ (fun c t => ?_)
  (repeat' split) <;> simp [foldl_still]

@[simp] theorem State.pairSwap_still (m : MbCmd) (s : State) :
    (State.pairSwap m s).still = s.still := by
  simp only [State.pairSwap]
  refine State.command_still _ _ _ _ _ (fun c t => ?_)
  (repeat' split) <;> simp [foldl_still]

@[simp] theorem State.refereeConfig_still (m : MbCmd) (s : State) :
    (State.refereeConfig m s).still = s.still := by
  simp only [State.refereeConfig]
  refine State.command_still _ _ _ _ _ (fun c t => ?_)
  (repeat' split) <;> simp [foldl_still]

@[simp] theorem State.fwActivate_still (m : MbCmd) (s : State) :
    (State.fwActivate m s).still = s.still := by
  simp only [State.fwActivate]
  refine State.command_still _ _ _ _ _ (fun c t => ?_)
  (repeat' split) <;> simp [foldl_still]

@[simp] theorem State.fuseRead_still (m : MbCmd) (s : State) :
    (State.fuseRead m s).still = s.still := by
  simp only [State.fuseRead]
  refine State.command_still _ _ _ _ _ (fun c t => ?_)
  (repeat' split) <;> simp [foldl_still]

@[simp] theorem State.fuseProgram_still (m : MbCmd) (s : State) :
    (State.fuseProgram m s).still = s.still := by
  simp only [State.fuseProgram]
  refine State.command_still _ _ _ _ _ (fun c t => ?_)
  (repeat' split) <;> simp [foldl_still]

@[simp] theorem State.eventConfig_still (m : MbCmd) (s : State) :
    (State.eventConfig m s).still = s.still := by
  simp only [State.eventConfig]
  refine State.command_still _ _ _ _ _ (fun c t => ?_)
  (repeat' split) <;> simp [foldl_still]

@[simp] theorem State.faultLogRead_still (m : MbCmd) (s : State) :
    (State.faultLogRead m s).still = s.still := by
  simp only [State.faultLogRead]
  refine State.command_still _ _ _ _ _ (fun c t => ?_)
  (repeat' split) <;> simp [foldl_still]

@[simp] theorem State.perfConfig_still (m : MbCmd) (s : State) :
    (State.perfConfig m s).still = s.still := by
  simp only [State.perfConfig]
  refine State.command_still _ _ _ _ _ (fun c t => ?_)
  (repeat' split) <;> simp [foldl_still]

@[simp] theorem State.setTranslation_still (s : State) (d mode limit base : Nat) :
    (State.setTranslation s d mode limit base).still = s.still := by
  simp [State.setTranslation]

@[simp] theorem State.xlateConfig_still (m : MbCmd) (s : State) :
    (State.xlateConfig m s).still = s.still := by
  simp only [State.xlateConfig]
  refine State.command_still _ _ _ _ _ (fun c t => ?_)
  (repeat' split) <;> simp [foldl_still]

@[simp] theorem State.xlateResume_still (m : MbCmd) (s : State) :
    (State.xlateResume m s).still = s.still := by
  simp only [State.xlateResume]
  refine State.command_still _ _ _ _ _ (fun c t => ?_)
  (repeat' split) <;> simp [foldl_still]

end Sys2Proof.Machine
end

