-- ==== Sys2Proof/Laws/StillMailbox.lean ====
section
/-! SUPPORT. What the operations of Machine/Mailbox.lean leave alone (Laws/Still.lean). -/

namespace Sys2Proof.Machine

@[simp] theorem State.unknownOpcode_still (op : Nat) (m : MbCmd) (s : State) :
    (State.unknownOpcode op m s).still = s.still := by
  simp only [State.unknownOpcode]
  refine State.command_still _ _ _ _ _ (fun c t => ?_)
  (repeat' split) <;> simp [foldl_still]

@[simp] theorem State.startFuses_still (s : State) (c : CmdRef) (l : List Byte) :
    (State.startFuses s c l).still = s.still := by
  simp [State.startFuses]

@[simp] theorem State.noteRead_still (s : State) (c : CmdRef) (n : Nat) :
    (State.noteRead s c n).still = s.still := by
  rfl

end Sys2Proof.Machine
end

