-- ==== Sys2Proof/Laws/StillRegisters.lean ====
section
/-! SUPPORT. What the operations of Machine/Registers.lean leave alone (Laws/Still.lean). -/

namespace Sys2Proof.Machine

@[simp] theorem State.readFlashStatus_still (s : State) :
    (State.readFlashStatus s).still = s.still := by
  simp [State.readFlashStatus]

@[simp] theorem State.readOvf_still (s : State) (n : Nat) :
    (State.readOvf s n).still = s.still := by
  rfl

@[simp] theorem State.readBar0_still (s : State) (n o : Nat) :
    (State.readBar0 s n o).still = s.still := by
  first | rfl | (simp [State.readBar0, foldl_still]; done) | (simp only [State.readBar0]; (repeat' split) <;> simp [foldl_still])

@[simp] theorem State.readConfig_still (s : State) (n : Nat) (f : CfgField) :
    (State.readConfig s n f).still = s.still := by
  first | rfl | (simp [State.readConfig, foldl_still]; done) | (simp only [State.readConfig]; (repeat' split) <;> simp [foldl_still])

@[simp] theorem State.writeCmd_still (s : State) (n word value : Nat) :
    (State.writeCmd s n word value).still = s.still := by
  rfl

@[simp] theorem State.writeMsix_still (s : State) (n v word value : Nat) :
    (State.writeMsix s n v word value).still = s.still := by
  simp [State.writeMsix]

@[simp] theorem State.writeShadow_still (s : State) (k value : Nat) :
    (State.writeShadow s k value).still = s.still := by
  rfl

@[simp] theorem State.plateWord_still (s : State) (a : Nat) :
    (State.plateWord s a).still = s.still := by
  simp [State.plateWord]

@[simp] theorem State.debugRead_still (s : State) (t : BusTarget) (a : Nat) :
    (State.debugRead s t a).still = s.still := by
  cases t <;> simp only [State.debugRead] <;> first | rfl | (simp; done) | (split <;> simp)

@[simp] theorem State.tcmWrite_still (s : State) (a value : Nat) :
    (State.tcmWrite s a value).still = s.still := by
  rfl

end Sys2Proof.Machine
end

