-- ==== Sys2Proof/Laws/StillFrame.lean ====
section
/-! SUPPORT. What the operations of Machine/Frame.lean leave alone (Laws/Still.lean). -/

namespace Sys2Proof.Machine

@[simp] theorem State.thresholds_still (s : State) (word value : Nat) :
    (State.thresholds s word value).still = s.still := by
  rfl

@[simp] theorem State.loopItem_still (s : State) (item size offset v v2 i : Nat) :
    (State.loopItem s item size offset v v2 i).still = s.still := by
  simp [State.loopItem]

@[simp] theorem State.rangeItem_still (s : State) (c : CmdRef) (v i : Nat) :
    (State.rangeItem s c v i).still = s.still := by
  simp [State.rangeItem]

@[simp] theorem State.hatchRows_still (s : State) (first : Nat) (bytes : List Byte) :
    (State.hatchRows s first bytes).still = s.still := by
  rfl

@[simp] theorem State.perfItem_still (s : State) (n ctl threshold : Nat) (clear : Bool) :
    (State.perfItem s n ctl threshold clear).still = s.still := by
  rfl

@[simp] theorem State.descriptorOp_still (s : State) (c : CmdRef) (persist : Bool) (bytes : List Byte) :
    (State.descriptorOp s c persist bytes).still = s.still := by
  simp only [State.descriptorOp]
  (repeat' split) <;> (try simp) <;> rw [foldl_still] <;> (try intro t x) <;> (repeat' split) <;> simp

@[simp] theorem State.tiaStep_still (s : State) (x range : Nat) :
    (State.tiaStep s x range).still = s.still := by
  simp [State.tiaStep]

@[simp] theorem State.startCopy_still (s : State) (c : CmdRef) (iova plate offset len : Nat) :
    (State.startCopy s c iova plate offset len).still = s.still := by
  rfl

@[simp] theorem State.retireFor_still (s : State) (kind index reason : Nat) :
    (State.retireFor s kind index reason).still = s.still := by
  first | rfl | (simp [State.retireFor, foldl_still]; done) | (simp only [State.retireFor]; (repeat' split) <;> simp [foldl_still])

@[simp] theorem State.eccError_still (s : State) (e : EccError) :
    (State.eccError s e).still = s.still := by
  first | rfl | (simp [State.eccError, foldl_still]; done) | (simp only [State.eccError]; (repeat' split) <;> simp [foldl_still])

@[simp] theorem State.lateOp_still (s : State) (o : TickOp) :
    (State.lateOp s o).still = s.still := by
  simp only [State.lateOp]
  (repeat' split) <;> simp [foldl_still, when]

@[simp] theorem State.commit_still (s : State) :
    (State.commit s).still = s.still := by
  simp [State.commit]

@[simp] theorem State.endFrame_still (s : State) :
    (State.endFrame s).still = s.still := by
  simp [State.endFrame]

@[simp] theorem State.takeDue_still (s : State) :
    (State.takeDue s).still = s.still := by
  rfl

@[simp] theorem State.tickCodes_still (s : State) :
    (State.tickCodes s).still = s.still := by
  simp [State.tickCodes]

@[simp] theorem State.tickUnits_still (s : State) (inp : TickIn) (k : Nat) :
    (State.tickUnits s inp k).still = s.still := by
  simp [State.tickUnits]

end Sys2Proof.Machine
end

