-- ==== Sys2Proof/Laws/Keeps.lean ====
section
/-! SUPPORT. What no command breaks (`Keeps`), and what a command that is no tick and no reset leaves as it is besides (`Calm`),
as relations of the part of the state that `State.still` reads; the lemmas of the operations that touch that part. -/

namespace Sys2Proof.Machine

/-- No command takes from the queue, clears a fuse, or breaks the canonical form of a byte store; the lines stay open without
a lease (R94). -/
structure Keeps (x y : Still) : Prop where
  pending : y.pending = x.pending
  fuses : ∀ k, x.fuses.getLsbD k = true → y.fuses.getLsbD k = true
  flash : Mem.wf flashDefault x.flash = true → Mem.wf flashDefault y.flash = true
  store : Mem.wf plateDefault x.store = true → Mem.wf plateDefault y.store = true
  recovery : Mem.wf 0 x.recovery = true → Mem.wf 0 y.recovery = true
  closed : (x.closed = true → x.held = true) → y.closed = true → y.held = true

/-- The frame and the mode stay too. -/
structure Calm (x y : Still) : Prop extends Keeps x y where
  frame : y.frame = x.frame
  mode : y.mode = x.mode

/-- What holds of the next state, where there is one. -/
def Lands (P : State → Prop) (o : Host.Outcome State Fault Refusal) : Prop :=
  match o with
  | .next t => P t
  | _ => True

@[simp] theorem lands_next (P : State → Prop) (t : State) : Lands P (.next t) = P t := rfl
@[simp] theorem lands_fault (P : State → Prop) (r : Fault) : Lands P (.fault r) = True := rfl
@[simp] theorem lands_refused (P : State → Prop) (r : Refusal) : Lands P (.refused r) = True := rfl

@[simp] theorem Keeps.refl (x : Still) : Keeps x x := ⟨rfl, fun _ h => h, id, id, id, id⟩
@[simp] theorem Calm.refl (x : Still) : Calm x x := ⟨.refl x, rfl, rfl⟩

theorem Keeps.trans {x y z : Still} (h : Keeps x y) (g : Keeps y z) : Keeps x z :=
  ⟨g.pending.trans h.pending, fun k w => g.fuses k (h.fuses k w), fun w => g.flash (h.flash w), fun w => g.store (h.store w),
   fun w => g.recovery (h.recovery w), fun w => g.closed (h.closed w)⟩

theorem Calm.trans {x y z : Still} (h : Calm x y) (g : Calm y z) : Calm x z :=
  ⟨h.toKeeps.trans g.toKeeps, g.frame.trans h.frame, g.mode.trans h.mode⟩

theorem Calm.of_still {x y : Still} (h : y = x) : Calm x y := h ▸ .refl x

theorem foldl_calm {α : Type} (f : State → α → State) (h : ∀ t x, Calm t.still (f t x).still) (l : List α) (s : State) :
    Calm s.still (l.foldl f s).still := by
  induction l generalizing s with
  | nil => exact .refl _
  | cons x r ih => exact (h s x).trans (ih _)

theorem foldl_keeps {α : Type} (f : State → α → State) (h : ∀ t x, Keeps t.still (f t x).still) (l : List α) (s : State) :
    Keeps s.still (l.foldl f s).still := by
  induction l generalizing s with
  | nil => exact .refl _
  | cons x r ih => exact (h s x).trans (ih _)

theorem State.flashWrite_calm (s : State) (a : Nat) (l : List Byte) : Calm s.still (s.flashWrite a l).still :=
  ⟨⟨rfl, fun _ h => h, Mem.wf_store _ _ _ _, id, id, id⟩, rfl, rfl⟩

theorem State.writePlate_calm (s : State) (p off : Nat) (l : List Byte) : Calm s.still (s.writePlate p off l).still :=
  ⟨⟨rfl, fun _ h => h, id, Mem.wf_store _ _ _ _, id, id⟩, rfl, rfl⟩

@[simp] theorem State.mirrorPlateOf_still (s : State) (p f off : Nat) (l : List Byte) :
    (s.mirrorPlateOf p f off l).still = s.still := by
  induction f generalizing s off l with
  | zero => rfl
  | succ n ih =>
    unfold State.mirrorPlateOf
    split
    · rfl
    · rw [ih]; simp

theorem State.storePlate_calm (s : State) (p off : Nat) (l : List Byte) : Calm s.still (s.storePlate p off l).still := by
  have h := State.writePlate_calm (s.latchReads p) p off l
  simp only [State.storePlate, State.tally_still, State.mirrorPlateOf_still]
  simpa using h

theorem State.portWrite_calm (s : State) (r p off : Nat) (l : List Byte) (job : Option Nat) :
    Calm s.still (s.portWrite r p off l job).still := by
  unfold State.portWrite
  extract_lets id
  split
  · exact .of_still rfl
  · have h := State.storePlate_calm (s.portDecision r) p off l
    simpa using h

theorem State.writeRoute_calm (s : State) (r : Running) (res : Routed) (g : Geo) : Calm s.still (s.writeRoute r res g).still :=
  foldl_calm _ (fun t (w : Nat × List Byte) => t.portWrite_calm 5 r.job.dest w.1 w.2 none) _ _

theorem Calm.opens {x y : Still} (h : { y with closed := x.closed, held := x.held } = x) (hc : y.closed = false) : Calm x y := by
  obtain ⟨a, b, c, d, e, f, g, i, j⟩ := x
  obtain ⟨a', b', c', d', e', f', g', i', j'⟩ := y
  simp only [Still.mk.injEq] at h hc
  obtain ⟨rfl, rfl, rfl, rfl, rfl, rfl, rfl, -⟩ := h
  exact ⟨⟨rfl, fun _ h => h, id, id, id, fun _ h => by simp_all⟩, rfl, rfl⟩

theorem State.endLease_calm (s : State) (lapse event : Bool) : Calm s.still (s.endLease lapse event).still := by
  unfold State.endLease
  split
  · exact .refl _
  · extract_lets target src s1 s2 srcp srcm srcd s3 s4
    have h1 : s1.still = s.still := rfl
    have h2 : s2.still = s.still := (State.endCommands_still _).trans h1
    have h4 : s4.still = s3.still := by
      show (if _ then _ else _ : State).still = _
      split <;> simp
    have h5 : ((if lapse then s4.due (.enter .standby) else s4) : State).still = s3.still := by
      split <;> simp [h4]
    rw [h5]
    refine .opens ?_ rfl
    rw [← h2]
    rfl

theorem State.checkExtension_calm (s : State) : Calm s.still s.checkExtension.still := by
  unfold State.checkExtension
  split
  · exact State.endLease_calm ..
  · exact .refl _

theorem State.isolate_calm (s : State) : Calm s.still s.isolate.still := by
  have h := State.endLease_calm s false true
  unfold State.isolate
  simp only
  split <;> simpa using h

theorem State.isoLine_calm (s : State) (port on : Bool) : Calm s.still (s.isoLine port on).still := by
  unfold State.isoLine
  split
  · exact .refl _
  · simp only
    split
    · have h := State.isolate_calm (s.setRefPort port { s.refPort port with iso := on })
      rwa [State.setRefPort_still] at h
    · exact .of_still (by simp)

theorem State.selectRef_calm (s : State) (b : Bool) : Calm s.still (s.selectRef b).still := by
  unfold State.selectRef
  split
  · exact .of_still rfl
  · extract_lets p s1 src s2 srcr s3
    have h1 : s1.still = s.still := (when_still _ _ (by simp) _).trans (by simp)
    clear_value s1
    have h2 : s2.still = s1.still := rfl
    have h3 : s3.still = s.still := by simp [s3, h2, h1]
    clear_value s3
    cases hi : s3.isoOn
    · exact .of_still h3
    · exact h3 ▸ State.isolate_calm s3

theorem State.pairItem_calm (s : State) (item index v : Nat) : Calm s.still (s.pairItem item index v).still := by
  unfold State.pairItem
  simp only
  (repeat' split) <;> first | exact State.selectRef_calm .. | exact .of_still rfl

theorem State.mirrorTick_calm (s : State) : Calm s.still s.mirrorTick.still := by
  have h := State.checkExtension_calm s
  simpa [State.mirrorTick] using h

theorem State.laneDown_calm (s : State) (lane : Bool) : Calm s.still (s.laneDown lane).still := by
  have h : ∀ u v : State, v.still = u.still → Calm u.still ((v.raise 68 .m).applyNamed.checkExtension.swapWatch).still := fun u v hv => by
    have g := State.checkExtension_calm (v.raise 68 .m).applyNamed
    rw [State.applyNamed_still, State.raise_still, hv] at g
    rwa [State.swapWatch_still]
  unfold State.laneDown
  cases lane <;> simp only [Bool.false_eq_true, if_false, if_true]
  all_goals
    split
    · exact .refl _
    · split
      · exact .of_still (by simp)
      · exact h s _ rfl

theorem State.giveUp_calm (s : State) : Calm s.still s.giveUp.still := by
  unfold State.giveUp
  split
  · have h := State.endLease_calm s.sendRelease false (!s.pair.solo)
    simpa using h
  · exact .refl _

/-- The mode changes, and nothing else that `State.still` reads. -/
theorem Keeps.of_mode {x y : Still} (h : y = { x with mode := y.mode }) : Keeps x y := by
  rw [h]
  exact ⟨rfl, fun _ h => h, id, id, id, id⟩

theorem State.enterMode_keeps (s : State) (m : Mode) : Keeps s.still (s.enterMode m).still := by
  unfold State.enterMode
  split
  · exact .refl _
  · rw [State.raiseMode_still]
    exact .of_mode rfl

theorem State.changeMode_keeps (s : State) (m : Mode) : Keeps s.still (s.changeMode m).still := by
  have h := State.enterMode_keeps (s.leave m) m
  rw [State.leave_still] at h
  unfold State.changeMode
  split
  · exact .refl _
  · simp only
    split <;> simpa using h

theorem State.startLease_keeps (s : State) (epoch len now : Nat) : Keeps s.still (s.startLease epoch len now).still := by
  have h : ∀ u : State, u.still = { s.still with closed := u.still.closed, held := true } → Keeps s.still u.still := fun u hu => by
    rw [hu]
    exact ⟨rfl, fun _ h => h, id, id, id, fun _ _ => rfl⟩
  unfold State.startLease
  simp only
  split
  · rw [State.raiseCore_still, State.driveStand_still]; exact h _ rfl
  · exact h _ rfl

theorem State.soloStart_keeps (s : State) (c : CmdRef) : Keeps s.still (s.soloStart c).still := by
  have h := State.changeMode_keeps (s.modeLost c) .isolated
  rw [State.modeLost_still] at h
  unfold State.soloStart
  (repeat' split)
  · exact h
  · simp
  · exact State.startLease_keeps ..

theorem State.performMode_keeps (s : State) (o : TickOp) : Keeps s.still (s.performMode o).still := by
  unfold State.performMode
  split
  · rename_i m
    have h := State.changeMode_keeps s m
    simp only
    split
    · exact h.trans (State.changeMode_keeps _ _)
    · split <;> simpa using h
  · split
    · exact State.changeMode_keeps ..
    · exact .refl _
  · rename_i c m
    split
    · exact State.soloStart_keeps ..
    · split
      · rw [State.modeDone_still]
        exact s.giveUp_calm.toKeeps.trans (State.changeMode_keeps _ _)
      · rw [State.modeDone_still]
        exact State.changeMode_keeps _ _
  · exact .refl _

theorem State.modeOp_keeps (s : State) (win : Nat) (o : TickOp) : Keeps s.still (s.modeOp win o).still := by
  unfold State.modeOp
  split
  · exact State.performMode_keeps ..
  · simp

/-- The lines may be closed where a lease is held. -/
theorem Keeps.closing {s u v : State} (hu : u.still = { s.still with closed := u.still.closed }) (hs : s.pair.held = true)
    (h : Keeps u.still v.still) : Keeps s.still v.still := by
  have hh : u.still.held = true := by rw [hu]; exact hs
  rw [hu] at h
  exact ⟨h.pending, h.fuses, h.flash, h.store, h.recovery, fun _ hc => h.closed (fun _ => hs) hc⟩

theorem State.firstEver_keeps (s : State) (m : Mode) (hs : s.pair.held = true) : Keeps s.still (s.firstEver m).still := by
  have h := Keeps.closing (s := s) (u := { s with drive := { s.drive with closed := true } }) rfl hs (State.changeMode_keeps _ m)
  unfold State.firstEver
  simp only
  split <;> simpa using h

theorem State.takeover_keeps (s : State) (m : Mode) : Keeps s.still (s.takeover m).still := by
  have h := State.changeMode_keeps s.applyNamed.driveStand m
  rw [State.driveStand_still, State.applyNamed_still] at h
  unfold State.takeover
  simp only
  (repeat' split) <;> simpa using h

theorem State.leaseEnter_keeps (s : State) (hs : s.pair.held = true) : Keeps s.still s.leaseEnter.still := by
  have h : ∀ (u : State) (m : Mode) (b : Bool), u.still = s.still →
      Keeps s.still (if b then u.takeover m else u.firstEver m).still := fun u m b h1 => by
    have h2 : u.pair.held = true := (congrArg Still.held h1).trans hs
    rw [← h1]
    cases b
    · exact State.firstEver_keeps u m h2
    · exact State.takeover_keeps u m
  have g : ∀ v : State, v.still = s.still → ({ v with pair := { v.pair with firstTick := false } } : State).still = s.still :=
    fun _ hv => hv
  exact h _ s.leaseMode s.pair.takeover (g _ (State.stopTests_still s))

@[simp] theorem State.leaseAnswers_still (s : State) : s.leaseAnswers.still = s.still := by
  unfold State.leaseAnswers
  extract_lets s1 src s2
  have h1 : s1.still = s.still := by
    simp only [s1]
    split <;> simp
  have h2 : s2.still = s.still := h1
  clear_value s2
  (repeat' split) <;> simp [h2]

theorem State.leaseTick_keeps (s : State) : Keeps s.still s.leaseTick.still := by
  unfold State.leaseTick
  split
  · exact .refl _
  · rename_i hg
    have hs : s.pair.held = true := by
      cases hh : s.pair.held <;> simp_all
    simpa using s.leaseEnter_keeps hs

theorem State.settingOp_keeps (s : State) (win : Nat) (o : TickOp) : Keeps s.still (s.settingOp win o).still := by
  cases o with
  | setMode c m => exact State.modeOp_keeps ..
  | overflowHold => exact State.modeOp_keeps ..
  | enter m => exact State.modeOp_keeps ..
  | pair item index v => exact (State.pairItem_calm s item index v).toKeeps
  | _ =>
    simp only [State.settingOp]
    (repeat' split) <;> simp [foldl_still]

theorem State.tickSettings_keeps (s : State) (l : List TickOp) : Keeps s.still (s.tickSettings l).still := by
  have h := (foldl_keeps (fun t o => t.settingOp (winningRank l) o) (fun t o => t.settingOp_keeps _ o) l s).trans
    (State.leaseTick_keeps _)
  simpa [State.tickSettings] using h

theorem State.toNextFrame_keeps (s : State) : Keeps s.still s.toNextFrame.still := by
  have h : ((s.advance s.toTick).tally 2 1).still = s.still := by simp
  have g : ∀ u : State, u.still = { s.still with frame := u.still.frame } → Keeps s.still u.still := fun u hu => by
    rw [hu]
    exact ⟨rfl, fun _ h => h, id, id, id, id⟩
  refine g _ ?_
  have h2 : (((s.advance s.toTick).tally 2 1).tallyIf 3 (fun n => decide (s.frameLen < n)) 1).still = s.still := by simp
  rw [← h2]
  rfl

end Sys2Proof.Machine
end

