-- ==== Sys2Proof/Laws/Touch.lean ====
section
/-! SUPPORT. The operations of firmware, of the mailbox and of the mirror that touch the part `State.still` reads. -/

namespace Sys2Proof.Machine

theorem Lands.ite {P : State → Prop} {c : Prop} [Decidable c] {a b : Host.Outcome State Fault Refusal} (ha : Lands P a) (hb : Lands P b) :
    Lands P (if c then a else b) := by
  split
  · exact ha
  · exact hb

/-- A still operation before a calm one. -/
theorem Calm.after {s u v : State} (h : u.still = s.still) (g : Calm u.still v.still) : Calm s.still v.still := h ▸ g

@[simp] theorem State.recovery_still (s : State) (op : Nat) : (s.recovery op).still = s.still := by
  unfold State.recovery
  (repeat' split) <;> rfl

theorem State.writeRecord_calm (s : State) (a0 a1 : Nat) (body : List Byte) : Calm s.still (s.writeRecord a0 a1 body).still :=
  State.flashWrite_calm ..

theorem State.eraseControl_calm (s : State) (b : Bool) : Calm s.still (s.eraseControl b).still := State.flashWrite_calm ..

theorem State.writeControl_calm (s : State) (b : Bool) (seq len : Nat) : Calm s.still (s.writeControl b seq len).still :=
  (State.eraseControl_calm s b).trans (State.flashWrite_calm ..)

theorem State.stageDone_calm (s : State) (b : Bool) (image : List Byte) (c : CmdRef) : Calm s.still (s.stageDone b image c).still := by
  have h := State.flashWrite_calm s (slotBase b + 4096) image
  unfold State.stageDone
  simp only
  split
  · rw [State.answer_still]; exact h
  · rw [State.answer_still]; exact h.trans (State.writeControl_calm ..)

/-- A choice between a calm step and none. -/
theorem Calm.choice {x y : Still} {s : State} (b : Bool) (h : Calm x y) (hs : s.still = x) (u : State) (hu : u.still = y) :
    Calm x (if b then u else s).still := by
  cases b
  · exact .of_still hs
  · exact hu ▸ h

theorem State.flashDone_calm (s : State) (ok : Bool) (j : FlashJob) : Calm s.still (s.flashDone ok j).still := by
  cases j <;> simp only [State.flashDone]
  · rw [State.answer_still]; exact .choice _ (State.writeRecord_calm ..) rfl _ rfl
  · split
    · exact State.writeRecord_calm ..
    · exact .of_still (by simp)
  · rw [State.answer_still]; exact .choice _ (State.writeRecord_calm ..) rfl _ rfl
  · split
    · exact State.writeRecord_calm ..
    · exact .of_still rfl
  · split
    · exact State.writeRecord_calm ..
    · exact .of_still rfl
  · rename_i b image c
    generalize hu : ({ s with sys := { s.sys with staging := false } } : State) = u
    have h : u.still = s.still := hu ▸ rfl
    split
    · exact .after h (State.stageDone_calm ..)
    · exact .of_still (by simp [h])
  · rw [State.answer_still]; exact .choice _ (State.writeControl_calm ..) rfl _ rfl

/-- Fuses are only set. -/
theorem Calm.burns {x y : Still} (v : BitVec 4096) (h : y = { x with fuses := x.fuses ||| v }) : Calm x y := by
  rw [h]
  exact ⟨⟨rfl, fun k hk => by simp [hk], id, id, id, id⟩, rfl, rfl⟩

theorem State.fusePartial_calm (s : State) (want : BitVec 4096) : Calm s.still (s.fusePartial want).still :=
  .burns _ rfl

theorem State.judged_calm (s : State) (c : CmdRef) (r : Rules) (act : State → State) (h : ∀ t, Calm t.still (act t).still) :
    Calm s.still (s.judged c r act).still := by
  simp only [State.judged]
  (repeat' split) <;> first | exact h _ | exact .of_still (by simp)

theorem State.command_calm (s : State) (op : Nat) (m : MbCmd) (rules : State → Rules) (act : CmdRef → State → State)
    (h : ∀ c t, Calm t.still (act c t).still) : Calm s.still (s.command op m rules act).still := by
  simp only [State.command]
  (repeat' split)
  · exact .refl _
  · exact .of_still (by simp)
  · exact .of_still (by simp)
  · exact .after (by simp) (State.judged_calm _ _ _ _ (h _))

theorem State.fwStage_calm (m : MbCmd) (s : State) : Calm s.still (s.fwStage m).still := by
  refine State.command_calm _ _ _ _ _ (fun c t => ?_)
  split
  · exact .of_still (by simp)
  · rw [State.bufferIn_still]
    have h : ∀ u : State, u.still = t.still → Calm t.still (u.eraseControl (!t.sys.slotB)).still :=
      fun u hu => .after hu (State.eraseControl_calm _ _)
    exact h _ rfl

theorem opMeaning_calm (op : Nat) (m : MbCmd) (s : State) : Calm s.still (opMeaning op m s).still := by
  unfold opMeaning
  split
  all_goals first | exact .of_still (by simp; done) | exact State.fwStage_calm _ _

theorem State.takeSlot_calm (s : State) (n : Nat) : Calm s.still (s.takeSlot n).still := by
  unfold State.takeSlot
  simp only
  split
  · exact opMeaning_calm ..
  · exact .refl _

theorem State.takeWaiting_calm (s : State) : Calm s.still s.takeWaiting.still := foldl_calm _ State.takeSlot_calm _ _

theorem State.doorbell_calm (s : State) (n : Nat) (seq : W16) : Calm s.still (s.doorbell n seq).still := by
  unfold State.doorbell
  simp only
  split
  · exact .of_still (by simp)
  · exact .after (by simp) (State.takeSlot_calm _ _)

theorem State.datagram_calm (s : State) (port : Bool) (d : Datagram) : Calm s.still (s.datagram port d).still := by
  unfold State.datagram
  simp only
  (repeat' split)
  all_goals first | exact .of_still (by simp; done) | exact opMeaning_calm ..

theorem State.runHeld_calm (s : State) : Calm s.still s.runHeld.still :=
  .after (u := { s with sys := { s.sys with held := [] } }) rfl (foldl_calm _ (fun t (e : Nat × MbCmd) => opMeaning_calm e.1 e.2 t) _ _)

theorem State.bufferRead_calm (s : State) (c : CmdRef) (u : BufUse) (l : List Byte) : Calm s.still (s.bufferRead c u l).still := by
  cases u <;> simp only [State.bufferRead] <;> first | exact .of_still (by simp; done) | exact .of_still (State.judgeChanges_still _ _ _ _ (by simp))

theorem State.plateBurst_calm (s : State) (x : Xfer) (l : List Byte) : Calm s.still (s.plateBurst x l).still := by
  unfold State.plateBurst
  split
  · exact State.portWrite_calm ..
  · exact .refl _

theorem State.readDone_calm (s : State) (x : Xfer) : Calm s.still (s.readDone x).still := by
  unfold State.readDone
  (repeat' split)
  · exact .refl _
  · exact .after (by simp) (State.bufferRead_calm ..)
  · exact .refl _

theorem State.drainPort_calm (n : Nat) (s : State) : Calm s.still (State.drainPort n s).still := by
  induction n generalizing s with
  | zero => exact .refl _
  | succ n ih =>
    unfold State.drainPort
    split
    · exact .refl _
    · rename_i w _
      have h := State.storePlate_calm
        (({ s with host := { s.host with portWaits := dropFirst w s.host.portWaits } } : State).portDecision w.requester) w.plate w.offset w.bytes
      rw [State.portDecision_still] at h
      exact .trans (.trans (.after rfl h) (.of_still (State.portServed_still _ w))) (ih _)

theorem State.finishWrites_calm (s : State) : Calm s.still s.finishWrites.still := by
  refine foldl_calm _ (fun t x => ?_) _ _
  split
  · exact State.readDone_calm ..
  · exact .refl _

theorem State.mirrorIn_calm (s : State) (m : MirrorHdr) (act : State → State) (h : ∀ t, Calm t.still (act t).still) :
    Calm s.still (s.mirrorIn m act).still := by
  simp only [State.mirrorIn]
  split
  · exact .refl _
  · refine .trans (.of_still ?_) (h _)
    split <;> simp

theorem State.takeResync_calm (s : State) (d : Resync) : Calm s.still (s.takeResync d).still := by
  cases d <;> simp only [State.takeResync]
  · split
    · exact State.portWrite_calm ..
    · exact .refl _
  all_goals first | exact .of_still (by simp; done) | (split <;> exact .of_still (by simp)) | exact .of_still rfl

theorem State.recoveryWrite_calm (s : State) (op : Nat) : Calm s.still (s.recoveryWrite op).still := by
  unfold State.recoveryWrite
  (repeat' split) <;> exact .of_still (by simp)

theorem State.writeBar2_calm (s : State) (off value : Nat) : Calm s.still (s.writeBar2 off value).still := by
  unfold State.writeBar2
  (repeat' split)
  · exact .refl _
  · exact .of_still rfl
  · exact State.recoveryWrite_calm ..
  · exact ⟨⟨rfl, fun _ h => h, id, id, Mem.wf_store _ _ _ _, id⟩, rfl, rfl⟩
  · exact .refl _

theorem State.afterReset_keeps (s : State) (rstN coreUp : Bool) : Keeps s.still (s.afterReset rstN coreUp).still :=
  ⟨rfl, fun _ h => h, id, fun _ => rfl, fun _ => rfl, fun _ h => nomatch h⟩

theorem State.tickMessages_calm (s : State) : Calm s.still s.tickMessages.still :=
  have h : Calm s.still s.timedTick.fetchAll.recordTick.mirrorTick.tryActivate.still := by
    simpa using State.mirrorTick_calm s.timedTick.fetchAll.recordTick
  h.trans (State.takeWaiting_calm _)

theorem State.startLease_calm (s : State) (epoch len now : Nat) : Calm s.still (s.startLease epoch len now).still := by
  refine ⟨State.startLease_keeps .., ?_, ?_⟩
  all_goals
    unfold State.startLease
    simp only
    split
    · rw [State.raiseCore_still, State.driveStand_still]; rfl
    · rfl

end Sys2Proof.Machine
end

