-- ==== Sys2Proof/Laws/Calm.lean ====
section
/-! SUPPORT. What each command keeps (Laws/Keeps.lean). -/

namespace Sys2Proof.Machine

theorem execFaultEntryHandled_calm (s : State) :
    Lands (fun t => Calm s.still t.still) (execFaultEntryHandled s) := by
  unfold execFaultEntryHandled
  (repeat' split) <;> simp

theorem execRangeChangeRelease_calm (channel : Nat) (s : State) :
    Lands (fun t => Calm s.still t.still) (execRangeChangeRelease channel s) := by
  simp only [execRangeChangeRelease]
  (repeat' split) <;> simp

theorem execReadbackConversion_calm (conv : Nat) (r : Readback) (s : State) :
    Lands (fun t => Calm s.still t.still) (execReadbackConversion conv r s) := by
  simp only [execReadbackConversion]
  (repeat' split) <;> simp

theorem execConversionBoundary_calm (core : Nat) (raw : Int) (s : State) :
    Lands (fun t => Calm s.still t.still) (execConversionBoundary core raw s) := by
  simp only [execConversionBoundary]
  (repeat' split) <;> simp

theorem execCaptureEnd_calm (s : State) :
    Lands (fun t => Calm s.still t.still) (execCaptureEnd s) := by
  unfold execCaptureEnd
  (repeat' split) <;> simp

theorem execRouteJobStart_calm (s : State) :
    Lands (fun t => Calm s.still t.still) (execRouteJobStart s) := by
  unfold execRouteJobStart
  (repeat' split) <;> simp

theorem execCompletionWrite_calm (dom : BitVec 7) (s : State) :
    Lands (fun t => Calm s.still t.still) (execCompletionWrite dom s) := by
  simp only [execCompletionWrite]
  (repeat' split) <;> simp

theorem execQdCplHead_calm (fn : BitVec 7) (value : W32) (s : State) :
    Lands (fun t => Calm s.still t.still) (execQdCplHead fn value s) := by
  simp only [execQdCplHead]
  (repeat' split) <;> simp

theorem execQdTail_calm (fn : BitVec 7) (queue : BitVec 9) (value : W32) (s : State) :
    Lands (fun t => Calm s.still t.still) (execQdTail fn queue value s) := by
  simp only [execQdTail]
  (repeat' split) <;> simp

theorem execDescriptorCheck_calm (dom : BitVec 7) (queue : BitVec 9) (s : State) :
    Lands (fun t => Calm s.still t.still) (execDescriptorCheck dom queue s) := by
  simp [execDescriptorCheck]

theorem execTokenRefill_calm (s : State) :
    Lands (fun t => Calm s.still t.still) (execTokenRefill s) := by
  unfold execTokenRefill
  split
  · exact .refl _
  · refine .of_still ((foldl_still _ (fun t x => ?_) _ _).trans rfl)
    simp only
    (repeat' split) <;> simp

theorem execArbitrationDecision_calm (s : State) :
    Lands (fun t => Calm s.still t.still) (execArbitrationDecision s) := by
  unfold execArbitrationDecision
  split
  · exact .refl _
  · split
    · exact .of_still ((State.mirrorGrant_still ..).trans ((State.joinOrLate_still ..).trans rfl))
    · extract_lets s0 elig green
      have h0 : s0.still = s.still := State.policeHeads_still s
      clear_value elig green
      split
      · simp only [lands_next]; exact .of_still (by simp [h0])
      · rename_i d _
        have h := State.grant_still s0 d elig
        split <;> rename_i heq <;> rw [heq] at h
        · simp only [lands_next]; exact .of_still (by simpa [h0] using h)
        · exact Calm.of_still (h.trans h0)

theorem execSnapshotComplete_calm (s : State) :
    Lands (fun t => Calm s.still t.still) (execSnapshotComplete s) := by
  simp only [execSnapshotComplete]
  (repeat' split) <;> simp

theorem execProofResult_calm (s : State) :
    Lands (fun t => Calm s.still t.still) (execProofResult s) := by
  simp only [execProofResult]
  (repeat' split) <;> simp [foldl_still, when]

theorem execLocalisationEnd_calm (s : State) :
    Lands (fun t => Calm s.still t.still) (execLocalisationEnd s) := by
  unfold execLocalisationEnd
  (repeat' split) <;> simp

theorem execSlotLatch_calm (s : State) :
    Lands (fun t => Calm s.still t.still) (execSlotLatch s) := by
  unfold execSlotLatch
  (repeat' split) <;> simp

theorem execSlotStart_calm (s : State) :
    Lands (fun t => Calm s.still t.still) (execSlotStart s) := by
  unfold execSlotStart
  (repeat' split) <;> simp

theorem execBatchSubmit_calm (s : State) :
    Lands (fun t => Calm s.still t.still) (execBatchSubmit s) := by
  unfold execBatchSubmit
  (repeat' split) <;> simp

theorem execRouteJobComplete_calm (traceFails : BitVec 2) (s : State) :
    Lands (fun t => Calm s.still t.still) (execRouteJobComplete traceFails s) := by
  unfold execRouteJobComplete
  split
  · exact .refl _
  · rename_i r _
    split
    · exact .refl _
    · extract_lets g res src s1 cts cycles s2
      have h1 : s1.still = s.still := (State.tally_still _ _ _).trans rfl
      have h2 : Calm s.still s2.still := .after h1 (State.writeRoute_calm s1 r res g)
      clear_value s1 s2 res cts cycles
      split
      · exact .of_still (by simp [h1])
      · split
        · exact .of_still (by simp [h1])
        · split
          · simpa using h2
          · split
            · exact h2
            · simpa using h2

theorem execPtpAnnounce_calm (port : Bool) (m : AnnounceMsg) (s : State) :
    Lands (fun t => Calm s.still t.still) (execPtpAnnounce port m s) := by
  simp only [execPtpAnnounce]
  (repeat' split) <;> simp

theorem execAnnounceTimeout_calm (port : Bool) (s : State) :
    Lands (fun t => Calm s.still t.still) (execAnnounceTimeout port s) := by
  simp only [execAnnounceTimeout]
  (repeat' split) <;> simp

theorem execPtpSync_calm (port : Bool) (h : PtpHdr) (seq : W16) (twoStep : Bool) (logInterval : Int) (t1 corr : PtpTime) (s : State) :
    Lands (fun t => Calm s.still t.still) (execPtpSync port h seq twoStep logInterval t1 corr s) := by
  simp only [execPtpSync]
  (repeat' split) <;> simp

theorem execPtpFollowUp_calm (port : Bool) (m : PtpMsg) (t1 corr : PtpTime) (s : State) :
    Lands (fun t => Calm s.still t.still) (execPtpFollowUp port m t1 corr s) := by
  simp only [execPtpFollowUp]
  (repeat' split) <;> simp

theorem execDelayReqSend_calm (port : Bool) (peer : Bool) (s : State) :
    Lands (fun t => Calm s.still t.still) (execDelayReqSend port peer s) := by
  simp only [execDelayReqSend]
  (repeat' split) <;> simp

theorem execPtpDelayResp_calm (port : Bool) (r : PtpResp) (logInterval : Int) (t4 corr : PtpTime) (s : State) :
    Lands (fun t => Calm s.still t.still) (execPtpDelayResp port r logInterval t4 corr s) := by
  simp only [execPtpDelayResp]
  (repeat' split) <;> simp

theorem execPtpPdelayReq_calm (port : Bool) (h : PtpHdr) (seq : W16) (corr : PtpTime) (s : State) :
    Lands (fun t => Calm s.still t.still) (execPtpPdelayReq port h seq corr s) := by
  simp only [execPtpPdelayReq]
  (repeat' split) <;> simp

theorem execPtpPdelayResp_calm (port : Bool) (m : PtpMsg) (requester : BitVec 80) (twoStep : Bool) (t2 corr : PtpTime) (s : State) :
    Lands (fun t => Calm s.still t.still) (execPtpPdelayResp port m requester twoStep t2 corr s) := by
  simp only [execPtpPdelayResp]
  (repeat' split) <;> simp

theorem execPtpPdelayRespFollowUp_calm (port : Bool) (r : PtpResp) (t3 corr : PtpTime) (s : State) :
    Lands (fun t => Calm s.still t.still) (execPtpPdelayRespFollowUp port r t3 corr s) := by
  simp only [execPtpPdelayRespFollowUp]
  (repeat' split) <;> simp

theorem execEthPortDown_calm (port : Bool) (s : State) :
    Lands (fun t => Calm s.still t.still) (execEthPortDown port s) := by
  simp [execEthPortDown]

theorem execEthPortUp_calm (port : Bool) (rate25 : Bool) (s : State) :
    Lands (fun t => Calm s.still t.still) (execEthPortUp port rate25 s) := by
  unfold execEthPortUp
  (repeat' split) <;> simp

theorem execPpsInEdge_calm (s : State) :
    Lands (fun t => Calm s.still t.still) (execPpsInEdge s) := by
  simp only [execPpsInEdge]
  (repeat' split) <;> simp

theorem execPpsInAccept_calm (s : State) :
    Lands (fun t => Calm s.still t.still) (execPpsInAccept s) := by
  simp only [execPpsInAccept]
  (repeat' split) <;> simp

theorem execPpsLoss_calm (s : State) :
    Lands (fun t => Calm s.still t.still) (execPpsLoss s) := by
  unfold execPpsLoss
  (repeat' split) <;> simp

theorem execPpsOutRise_calm (s : State) :
    Lands (fun t => Calm s.still t.still) (execPpsOutRise s) := by
  unfold execPpsOutRise
  (repeat' split) <;> simp

theorem execPpsOutFall_calm (s : State) :
    Lands (fun t => Calm s.still t.still) (execPpsOutFall s) := by
  unfold execPpsOutFall
  (repeat' split) <;> simp

theorem execSyncInEdge_calm (s : State) :
    Lands (fun t => Calm s.still t.still) (execSyncInEdge s) := by
  simp only [execSyncInEdge]
  (repeat' split) <;> simp

theorem execSyncStuck_calm (s : State) :
    Lands (fun t => Calm s.still t.still) (execSyncStuck s) := by
  unfold execSyncStuck
  (repeat' split) <;> simp

theorem execTimeStep_calm (s : State) :
    Lands (fun t => Calm s.still t.still) (execTimeStep s) := by
  unfold execTimeStep
  (repeat' split) <;> simp

theorem execTmNsRead_calm (fn : BitVec 7) (s : State) :
    Lands (fun t => Calm s.still t.still) (execTmNsRead fn s) := by
  simp only [execTmNsRead]
  (repeat' split) <;> simp

theorem execTmAdj_calm (fn : BitVec 7) (value : W32) (s : State) :
    Lands (fun t => Calm s.still t.still) (execTmAdj fn value s) := by
  unfold execTmAdj
  (repeat' split) <;> simp

theorem execVoltSample_calm (v : List Nat) (s : State) :
    Lands (fun t => Calm s.still t.still) (execVoltSample v s) := by
  simp only [execVoltSample]
  (repeat' split) <;> simp [foldl_still, when]

theorem execProcMonitorCount_calm (v : List Nat) (s : State) :
    Lands (fun t => Calm s.still t.still) (execProcMonitorCount v s) := by
  simp only [execProcMonitorCount]
  (repeat' split) <;> simp [foldl_still, when]

theorem execLeaseEnd_calm (now : Nat) (s : State) :
    Lands (fun t => Calm s.still t.still) (execLeaseEnd now s) := by
  have h0 : (s.islandAt now).still = s.still := State.islandAt_still ..
  unfold execLeaseEnd
  extract_lets s0
  split
  · exact .of_still h0
  · split
    · split
      · exact .of_still h0
      · exact .of_still ((State.raiseCore_still _ _ _ _).trans h0)
    · exact .after h0 (State.endLease_calm _ _ _)

theorem execHeartbeatStale_calm (now : Nat) (s : State) :
    Lands (fun t => Calm s.still t.still) (execHeartbeatStale now s) := by
  have h0 : (s.islandAt now).still = s.still := State.islandAt_still ..
  unfold execHeartbeatStale
  simp only
  split
  · exact .of_still h0
  · refine Calm.after ?_ (State.checkExtension_calm _)
    exact h0

theorem execGo_calm (port : Bool) (now : Nat) (s : State) :
    Lands (fun t => Calm s.still t.still) (execGo port now s) := by
  have h0 : (s.islandAt now).still = s.still := State.islandAt_still ..
  unfold execGo
  extract_lets s0
  (repeat' split)
  · exact .of_still h0
  · exact .of_still h0
  · exact h0 ▸ State.startLease_calm s0 _ _ _
  · exact .of_still h0

theorem execArm_calm (port : Bool) (f : RefFrame) (now : Nat) (s : State) :
    Lands (fun t => Calm s.still t.still) (execArm port f now s) := by
  simp [execArm]

theorem execDisarm_calm (port : Bool) (f : RefFrame) (now : Nat) (s : State) :
    Lands (fun t => Calm s.still t.still) (execDisarm port f now s) := by
  simp [execDisarm]

theorem execRenew_calm (port : Bool) (f : RefFrame) (now : Nat) (s : State) :
    Lands (fun t => Calm s.still t.still) (execRenew port f now s) := by
  simp [execRenew]

theorem execRefStatus_calm (port : Bool) (f : RefFrame) (now : Nat) (s : State) :
    Lands (fun t => Calm s.still t.still) (execRefStatus port f now s) := by
  simp [execRefStatus]

theorem execClaimSend_calm (now : Nat) (s : State) :
    Lands (fun t => Calm s.still t.still) (execClaimSend now s) := by
  simp only [execClaimSend]
  (repeat' split) <;> simp

theorem execRecoveredClockLoss_calm (now : Nat) (s : State) :
    Lands (fun t => Calm s.still t.still) (execRecoveredClockLoss now s) := by
  unfold execRecoveredClockLoss
  (repeat' split) <;> simp

theorem execRefIsolated_calm (port : Bool) (now : Nat) (s : State) :
    Lands (fun t => Calm s.still t.still) (execRefIsolated port now s) :=
  .after (State.islandAt_still ..) (State.isoLine_calm (s.islandAt now) port true)

theorem execIsoRelease_calm (port : Bool) (now : Nat) (s : State) :
    Lands (fun t => Calm s.still t.still) (execIsoRelease port now s) :=
  .after (State.islandAt_still ..) (State.isoLine_calm (s.islandAt now) port false)

theorem execRefereeStart_calm (now : Nat) (s : State) :
    Lands (fun t => Calm s.still t.still) (execRefereeStart now s) := by
  simp only [execRefereeStart]
  (repeat' split) <;> simp

theorem execRefereeStatusReceived_calm (f : RefFrame) (now : Nat) (s : State) :
    Lands (fun t => Calm s.still t.still) (execRefereeStatusReceived f now s) := by
  simp [execRefereeStatusReceived]

theorem execRefereeClaim_calm (f : RefFrame) (now : Nat) (s : State) :
    Lands (fun t => Calm s.still t.still) (execRefereeClaim f now s) := by
  simp [execRefereeClaim]

theorem execRefereeRelease_calm (site : Bool) (now : Nat) (s : State) :
    Lands (fun t => Calm s.still t.still) (execRefereeRelease site now s) := by
  unfold execRefereeRelease
  (repeat' split) <;> simp

theorem execRefereeStatusDriving_calm (f : RefFrame) (now : Nat) (s : State) :
    Lands (fun t => Calm s.still t.still) (execRefereeStatusDriving f now s) := by
  simp [execRefereeStatusDriving]

theorem execRefereeExpiry_calm (now : Nat) (s : State) :
    Lands (fun t => Calm s.still t.still) (execRefereeExpiry now s) := by
  unfold execRefereeExpiry
  (repeat' split) <;> simp

theorem execRefereeArm_calm (now : Nat) (s : State) :
    Lands (fun t => Calm s.still t.still) (execRefereeArm now s) := by
  simp only [execRefereeArm]
  (repeat' split) <;> simp

theorem execRefereeGo_calm (now : Nat) (s : State) :
    Lands (fun t => Calm s.still t.still) (execRefereeGo now s) := by
  simp only [execRefereeGo]
  (repeat' split) <;> simp

theorem execStatusSend_calm (port : Bool) (now : Nat) (s : State) :
    Lands (fun t => Calm s.still t.still) (execStatusSend port now s) := by
  unfold execStatusSend
  (repeat' split) <;> simp

theorem execRefLinkDown_calm (port : Bool) (now : Nat) (s : State) :
    Lands (fun t => Calm s.still t.still) (execRefLinkDown port now s) := by
  simp only [execRefLinkDown]
  (repeat' split) <;> simp

theorem execVddLeaseLoss_calm (s : State) :
    Lands (fun t => Calm s.still t.still) (execVddLeaseLoss s) := by
  unfold execVddLeaseLoss
  split
  · exact .refl _
  · have h : ∀ u v : State, Calm s.still u.still → v.still = { u.still with closed := false } → Calm s.still v.still :=
      fun u v hu hv => by
        rw [hv]
        exact ⟨⟨hu.pending, hu.fuses, hu.flash, hu.store, hu.recovery, fun _ hc => nomatch hc⟩, hu.frame, hu.mode⟩
    exact h _ _ (State.endLease_calm s true true) rfl

theorem execVddLeaseApply_calm (s : State) :
    Lands (fun t => Calm s.still t.still) (execVddLeaseApply s) := by
  unfold execVddLeaseApply
  split
  · exact .refl _
  · exact .of_still rfl

theorem execCalTempCheck_calm (s : State) :
    Lands (fun t => Calm s.still t.still) (execCalTempCheck s) := by
  simp only [execCalTempCheck]
  (repeat' split) <;> simp [foldl_still, when]

theorem execCalStart_calm (s : State) :
    Lands (fun t => Calm s.still t.still) (execCalStart s) := by
  unfold execCalStart
  (repeat' split) <;> simp

theorem execCalInForce_calm (scope : BitVec 16) (d : CalData) (s : State) :
    Lands (fun t => Calm s.still t.still) (execCalInForce scope d s) := by
  simp only [execCalInForce]
  (repeat' split) <;> simp

theorem execMirrorFrame_calm (h : MirrorHdr) (m : FrameMsg) (s : State) :
    Lands (fun t => Calm s.still t.still) (execMirrorFrame h m s) := by
  refine State.mirrorIn_calm _ _ _ (fun t => .of_still ?_)
  simp only
  (repeat' split) <;> first | rfl | exact (State.applyNamedBy_still ..).trans rfl

theorem execMirrorImpression_calm (h : MirrorHdr) (m : ImpressionMsg) (s : State) :
    Lands (fun t => Calm s.still t.still) (execMirrorImpression h m s) := by
  refine State.mirrorIn_calm _ _ _ (fun t => .of_still ?_)
  (repeat' split) <;> first | (simp; done) | rfl

theorem execMirrorRequest_calm (h : MirrorHdr) (m : RequestMsg) (s : State) :
    Lands (fun t => Calm s.still t.still) (execMirrorRequest h m s) := by
  unfold execMirrorRequest
  (repeat' split) <;> simp

theorem execMirrorCompletion_calm (h : MirrorHdr) (dom index : Nat) (record : BitVec 256) (s : State) :
    Lands (fun t => Calm s.still t.still) (execMirrorCompletion h dom index record s) := by
  unfold execMirrorCompletion
  (repeat' split) <;> simp

theorem execMirrorProof_calm (h : MirrorHdr) (record : List Byte) (s : State) :
    Lands (fun t => Calm s.still t.still) (execMirrorProof h record s) := by
  simp [execMirrorProof]

theorem execMirrorPin_calm (h : MirrorHdr) (cell : Nat) (pin : Option Bool) (s : State) :
    Lands (fun t => Calm s.still t.still) (execMirrorPin h cell pin s) := by
  unfold execMirrorPin
  (repeat' split) <;> simp

theorem execMirrorPlate_calm (h : MirrorHdr) (plate offset : Nat) (bytes : List Byte) (s : State) :
    Lands (fun t => Calm s.still t.still) (execMirrorPlate h plate offset bytes s) := by
  unfold execMirrorPlate
  split
  · trivial
  · exact State.mirrorIn_calm _ _ _ (fun t => State.portWrite_calm ..)

theorem execMirrorImage_calm (h : MirrorHdr) (capture segment : Nat) (codes : List Nat) (s : State) :
    Lands (fun t => Calm s.still t.still) (execMirrorImage h capture segment codes s) := by
  unfold execMirrorImage
  split
  · trivial
  · refine State.mirrorIn_calm _ _ _ (fun t => .of_still ?_)
    extract_lets t1 l
    have h1 : t1.still = t.still := by
      simp only [t1]
      (repeat' split) <;> simp
    exact (State.trySwapReady_still _).trans h1

theorem execMirrorLoopset_calm (h : MirrorHdr) (capture segment : Nat) (bytes : List Byte) (s : State) :
    Lands (fun t => Calm s.still t.still) (execMirrorLoopset h capture segment bytes s) := by
  unfold execMirrorLoopset
  (repeat' split) <;> simp

theorem execImageInstall_calm (s : State) :
    Lands (fun t => Calm s.still t.still) (execImageInstall s) := by
  unfold execImageInstall
  (repeat' split) <;> simp

theorem execLoopsetInstall_calm (s : State) :
    Lands (fun t => Calm s.still t.still) (execLoopsetInstall s) := by
  unfold execLoopsetInstall
  (repeat' split) <;> simp

theorem execMirrorResyncData_calm (h : MirrorHdr) (d : Resync) (s : State) :
    Lands (fun t => Calm s.still t.still) (execMirrorResyncData h d s) :=
  State.mirrorIn_calm _ _ _ (fun t => t.takeResync_calm d)

theorem execMirrorBadCheck_calm (s : State) :
    Lands (fun t => Calm s.still t.still) (execMirrorBadCheck s) := by
  simp [execMirrorBadCheck]

theorem execMirrorResyncEnd_calm (s : State) :
    Lands (fun t => Calm s.still t.still) (execMirrorResyncEnd s) := by
  simp [execMirrorResyncEnd]

theorem execMirrorLaneDown_calm (lane : Bool) (s : State) :
    Lands (fun t => Calm s.still t.still) (execMirrorLaneDown lane s) := State.laneDown_calm s lane

theorem execMirrorLaneUp_calm (lane : Bool) (s : State) :
    Lands (fun t => Calm s.still t.still) (execMirrorLaneUp lane s) := by
  unfold execMirrorLaneUp
  (repeat' split) <;> simp

theorem execMirrorDelayEcho_calm (delay : Nat) (s : State) :
    Lands (fun t => Calm s.still t.still) (execMirrorDelayEcho delay s) := by
  simp [execMirrorDelayEcho]

theorem execStandbyStatus_calm (h : MirrorHdr) (m : StandbyMsg) (s : State) :
    Lands (fun t => Calm s.still t.still) (execStandbyStatus h m s) := by
  unfold execStandbyStatus
  split
  · exact .refl _
  · extract_lets old fresh req src s1 s2
    have h1 : Calm s.still s1.checkExtension.still := .after rfl (State.checkExtension_calm s1)
    have h2 : Calm s.still s2.still := by simpa [s2] using h1
    clear_value s2
    simp only [lands_next]
    split
    · simpa using h2
    · exact h2

theorem execSwapCapture_calm (s : State) :
    Lands (fun t => Calm s.still t.still) (execSwapCapture s) := by
  unfold execSwapCapture
  (repeat' split) <;> simp

theorem execSwapReady_calm (_h : MirrorHdr) (frame : Nat) (s : State) :
    Lands (fun t => Calm s.still t.still) (execSwapReady _h frame s) := by
  simp [execSwapReady]

theorem execSwapHandover_calm (s : State) :
    Lands (fun t => Calm s.still t.still) (execSwapHandover s) := by
  unfold execSwapHandover
  split
  · split
    · extract_lets src s1 k src2 s2 s3
      have h1 : Calm s.still s1.still := by
        refine .after ?_ (State.endLease_calm _ _ _)
        exact (State.sendRelease_still _).trans rfl
      have h3 : s3.still = s1.still := (State.due_still _ _).trans rfl
      have h4 : Calm s.still s3.still := h3 ▸ h1
      clear_value s3
      (repeat' split) <;> simpa using h4
    · exact .refl _
  · exact .refl _

theorem execSwapTimeout_calm (s : State) :
    Lands (fun t => Calm s.still t.still) (execSwapTimeout s) := by
  unfold execSwapTimeout
  (repeat' split) <;> simp

theorem execRevertDelay_calm (s : State) :
    Lands (fun t => Calm s.still t.still) (execRevertDelay s) := by
  unfold execRevertDelay
  (repeat' split) <;> simp

theorem execSwapInterval_calm (s : State) :
    Lands (fun t => Calm s.still t.still) (execSwapInterval s) := by
  unfold execSwapInterval
  (repeat' split) <;> simp

theorem execRstNAssert_keeps (s : State) :
    Lands (fun t => Keeps s.still t.still) (execRstNAssert s) := by
  have h := State.afterReset_keeps s.releaseLease false true
  rwa [State.releaseLease_still] at h

theorem execCoreSupplyCollapse_keeps (s : State) :
    Lands (fun t => Keeps s.still t.still) (execCoreSupplyCollapse s) := by
  have h := State.afterReset_keeps s.releaseLease s.clk.rstN false
  rwa [State.releaseLease_still] at h

theorem execRstNRelease_calm (siteId pref clkMode : Bool) (s : State) :
    Lands (fun t => Calm s.still t.still) (execRstNRelease siteId pref clkMode s) := by
  unfold execRstNRelease
  (repeat' split) <;> simp

theorem execLpllLock_keeps (s : State) :
    Lands (fun t => Keeps s.still t.still) (execLpllLock s) := by
  have h : ∀ u : State, u.still = { s.still with frame := u.still.frame } →
      Keeps s.still (if s.sys.mode = .reset then u.heartbeat.enterMode .boot else u.heartbeat).still := fun u hu => by
    have h1 : Keeps s.still u.still := by
      rw [hu]
      exact ⟨rfl, fun _ h => h, id, id, id, id⟩
    split
    · refine h1.trans ?_
      have h2 := State.enterMode_keeps u.heartbeat .boot
      rwa [State.heartbeat_still] at h2
    · simpa using h1
  unfold execLpllLock
  split
  · exact .refl _
  · exact h _ rfl

theorem execClockLoss_calm (interconnectRuns : Bool) (s : State) :
    Lands (fun t => Calm s.still t.still) (execClockLoss interconnectRuns s) := by
  unfold execClockLoss
  (repeat' split) <;> simp

theorem execEthrefLoss_calm (s : State) :
    Lands (fun t => Calm s.still t.still) (execEthrefLoss s) := by
  unfold execEthrefLoss
  split
  · exact .refl _
  · extract_lets src s1 s2
    have h2 : s2.still = s.still := by
      simp only [s2]
      split
      · exact (State.raise_still _ _ _ _).trans rfl
      · rfl
    simp only [lands_next, State.holdover_still]
    refine .trans (.after ?_ (State.laneDown_calm _ _)) (State.laneDown_calm _ _)
    simpa using h2

theorem execEthrefRestored_calm (s : State) :
    Lands (fun t => Calm s.still t.still) (execEthrefRestored s) := by
  simp [execEthrefRestored]

theorem execBootComplete_calm (s : State) :
    Lands (fun t => Calm s.still t.still) (execBootComplete s) := by
  unfold execBootComplete
  (repeat' split) <;> simp

theorem execStartupCalEnd_calm (s : State) :
    Lands (fun t => Calm s.still t.still) (execStartupCalEnd s) := by
  unfold execStartupCalEnd
  (repeat' split) <;> simp

theorem execFlashEraseSector_calm (s : State) :
    Lands (fun t => Calm s.still t.still) (execFlashEraseSector s) := .of_still (State.recovery_still ..)

theorem execFlashProgramSector_calm (s : State) :
    Lands (fun t => Calm s.still t.still) (execFlashProgramSector s) := .of_still (State.recovery_still ..)

theorem execFlashReadSector_calm (s : State) :
    Lands (fun t => Calm s.still t.still) (execFlashReadSector s) := .of_still (State.recovery_still ..)

theorem execRepeatBoot_calm (s : State) :
    Lands (fun t => Calm s.still t.still) (execRepeatBoot s) := by
  simp [execRepeatBoot]

theorem execFlashOpDone_calm (ok : Bool) (s : State) :
    Lands (fun t => Calm s.still t.still) (execFlashOpDone ok s) := by
  have h : ∀ (u : State) (a : Nat) (l : List Byte), u.still = s.still → Lands (fun t => Calm s.still t.still) (.next (u.flashWrite a l)) :=
    fun u a l hu => .after hu (State.flashWrite_calm u a l)
  have g : ∀ (u : State) (l : List Byte), u.still = { s.still with recovery := Mem.store 0 s.sys.recoveryBuf 0 l } →
      Calm s.still u.still := fun u l hu => by
    rw [hu]
    exact ⟨⟨rfl, fun _ h => h, id, id, Mem.wf_store _ _ _ _, id⟩, rfl, rfl⟩
  have k : ∀ l : List Byte, Calm s.still (State.still { s with sys := { s.sys with recoveryOp := 0, recoveryBuf := Mem.store 0 s.sys.recoveryBuf 0 l } }) :=
    fun l => g _ l rfl
  unfold execFlashOpDone
  exact .ite (.refl _) (.ite (.of_still rfl) (.ite (h _ _ _ rfl) (.ite (h _ _ _ rfl) (k _))))

theorem execFlashWriteDone_calm (ok : Bool) (s : State) :
    Lands (fun t => Calm s.still t.still) (execFlashWriteDone ok s) := by
  have h : ∀ (u : State) (j : FlashJob), u.still = s.still → Calm s.still (u.flashDone ok j).still :=
    fun u j hu => .after hu (State.flashDone_calm u ok j)
  unfold execFlashWriteDone
  simp only
  split
  · exact .refl _
  · exact h _ _ rfl

theorem execFuseProgramDone_calm (ok : Bool) (s : State) :
    Lands (fun t => Calm s.still t.still) (execFuseProgramDone ok s) := by
  unfold execFuseProgramDone
  (repeat' split)
  · exact .refl _
  · rename_i want c _ _
    simp only [lands_next, State.answer_still]
    generalize BitVec.ofNat 4096 (2 ^ 2819) = lock
    exact .burns (want ||| lock) (by simp only [State.still, BitVec.or_assoc])
  · simp only [lands_next, State.answer_still]
    exact State.fusePartial_calm ..

theorem execFuseEnDeassert_calm (s : State) :
    Lands (fun t => Calm s.still t.still) (execFuseEnDeassert s) := by
  unfold execFuseEnDeassert
  simp only
  split
  · exact .of_still rfl
  · simp only [lands_next, State.answer_still]
    exact .after rfl (State.fusePartial_calm ..)

theorem execWatchdogExpiry_calm (s : State) :
    Lands (fun t => Calm s.still t.still) (execWatchdogExpiry s) := by
  unfold execWatchdogExpiry
  (repeat' split) <;> simp

theorem execRestartFallback_calm (s : State) :
    Lands (fun t => Calm s.still t.still) (execRestartFallback s) := by
  unfold execRestartFallback
  (repeat' split) <;> simp

theorem execHealthReport_calm (s : State) :
    Lands (fun t => Calm s.still t.still) (execHealthReport s) := by
  unfold execHealthReport
  (repeat' split) <;> simp

theorem execHdmaBurst_calm (s : State) :
    Lands (fun t => Calm s.still t.still) (execHdmaBurst s) := by
  unfold execHdmaBurst
  (repeat' split) <;> simp

theorem execTranslationWalkDone_calm (dom : BitVec 7) (w : Walk) (s : State) :
    Lands (fun t => Calm s.still t.still) (execTranslationWalkDone dom w s) := by
  simp only [execTranslationWalkDone]
  (repeat' split) <;> simp

theorem execDescriptorFetched_calm (dom : BitVec 7) (queue : BitVec 9) (descs : List (BitVec 256)) (s : State) :
    Lands (fun t => Calm s.still t.still) (execDescriptorFetched dom queue descs s) := by
  simp only [execDescriptorFetched]
  (repeat' split) <;> simp

theorem execMsixUnmask_calm (fn : BitVec 7) (vector : Nat) (s : State) :
    Lands (fun t => Calm s.still t.still) (execMsixUnmask fn vector s) := by
  unfold execMsixUnmask
  (repeat' split) <;> simp

theorem execMbRspAck_calm (fn : BitVec 7) (value : W32) (s : State) :
    Lands (fun t => Calm s.still t.still) (execMbRspAck fn value s) := by
  unfold execMbRspAck
  (repeat' split) <;> simp

theorem execEvStatusClear_calm (fn : BitVec 7) (word : Nat) (value : W32) (s : State) :
    Lands (fun t => Calm s.still t.still) (execEvStatusClear fn word value s) := by
  unfold execEvStatusClear
  (repeat' split) <;> simp

theorem execEvRingHead_calm (fn : BitVec 7) (value : W32) (s : State) :
    Lands (fun t => Calm s.still t.still) (execEvRingHead fn value s) := by
  unfold execEvRingHead
  (repeat' split) <;> simp

theorem execFlrVf_calm (fn : BitVec 7) (s : State) :
    Lands (fun t => Calm s.still t.still) (execFlrVf fn s) := by
  unfold execFlrVf
  (repeat' split) <;> simp

theorem execFlrPf_calm (s : State) :
    Lands (fun t => Calm s.still t.still) (execFlrPf s) := by
  simp [execFlrPf]

theorem execConventionalReset_calm (s : State) :
    Lands (fun t => Calm s.still t.still) (execConventionalReset s) := by
  simp [execConventionalReset]

theorem execPcieLinkTrained_calm (s : State) :
    Lands (fun t => Calm s.still t.still) (execPcieLinkTrained s) := by
  unfold execPcieLinkTrained
  (repeat' split) <;> simp

theorem execVfEnable_calm (on : Bool) (s : State) :
    Lands (fun t => Calm s.still t.still) (execVfEnable on s) := by
  unfold execVfEnable
  (repeat' split) <;> simp

theorem execPowerStateChange_calm (fn : BitVec 7) (d3 : Bool) (s : State) :
    Lands (fun t => Calm s.still t.still) (execPowerStateChange fn d3 s) := by
  simp only [execPowerStateChange]
  (repeat' split) <;> simp [foldl_still, when]

theorem execBusErrorAccess_calm (master : Nat) (write : Bool) (target : BusTarget) (s : State) :
    Lands (fun t => Calm s.still t.still) (execBusErrorAccess master write target s) := by
  unfold execBusErrorAccess
  (repeat' split) <;> simp

theorem execMasterResetMidBurst_calm (master : Nat) (s : State) :
    Lands (fun t => Calm s.still t.still) (execMasterResetMidBurst master s) := by
  unfold execMasterResetMidBurst
  (repeat' split) <;> simp

theorem execPaCommit_calm (fn : BitVec 7) (value : W32) (s : State) :
    Lands (fun t => Calm s.still t.still) (execPaCommit fn value s) := by
  unfold execPaCommit
  (repeat' split) <;> simp

theorem execPcCycleLoRead_calm (fn : BitVec 7) (s : State) :
    Lands (fun t => Calm s.still t.still) (execPcCycleLoRead fn s) := by
  unfold execPcCycleLoRead
  (repeat' split) <;> simp

theorem execCountLoRead_calm (fn : BitVec 7) (n : BitVec 3) (s : State) :
    Lands (fun t => Calm s.still t.still) (execCountLoRead fn n s) := by
  unfold execCountLoRead
  (repeat' split) <;> simp

theorem execGetInfo_calm (m : MbCmd) (s : State) :
    Lands (fun t => Calm s.still t.still) (execGetInfo m s) := by
  simp [execGetInfo]

theorem execGetHealth_calm (m : MbCmd) (s : State) :
    Lands (fun t => Calm s.still t.still) (execGetHealth m s) := by
  simp [execGetHealth]

theorem execSetMode_calm (m : MbCmd) (s : State) :
    Lands (fun t => Calm s.still t.still) (execSetMode m s) := by
  simp [execSetMode]

theorem execLoadDescriptor_calm (m : MbCmd) (s : State) :
    Lands (fun t => Calm s.still t.still) (execLoadDescriptor m s) := by
  simp [execLoadDescriptor]

theorem execReadDescriptor_calm (m : MbCmd) (s : State) :
    Lands (fun t => Calm s.still t.still) (execReadDescriptor m s) := by
  simp [execReadDescriptor]

theorem execPlateWrite_calm (m : MbCmd) (s : State) :
    Lands (fun t => Calm s.still t.still) (execPlateWrite m s) := by
  simp [execPlateWrite]

theorem execPlateRead_calm (m : MbCmd) (s : State) :
    Lands (fun t => Calm s.still t.still) (execPlateRead m s) := by
  simp [execPlateRead]

theorem execPlateRoute_calm (m : MbCmd) (s : State) :
    Lands (fun t => Calm s.still t.still) (execPlateRoute m s) := by
  simp [execPlateRoute]

theorem execPlateRouteDelta_calm (m : MbCmd) (s : State) :
    Lands (fun t => Calm s.still t.still) (execPlateRouteDelta m s) := by
  simp [execPlateRouteDelta]

theorem execImpress_calm (m : MbCmd) (s : State) :
    Lands (fun t => Calm s.still t.still) (execImpress m s) := by
  simp [execImpress]

theorem execProofRead_calm (m : MbCmd) (s : State) :
    Lands (fun t => Calm s.still t.still) (execProofRead m s) := by
  simp [execProofRead]

theorem execSlotTableWrite_calm (m : MbCmd) (s : State) :
    Lands (fun t => Calm s.still t.still) (execSlotTableWrite m s) := by
  simp [execSlotTableWrite]

theorem execSlotTableSwap_calm (m : MbCmd) (s : State) :
    Lands (fun t => Calm s.still t.still) (execSlotTableSwap m s) := by
  simp [execSlotTableSwap]

theorem execGateConfig_calm (m : MbCmd) (s : State) :
    Lands (fun t => Calm s.still t.still) (execGateConfig m s) := by
  simp [execGateConfig]

theorem execDomainConfig_calm (m : MbCmd) (s : State) :
    Lands (fun t => Calm s.still t.still) (execDomainConfig m s) := by
  simp [execDomainConfig]

theorem execQueueConfig_calm (m : MbCmd) (s : State) :
    Lands (fun t => Calm s.still t.still) (execQueueConfig m s) := by
  simp [execQueueConfig]

theorem execQueueReset_calm (m : MbCmd) (s : State) :
    Lands (fun t => Calm s.still t.still) (execQueueReset m s) := by
  simp [execQueueReset]

theorem execLoopConfig_calm (m : MbCmd) (s : State) :
    Lands (fun t => Calm s.still t.still) (execLoopConfig m s) := by
  simp [execLoopConfig]

theorem execLoopRead_calm (m : MbCmd) (s : State) :
    Lands (fun t => Calm s.still t.still) (execLoopRead m s) := by
  simp [execLoopRead]

theorem execToneAssign_calm (m : MbCmd) (s : State) :
    Lands (fun t => Calm s.still t.still) (execToneAssign m s) := by
  simp [execToneAssign]

theorem execHatchLoad_calm (m : MbCmd) (s : State) :
    Lands (fun t => Calm s.still t.still) (execHatchLoad m s) := by
  simp [execHatchLoad]

theorem execChannelRead_calm (m : MbCmd) (s : State) :
    Lands (fun t => Calm s.still t.still) (execChannelRead m s) := by
  simp [execChannelRead]

theorem execChannelForce_calm (m : MbCmd) (s : State) :
    Lands (fun t => Calm s.still t.still) (execChannelForce m s) := by
  simp [execChannelForce]

theorem execChannelRetire_calm (m : MbCmd) (s : State) :
    Lands (fun t => Calm s.still t.still) (execChannelRetire m s) := by
  simp [execChannelRetire]

theorem execChannelRestore_calm (m : MbCmd) (s : State) :
    Lands (fun t => Calm s.still t.still) (execChannelRestore m s) := by
  simp [execChannelRestore]

theorem execCalRun_calm (m : MbCmd) (s : State) :
    Lands (fun t => Calm s.still t.still) (execCalRun m s) := by
  simp [execCalRun]

theorem execCalStatus_calm (m : MbCmd) (s : State) :
    Lands (fun t => Calm s.still t.still) (execCalStatus m s) := by
  simp [execCalStatus]

theorem execCalPolicy_calm (m : MbCmd) (s : State) :
    Lands (fun t => Calm s.still t.still) (execCalPolicy m s) := by
  simp [execCalPolicy]

theorem execTimeConfig_calm (m : MbCmd) (s : State) :
    Lands (fun t => Calm s.still t.still) (execTimeConfig m s) := by
  simp [execTimeConfig]

theorem execTimeStatus_calm (m : MbCmd) (s : State) :
    Lands (fun t => Calm s.still t.still) (execTimeStatus m s) := by
  simp [execTimeStatus]

theorem execPairConfig_calm (m : MbCmd) (s : State) :
    Lands (fun t => Calm s.still t.still) (execPairConfig m s) := by
  simp [execPairConfig]

theorem execPairStatus_calm (m : MbCmd) (s : State) :
    Lands (fun t => Calm s.still t.still) (execPairStatus m s) := by
  simp [execPairStatus]

theorem execPairSwap_calm (m : MbCmd) (s : State) :
    Lands (fun t => Calm s.still t.still) (execPairSwap m s) := by
  simp [execPairSwap]

theorem execRefereeConfig_calm (m : MbCmd) (s : State) :
    Lands (fun t => Calm s.still t.still) (execRefereeConfig m s) := by
  simp [execRefereeConfig]

theorem execFwStage_calm (m : MbCmd) (s : State) :
    Lands (fun t => Calm s.still t.still) (execFwStage m s) := State.fwStage_calm m s

theorem execFwActivate_calm (m : MbCmd) (s : State) :
    Lands (fun t => Calm s.still t.still) (execFwActivate m s) := by
  simp [execFwActivate]

theorem execFuseRead_calm (m : MbCmd) (s : State) :
    Lands (fun t => Calm s.still t.still) (execFuseRead m s) := by
  simp [execFuseRead]

theorem execFuseProgram_calm (m : MbCmd) (s : State) :
    Lands (fun t => Calm s.still t.still) (execFuseProgram m s) := by
  simp [execFuseProgram]

theorem execEventConfig_calm (m : MbCmd) (s : State) :
    Lands (fun t => Calm s.still t.still) (execEventConfig m s) := by
  simp [execEventConfig]

theorem execFaultLogRead_calm (m : MbCmd) (s : State) :
    Lands (fun t => Calm s.still t.still) (execFaultLogRead m s) := by
  simp [execFaultLogRead]

theorem execPerfConfig_calm (m : MbCmd) (s : State) :
    Lands (fun t => Calm s.still t.still) (execPerfConfig m s) := by
  simp [execPerfConfig]

theorem execXlateConfig_calm (m : MbCmd) (s : State) :
    Lands (fun t => Calm s.still t.still) (execXlateConfig m s) := by
  simp [execXlateConfig]

theorem execXlateResume_calm (m : MbCmd) (s : State) :
    Lands (fun t => Calm s.still t.still) (execXlateResume m s) := by
  simp [execXlateResume]

theorem execMbDoorbell_calm (fn : BitVec 7) (seq : W16) (s : State) :
    Lands (fun t => Calm s.still t.still) (execMbDoorbell fn seq s) := by
  unfold execMbDoorbell
  split
  · exact State.doorbell_calm ..
  · exact .refl _

theorem execMgmtDatagram_calm (port : Bool) (d : Datagram) (s : State) :
    Lands (fun t => Calm s.still t.still) (execMgmtDatagram port d s) := State.datagram_calm ..

theorem execHotRestartEnd_calm (s : State) :
    Lands (fun t => Calm s.still t.still) (execHotRestartEnd s) := by
  unfold execHotRestartEnd
  split
  · exact .trans (.after (State.endRestart_still s) (State.runHeld_calm _)) (State.takeWaiting_calm _)
  · exact .refl _

theorem execCommandBufferReadDone_calm (ok : Bool) (data : List Byte) (s : State) :
    Lands (fun t => Calm s.still t.still) (execCommandBufferReadDone ok data s) := by
  unfold execCommandBufferReadDone
  simp only
  split
  · exact .refl _
  · split
    · exact .of_still (by simp)
    · simp only [lands_next]
      split
      · exact .trans (.after (State.setXfer_still _ _) (State.plateBurst_calm ..)) (State.readDone_calm ..)
      · exact .after (State.setXfer_still _ _) (State.plateBurst_calm ..)

theorem execPlateReadCopyEnd_calm (s : State) :
    Lands (fun t => Calm s.still t.still) (execPlateReadCopyEnd s) := by
  unfold execPlateReadCopyEnd
  split
  · exact .refl _
  · extract_lets data src s1 s2
    have h1 : s1.still = s.still := (State.eccCorrect_still ..).trans rfl
    have h2 : s2.still = s.still := by
      simp only [s2]
      split
      · exact (State.bufferOut_still _ _ _ _ _).trans h1
      · exact h1
    clear_value s2
    exact .trans (.after h2 (State.drainPort_calm ..)) (State.finishWrites_calm _)

theorem execClearedByRead_calm (r : RcReg) (s : State) :
    Lands (fun t => Calm s.still t.still) (execClearedByRead r s) := by
  unfold execClearedByRead
  (repeat' split) <;> simp

theorem execBarBadAccess_calm (fn : BitVec 7) (write : Bool) (s : State) :
    Lands (fun t => Calm s.still t.still) (execBarBadAccess fn write s) := by
  unfold execBarBadAccess
  (repeat' split) <;> simp

theorem execRegisterWrite_calm (fn : BitVec 7) (bar2 : Bool) (off : BitVec 22) (value : W32) (s : State) :
    Lands (fun t => Calm s.still t.still) (execRegisterWrite fn bar2 off value s) := by
  have h : ∀ u : State, u.still = s.still → Lands (fun t => Calm s.still t.still) (.next u) := fun _ hu => .of_still hu
  unfold execRegisterWrite
  exact .ite (.refl _) (.ite (.ite (State.writeBar2_calm ..) (.refl _)) (.ite (h _ (State.writeCmd_still ..))
    (.ite (State.doorbell_calm ..) (.ite (execQdCplHead_calm ..) (.ite (h _ (State.ackRsp_still ..)) (.ite (h _ (State.clearEv_still ..))
    (.ite (h _ (State.modFn_still ..)) (.ite (execTmAdj_calm ..) (.ite (.ite (h _ (State.writeShadow_still ..)) (.refl _))
    (.ite (.ite (h _ (State.paCommit_still ..)) (.refl _)) (.ite (execQdTail_calm ..) (.ite (h _ (State.writeMsix_still ..)) (.refl _)))))))))))))

theorem execBar2WindowRead_calm (fn : BitVec 7) (off : BitVec 22) (s : State) :
    Lands (fun t => Calm s.still t.still) (execBar2WindowRead fn off s) := by
  simp only [execBar2WindowRead]
  (repeat' split) <;> simp

theorem execSmbusRead_calm (addr : BitVec 7) (op : SmbusOp) (cmd : BitVec 8) (s : State) :
    Lands (fun t => Calm s.still t.still) (execSmbusRead addr op cmd s) := by
  unfold execSmbusRead
  (repeat' split) <;> simp

theorem execSmbusClockLowTimeout_calm (s : State) :
    Lands (fun t => Calm s.still t.still) (execSmbusClockLowTimeout s) := by
  simp [execSmbusClockLowTimeout]

theorem execJtagDebugAccess_calm (write : Bool) (target : BusTarget) (addr : Nat) (value : W32) (s : State) :
    Lands (fun t => Calm s.still t.still) (execJtagDebugAccess write target addr value s) := by
  unfold execJtagDebugAccess
  (repeat' split) <;> simp

theorem execCommitPoint_calm (s : State) :
    Lands (fun t => Calm s.still t.still) (execCommitPoint s) := by
  unfold execCommitPoint
  (repeat' split) <;> simp

theorem execFrameTick_keeps (i : TickIn) (s : State) :
    Lands (fun t => Keeps s.still t.still) (execFrameTick i s) := by
  unfold execFrameTick
  split
  · exact .refl _
  · extract_lets s1 s2 s3 s4
    have h1 : s1.still = s.still := by simp [s1]
    have h2 : Keeps s.still s2.still := by
      have h := State.toNextFrame_keeps s1
      rw [h1] at h
      simpa [s2] using h
    have h3 : Keeps s.still s3.still := by
      have h := h2.trans (State.tickSettings_keeps s2 s1.atTick)
      rwa [← foldl_still _ (fun t x => State.eccError_still t x) i.ecc (s2.tickSettings s1.atTick)] at h
    have h4 : s4.still = s3.still := by simp [s4]
    simp only [lands_next]
    refine .trans ?_ (State.tickMessages_calm _).toKeeps
    rw [State.tickUnits_still, State.rangeWaits_still, foldl_still _ (fun t x => State.lateOp_still t x), h4]
    exact h3

end Sys2Proof.Machine
end

