-- ==== Sys2Proof/Laws/Frames.lean ====
section
/-! SUPPORT. What the shared operations can change at all: an event writes the fault log and the host interface only, a response the
running commands, the answers kept and the host interface only. -/

namespace Sys2Proof.Machine

/-- The second state differs from the first in the fault block and the host interface only. -/
def Told (s t : State) : Prop := ∃ f h, t = { s with faults := f, host := h }

theorem Told.refl (s : State) : Told s s := ⟨_, _, rfl⟩

theorem Told.trans {s t u : State} (h : Told s t) (g : Told t u) : Told s u := by
  obtain ⟨f, h, rfl⟩ := h
  obtain ⟨f', h', rfl⟩ := g
  exact ⟨f', h', rfl⟩

theorem Told.ite {s t u : State} {c : Prop} [Decidable c] (h : Told s t) (g : Told s u) : Told s (if c then t else u) := by
  split <;> assumption

theorem Told.foldl {α : Type} (f : State → α → State) (h : ∀ t x, Told t (f t x)) (l : List α) (s : State) : Told s (l.foldl f s) := by
  induction l generalizing s with
  | nil => exact .refl s
  | cons x r ih => exact (h s x).trans (ih _)

theorem State.setFn_told (s : State) (n : Nat) (f : Fn) : Told s (s.setFn n f) := ⟨_, _, rfl⟩
theorem State.modFn_told (s : State) (n : Nat) (g : Fn → Fn) : Told s (s.modFn n g) := ⟨_, _, rfl⟩
theorem State.emit_told (s : State) (o : Out) : Told s (s.emit o) := ⟨_, _, rfl⟩
theorem State.returns_told (s : State) (v : Nat) : Told s (s.returns v) := ⟨_, _, rfl⟩
theorem State.newXfer_told (s : State) (d : Nat) (u : XferUse) (a b : Bool) (i l : Nat) (x : List Byte) :
    Told s (s.newXfer d u a b i l x) := ⟨_, _, rfl⟩

theorem State.msix_told (s : State) (n v : Nat) : Told s (s.msix n v) := by
  unfold State.msix
  exact .ite (State.setFn_told ..) (State.emit_told ..)

theorem State.deliver_told (s : State) (src : Nat) (r : BitVec 256) (n : Nat) : Told s (s.deliver src r n) := by
  unfold State.deliver
  refine .ite (.refl s) (.ite (State.setFn_told ..) (.ite (State.setFn_told ..) ?_))
  exact (State.setFn_told ..).trans (State.newXfer_told ..)

theorem State.raiseTo_told (s : State) (n : Nat) (e : Ev) (fns : List Nat) : Told s (s.raiseTo n e fns) := by
  unfold State.raiseTo
  refine .ite ⟨_, _, rfl⟩ ?_
  exact Told.trans ⟨_, _, rfl⟩ (Told.foldl _ (fun t f => t.deliver_told ..) _ _)

theorem State.wrapped_told (s : State) (due : Bool) : Told s (s.wrapped due) := by
  unfold State.wrapped
  exact .ite ((State.raiseTo_told ..).trans ⟨_, _, rfl⟩) (.refl s)

/-- An event changes the fault log and the host interface only (R390 to R394). -/
theorem State.raise_told (s : State) (n : Nat) (sc : EvScope) (e : Ev) : Told s (s.raise n sc e) := by
  unfold State.raise
  exact .ite (Told.foldl _ (fun t f => t.deliver_told ..) _ _) ((State.raiseTo_told ..).trans (State.wrapped_told ..))

theorem State.raiseUnit_told (s : State) (n k i : Nat) (e : Ev) : Told s (s.raiseUnit n k i e) := s.raise_told ..

theorem State.raiseCore_told (s : State) (n : Nat) (sc : EvScope) (e : Ev) : Told s (s.raiseCore n sc e) := by
  unfold State.raiseCore
  exact .ite (State.raise_told ..) (.refl s)

/-- The mode is entered; MODE_CHANGED changes the fault log and the host interface only (R391). -/
theorem State.enterMode_told (s : State) (m : Mode) : Told { s with sys := { s.sys with mode := m } } (s.enterMode m) := by
  unfold State.enterMode
  split
  · rename_i h
    subst h
    exact .refl s
  · exact State.raise_told ..

/-- The second state differs from the first in the running commands, the answers kept and the host interface only. -/
def Spoke (s t : State) : Prop :=
  ∃ run done ans cop h, t = { s with
    sys := { s.sys with running := run, bufDone := done }, pair := { s.pair with answered := ans, copies := cop }, host := h }

theorem Spoke.refl (s : State) : Spoke s s := ⟨_, _, _, _, _, rfl⟩

theorem Spoke.trans {s t u : State} (h : Spoke s t) (g : Spoke t u) : Spoke s u := by
  obtain ⟨a, b, c, d, e, rfl⟩ := h
  obtain ⟨a', b', c', d', e', rfl⟩ := g
  exact ⟨a', b', c', d', e', rfl⟩

theorem Spoke.ite {s t u : State} {c : Prop} [Decidable c] (h : Spoke s t) (g : Spoke s u) : Spoke s (if c then t else u) := by
  split <;> assumption

theorem Spoke.foldl {α : Type} (f : State → α → State) (h : ∀ t x, Spoke t (f t x)) (l : List α) (s : State) : Spoke s (l.foldl f s) := by
  induction l generalizing s with
  | nil => exact .refl s
  | cons x r ih => exact (h s x).trans (ih _)

theorem State.present_rsp_spoke (s : State) (n : Nat) (r : BitVec 512) (b : Bool) : Spoke s (s.present_rsp n r b) := by
  have hm : ∀ t : State, Spoke t (t.msix n 0) := fun t => by
    unfold State.msix
    exact .ite ⟨_, _, _, _, _, rfl⟩ ⟨_, _, _, _, _, rfl⟩
  unfold State.present_rsp
  refine .ite ⟨_, _, _, _, _, rfl⟩ (.ite ?_ ⟨_, _, _, _, _, rfl⟩)
  exact Spoke.trans ⟨_, _, _, _, _, rfl⟩ (hm _)

theorem State.answerMgmt_spoke (s : State) (c q : Nat) (p : Bool) (r : BitVec 512) : Spoke s (s.answerMgmt c q p r) := by
  unfold State.answerMgmt
  exact Spoke.trans ⟨_, _, _, _, _, rfl⟩ (Spoke.foldl _ (fun t x => ⟨_, _, _, _, _, rfl⟩) _ _)

/-- A response changes the running commands, the answers kept and the host interface only (R363, R470). -/
theorem State.answerAt_spoke (s : State) (time : Nat) (c : CmdRef) (status flags done : Nat) (p : List (Nat × Nat)) :
    Spoke s (s.answerAt time c status flags done p) := by
  unfold State.answerAt
  refine .ite (.refl s) ?_
  extract_lets read src s1 r
  have h1 : Spoke s s1 := ⟨_, _, _, _, _, rfl⟩
  refine h1.trans ?_
  split
  · exact State.present_rsp_spoke ..
  · exact State.answerMgmt_spoke ..

theorem State.answer_spoke (s : State) (c : CmdRef) (status : Nat) (p : List (Nat × Nat)) : Spoke s (s.answer c status p) :=
  s.answerAt_spoke ..

end Sys2Proof.Machine
end

