-- ==== Sys2Proof/Laws/Mailbox.lean ====
section
/-! SUPPORT. The taking and the judging of a mailbox command, once for all rows of R499. -/

namespace Sys2Proof.Machine

/-- A command that its row admits is taken and performed. -/
theorem State.command_admitted {s : State} {op : Nat} {m : MbCmd} {remote : Bool} {modes : List Mode} {interval legacy : Bool}
    (h : s.Admits m remote modes interval legacy) (rules : State → Rules) (act : CmdRef → State → State) (sel len perm : Bool)
    (hr : rules (s.taken op m) = (s.taken op m).row m sel len perm remote modes interval legacy)
    (hs : sel = true) (hl : len = true) (hp : perm = true) :
    s.command op m rules act = act (refOf op m) (s.taken op m) := by
  have hb : (s.taken op m).sys.bootFailed = s.sys.bootFailed := by
    unfold State.taken State.take
    cases hsrc : (refOf op m).src <;> rfl
  have hm : (s.taken op m).modeOk m.src modes interval legacy = s.modeOk m.src modes interval legacy := by
    unfold State.taken State.take
    cases hsrc : (refOf op m).src <;> rfl
  have hq : (perm && (!srcRemote m.src || (remote && m.noBuf))) = true := by
    rw [hp]
    cases hsr : srcRemote m.src
    · rfl
    · obtain ⟨h1, h2⟩ := h.source hsr
      simp [h1, MbCmd.noBuf, h2]
  unfold State.command
  rw [h.reached, h.taken]
  simp only [Bool.not_true, Bool.false_eq_true, if_false]
  change (if (s.taken op m).sys.bootFailed = true then _ else _) = _
  rw [hb, h.booted]
  simp only [Bool.false_eq_true, if_false]
  change (s.taken op m).judged _ (rules (s.taken op m)) _ = _
  rw [hr]
  simp only [State.judged, State.row, hs, hl, hq, hm, h.mode, Bool.not_true, Bool.false_eq_true, if_false]

/-! ## What the taking of a command leaves -/

@[simp] theorem State.taken_pending (s : State) (op : Nat) (m : MbCmd) : (s.taken op m).pending = s.pending := by
  unfold State.taken State.take
  cases (refOf op m).src <;> rfl

@[simp] theorem State.taken_atTick (s : State) (op : Nat) (m : MbCmd) : (s.taken op m).atTick = s.atTick := by
  unfold State.taken State.take
  cases (refOf op m).src <;> rfl

@[simp] theorem State.taken_clk (s : State) (op : Nat) (m : MbCmd) : (s.taken op m).clk = s.clk := by
  unfold State.taken State.take
  cases (refOf op m).src <;> rfl

@[simp] theorem State.taken_ft (s : State) (op : Nat) (m : MbCmd) : (s.taken op m).ft = s.ft := by
  unfold State.taken State.take
  cases (refOf op m).src <;> rfl

@[simp] theorem State.taken_desc (s : State) (op : Nat) (m : MbCmd) : (s.taken op m).desc = s.desc := by
  unfold State.taken State.take
  cases (refOf op m).src <;> rfl

@[simp] theorem State.taken_drive (s : State) (op : Nat) (m : MbCmd) : (s.taken op m).drive = s.drive := by
  unfold State.taken State.take
  cases (refOf op m).src <;> rfl

@[simp] theorem State.taken_sense (s : State) (op : Nat) (m : MbCmd) : (s.taken op m).sense = s.sense := by
  unfold State.taken State.take
  cases (refOf op m).src <;> rfl

@[simp] theorem State.taken_loops (s : State) (op : Nat) (m : MbCmd) : (s.taken op m).loops = s.loops := by
  unfold State.taken State.take
  cases (refOf op m).src <;> rfl

@[simp] theorem State.taken_burin (s : State) (op : Nat) (m : MbCmd) : (s.taken op m).burin = s.burin := by
  unfold State.taken State.take
  cases (refOf op m).src <;> rfl

@[simp] theorem State.taken_imp (s : State) (op : Nat) (m : MbCmd) : (s.taken op m).imp = s.imp := by
  unfold State.taken State.take
  cases (refOf op m).src <;> rfl

@[simp] theorem State.taken_sched (s : State) (op : Nat) (m : MbCmd) : (s.taken op m).sched = s.sched := by
  unfold State.taken State.take
  cases (refOf op m).src <;> rfl

@[simp] theorem State.taken_pair (s : State) (op : Nat) (m : MbCmd) : (s.taken op m).pair = s.pair := by
  unfold State.taken State.take
  cases (refOf op m).src <;> rfl

@[simp] theorem State.taken_mirror (s : State) (op : Nat) (m : MbCmd) : (s.taken op m).mirror = s.mirror := by
  unfold State.taken State.take
  cases (refOf op m).src <;> rfl

@[simp] theorem State.taken_faults (s : State) (op : Nat) (m : MbCmd) : (s.taken op m).faults = s.faults := by
  unfold State.taken State.take
  cases (refOf op m).src <;> rfl

@[simp] theorem State.taken_cal (s : State) (op : Nat) (m : MbCmd) : (s.taken op m).cal = s.cal := by
  unfold State.taken State.take
  cases (refOf op m).src <;> rfl

@[simp] theorem State.taken_sys_mode (s : State) (op : Nat) (m : MbCmd) : (s.taken op m).sys.mode = s.sys.mode := by
  unfold State.taken State.take
  cases (refOf op m).src <;> rfl

@[simp] theorem State.taken_sys_target (s : State) (op : Nat) (m : MbCmd) : (s.taken op m).sys.target = s.sys.target := by
  unfold State.taken State.take
  cases (refOf op m).src <;> rfl

@[simp] theorem State.taken_sys_holdLegacy (s : State) (op : Nat) (m : MbCmd) : (s.taken op m).sys.holdLegacy = s.sys.holdLegacy := by
  unfold State.taken State.take
  cases (refOf op m).src <;> rfl

@[simp] theorem State.taken_sys_modePending (s : State) (op : Nat) (m : MbCmd) : (s.taken op m).sys.modePending = s.sys.modePending := by
  unfold State.taken State.take
  cases (refOf op m).src <;> rfl

@[simp] theorem State.taken_sys_modePersist (s : State) (op : Nat) (m : MbCmd) : (s.taken op m).sys.modePersist = s.sys.modePersist := by
  unfold State.taken State.take
  cases (refOf op m).src <;> rfl

@[simp] theorem State.taken_sys_standbySeen (s : State) (op : Nat) (m : MbCmd) : (s.taken op m).sys.standbySeen = s.sys.standbySeen := by
  unfold State.taken State.take
  cases (refOf op m).src <;> rfl

@[simp] theorem State.taken_sys_mailboxOpen (s : State) (op : Nat) (m : MbCmd) : (s.taken op m).sys.mailboxOpen = s.sys.mailboxOpen := by
  unfold State.taken State.take
  cases (refOf op m).src <;> rfl

@[simp] theorem State.taken_sys_bootFailed (s : State) (op : Nat) (m : MbCmd) : (s.taken op m).sys.bootFailed = s.sys.bootFailed := by
  unfold State.taken State.take
  cases (refOf op m).src <;> rfl

@[simp] theorem State.taken_sys_bootReason (s : State) (op : Nat) (m : MbCmd) : (s.taken op m).sys.bootReason = s.sys.bootReason := by
  unfold State.taken State.take
  cases (refOf op m).src <;> rfl

@[simp] theorem State.taken_sys_fallback (s : State) (op : Nat) (m : MbCmd) : (s.taken op m).sys.fallback = s.sys.fallback := by
  unfold State.taken State.take
  cases (refOf op m).src <;> rfl

@[simp] theorem State.taken_sys_slotB (s : State) (op : Nat) (m : MbCmd) : (s.taken op m).sys.slotB = s.sys.slotB := by
  unfold State.taken State.take
  cases (refOf op m).src <;> rfl

@[simp] theorem State.taken_sys_bufDone (s : State) (op : Nat) (m : MbCmd) : (s.taken op m).sys.bufDone = s.sys.bufDone := by
  unfold State.taken State.take
  cases (refOf op m).src <;> rfl

@[simp] theorem State.taken_sys_version (s : State) (op : Nat) (m : MbCmd) : (s.taken op m).sys.version = s.sys.version := by
  unfold State.taken State.take
  cases (refOf op m).src <;> rfl

@[simp] theorem State.taken_sys_mirrorLevel (s : State) (op : Nat) (m : MbCmd) : (s.taken op m).sys.mirrorLevel = s.sys.mirrorLevel := by
  unfold State.taken State.take
  cases (refOf op m).src <;> rfl

@[simp] theorem State.taken_sys_configLevel (s : State) (op : Nat) (m : MbCmd) : (s.taken op m).sys.configLevel = s.sys.configLevel := by
  unfold State.taken State.take
  cases (refOf op m).src <;> rfl

@[simp] theorem State.taken_sys_restarting (s : State) (op : Nat) (m : MbCmd) : (s.taken op m).sys.restarting = s.sys.restarting := by
  unfold State.taken State.take
  cases (refOf op m).src <;> rfl

@[simp] theorem State.taken_sys_activate (s : State) (op : Nat) (m : MbCmd) : (s.taken op m).sys.activate = s.sys.activate := by
  unfold State.taken State.take
  cases (refOf op m).src <;> rfl

@[simp] theorem State.taken_sys_restarts (s : State) (op : Nat) (m : MbCmd) : (s.taken op m).sys.restarts = s.sys.restarts := by
  unfold State.taken State.take
  cases (refOf op m).src <;> rfl

@[simp] theorem State.taken_sys_held (s : State) (op : Nat) (m : MbCmd) : (s.taken op m).sys.held = s.sys.held := by
  unfold State.taken State.take
  cases (refOf op m).src <;> rfl

@[simp] theorem State.taken_sys_staging (s : State) (op : Nat) (m : MbCmd) : (s.taken op m).sys.staging = s.sys.staging := by
  unfold State.taken State.take
  cases (refOf op m).src <;> rfl

@[simp] theorem State.taken_sys_flash (s : State) (op : Nat) (m : MbCmd) : (s.taken op m).sys.flash = s.sys.flash := by
  unfold State.taken State.take
  cases (refOf op m).src <;> rfl

@[simp] theorem State.taken_sys_flashJobs (s : State) (op : Nat) (m : MbCmd) : (s.taken op m).sys.flashJobs = s.sys.flashJobs := by
  unfold State.taken State.take
  cases (refOf op m).src <;> rfl

@[simp] theorem State.taken_sys_fuses (s : State) (op : Nat) (m : MbCmd) : (s.taken op m).sys.fuses = s.sys.fuses := by
  unfold State.taken State.take
  cases (refOf op m).src <;> rfl

@[simp] theorem State.taken_sys_fusesInForce (s : State) (op : Nat) (m : MbCmd) : (s.taken op m).sys.fusesInForce = s.sys.fusesInForce := by
  unfold State.taken State.take
  cases (refOf op m).src <;> rfl

@[simp] theorem State.taken_sys_fuseJob (s : State) (op : Nat) (m : MbCmd) : (s.taken op m).sys.fuseJob = s.sys.fuseJob := by
  unfold State.taken State.take
  cases (refOf op m).src <;> rfl

@[simp] theorem State.taken_host_vfEnable (s : State) (op : Nat) (m : MbCmd) : (s.taken op m).host.vfEnable = s.host.vfEnable := by
  unfold State.taken State.take
  cases (refOf op m).src <;> rfl

@[simp] theorem State.taken_host_linkUp (s : State) (op : Nat) (m : MbCmd) : (s.taken op m).host.linkUp = s.host.linkUp := by
  unfold State.taken State.take
  cases (refOf op m).src <;> rfl

@[simp] theorem State.taken_host_xlate (s : State) (op : Nat) (m : MbCmd) : (s.taken op m).host.xlate = s.host.xlate := by
  unfold State.taken State.take
  cases (refOf op m).src <;> rfl

@[simp] theorem State.taken_host_tlb (s : State) (op : Nat) (m : MbCmd) : (s.taken op m).host.tlb = s.host.tlb := by
  unfold State.taken State.take
  cases (refOf op m).src <;> rfl

@[simp] theorem State.taken_host_xfers (s : State) (op : Nat) (m : MbCmd) : (s.taken op m).host.xfers = s.host.xfers := by
  unfold State.taken State.take
  cases (refOf op m).src <;> rfl

@[simp] theorem State.taken_host_nextXfer (s : State) (op : Nat) (m : MbCmd) : (s.taken op m).host.nextXfer = s.host.nextXfer := by
  unfold State.taken State.take
  cases (refOf op m).src <;> rfl

@[simp] theorem State.taken_host_lastDom (s : State) (op : Nat) (m : MbCmd) : (s.taken op m).host.lastDom = s.host.lastDom := by
  unfold State.taken State.take
  cases (refOf op m).src <;> rfl

@[simp] theorem State.taken_host_copies (s : State) (op : Nat) (m : MbCmd) : (s.taken op m).host.copies = s.host.copies := by
  unfold State.taken State.take
  cases (refOf op m).src <;> rfl

@[simp] theorem State.taken_host_portWaits (s : State) (op : Nat) (m : MbCmd) : (s.taken op m).host.portWaits = s.host.portWaits := by
  unfold State.taken State.take
  cases (refOf op m).src <;> rfl

@[simp] theorem State.taken_host_perf (s : State) (op : Nat) (m : MbCmd) : (s.taken op m).host.perf = s.host.perf := by
  unfold State.taken State.take
  cases (refOf op m).src <;> rfl

@[simp] theorem State.taken_host_out (s : State) (op : Nat) (m : MbCmd) : (s.taken op m).host.out = s.host.out := by
  unfold State.taken State.take
  cases (refOf op m).src <;> rfl

@[simp] theorem State.taken_running (s : State) (op : Nat) (m : MbCmd) :
    (s.taken op m).sys.running = s.sys.running ++ [refOf op m] := by
  unfold State.taken State.take
  cases (refOf op m).src <;> rfl

/-- CMD_FULL clears and LAST_SEQ takes the sequence number of the command; the slot stands (R469, R470). -/
theorem State.taken_fn (s : State) (op : Nat) (m : MbCmd) (n : BitVec 7) (h : m.src = .fn n) :
    (s.taken op m).fn n.toNat = { s.fn n.toNat with cmdFull := false, lastSeq := (s.fn n.toNat).seq } := by
  have h1 : (refOf op m).src = .fn n := h
  unfold State.taken State.take
  rw [h1]
  simp [State.fn, State.modFn, State.setFn]

end Sys2Proof.Machine
end

