-- ==== Sys2Proof/Laws/Side.lean ====
section
/-! SUPPORT. Frames of the shared operations: `Side`, an operation that leaves the clock, fabric time, the channels, the samples, the
loops, the plate store, the impressions and the scheduler alone; `Work`, one that leaves all but the last two and free values alone. -/

namespace Sys2Proof.Machine

/-- The second state differs from the first in changes due, the pair, the mirror link, faults, firmware state and the host interface only. -/
def Side (s t : State) : Prop :=
  ∃ a p m f y h, t = { s with atTick := a, pair := p, mirror := m, faults := f, sys := y, host := h }

theorem Side.refl (s : State) : Side s s := ⟨_, _, _, _, _, _, rfl⟩
theorem Side.trans {s t u : State} (h : Side s t) (g : Side t u) : Side s u := by
  obtain ⟨a, b, c, d, e, f, rfl⟩ := h
  obtain ⟨a', b', c', d', e', f', rfl⟩ := g
  exact ⟨a', b', c', d', e', f', rfl⟩
theorem Side.ite {s t u : State} {c : Prop} [Decidable c] (h : Side s t) (g : Side s u) : Side s (if c then t else u) := by
  split <;> assumption
theorem Side.foldl {α : Type} (f : State → α → State) (h : ∀ t x, Side t (f t x)) (l : List α) (s : State) : Side s (l.foldl f s) := by
  induction l generalizing s with
  | nil => exact .refl s
  | cons x r ih => exact (h s x).trans (ih _)
theorem Side.told {s t : State} (h : Told s t) : Side s t := by obtain ⟨f, h, rfl⟩ := h; exact ⟨_, _, _, _, _, _, rfl⟩
theorem Side.spoke {s t : State} (h : Spoke s t) : Side s t := by obtain ⟨a, b, c, d, e, rfl⟩ := h; exact ⟨_, _, _, _, _, _, rfl⟩

theorem State.raise_side (s : State) (n : Nat) (sc : EvScope) (e : Ev) : Side s (s.raise n sc e) := .told (s.raise_told ..)
theorem State.raiseUnit_side (s : State) (n k i : Nat) (e : Ev) : Side s (s.raiseUnit n k i e) := .told (s.raise_told ..)
theorem State.answer_side (s : State) (c : CmdRef) (st : Nat) (p : List (Nat × Nat)) : Side s (s.answer c st p) := .spoke (s.answer_spoke ..)
theorem State.answerAt_side (s : State) (t : Nat) (c : CmdRef) (st f d : Nat) (p : List (Nat × Nat)) : Side s (s.answerAt t c st f d p) :=
  .spoke (s.answerAt_spoke ..)
theorem State.due_side (s : State) (o : TickOp) : Side s (s.due o) := ⟨_, _, _, _, _, _, rfl⟩
theorem State.answerDue_side (s : State) (c : CmdRef) (st : Nat) (p : List (Nat × Nat)) : Side s (s.answerDue c st p) := s.due_side _
theorem State.emit_side (s : State) (o : Out) : Side s (s.emit o) := ⟨_, _, _, _, _, _, rfl⟩
theorem State.tallyIf_side (s : State) (e : Nat) (p : Nat → Bool) (n : Nat) : Side s (s.tallyIf e p n) := ⟨_, _, _, _, _, _, rfl⟩
theorem State.tally_side (s : State) (e n : Nat) : Side s (s.tally e n) := s.tallyIf_side ..
theorem State.newXfer_side (s : State) (d : Nat) (u : XferUse) (a b : Bool) (i l : Nat) (x : List Byte) : Side s (s.newXfer d u a b i l x) :=
  .told (s.newXfer_told ..)

theorem State.mirrorTx_side (s : State) (t : Nat) (p : List Byte) : Side s (s.mirrorTx t p) := by
  unfold State.mirrorTx
  exact .ite ⟨_, _, _, _, _, _, rfl⟩ (.refl s)
theorem State.mirrorSend_side (s : State) (t : Nat) (p : List Byte) : Side s (s.mirrorSend t p) := by
  unfold State.mirrorSend
  exact .ite (s.mirrorTx_side ..) (.refl s)

theorem State.startSwap_side (s : State) (c : Option CmdRef) (b : Bool) : Side s (s.startSwap c b) := by
  unfold State.startSwap
  repeat' (first | exact .refl s | exact State.raise_side .. | exact ⟨_, _, _, _, _, _, rfl⟩ | exact State.answer_side .. | refine Side.ite ?_ ?_ | split)

theorem State.requestSwap_side (s : State) : Side s s.requestSwap := by
  unfold State.requestSwap
  refine .ite (Side.trans (Side.trans ⟨_, _, _, _, _, _, rfl⟩ (State.raise_side ..)) (State.startSwap_side ..)) (.refl s)

theorem State.overflowAct_side (s : State) : Side s s.overflowAct := by
  unfold State.overflowAct State.unhealthy
  refine .ite (.ite s.requestSwap_side (.ite (s.due_side _) (.refl s))) ?_
  exact .ite (Side.trans ⟨_, _, _, _, _, _, rfl⟩ (State.raise_side ..)) (.refl s)

theorem State.postEntry_side (s : State) (e : FEntry) : Side s (s.postEntry e) := by
  unfold State.postEntry
  refine .ite ⟨_, _, _, _, _, _, rfl⟩ (.ite ⟨_, _, _, _, _, _, rfl⟩ ?_)
  exact Side.trans (Side.trans ⟨_, _, _, _, _, _, rfl⟩ (State.raise_side ..)) (State.overflowAct_side _)

theorem State.queueFailure_side (s : State) (k i r d c : Nat) (f p : Bool) : Side s (s.queueFailure k i r d c f p) := by
  unfold State.queueFailure
  split
  · extract_lets esc e' src s1
    refine .ite (Side.trans ⟨_, _, _, _, _, _, rfl⟩ (State.raise_side ..)) ⟨_, _, _, _, _, _, rfl⟩
  · exact .ite (s.postEntry_side _) (.refl s)

/-- A failure touches faults, a requested swap, and the host interface (R366 to R368, R374). -/
theorem State.fail_side (s : State) (k i r d : Nat) (l : List Nat) (c r4 : Bool) : Side s (s.fail k i r d l c r4) := by
  unfold State.fail
  extract_lets u perm fresh all dates count flags s1 src s2 s3 s4
  have h2 : Side s s2 := ⟨_, _, _, _, _, _, rfl⟩
  have h3 : Side s s3 := h2.trans (Side.foldl _ (fun t x => t.raiseUnit_side ..) _ _)
  have h4 : Side s s4 := Side.ite (h3.trans (State.queueFailure_side ..)) h3
  exact .ite ((h4.trans (State.raise_side ..)).trans (State.requestSwap_side _)) h4

theorem State.withdraw_side (s : State) (k i : Nat) : Side s (s.withdraw k i) := by
  unfold State.withdraw
  exact .ite (.refl s) ⟨_, _, _, _, _, _, rfl⟩

/-- The second state differs from the first in what `Side` allows, impressions, the scheduler and free values only. -/
def Work (s t : State) : Prop :=
  ∃ a p m f y h i sc b, t = { s with
    atTick := a, pair := p, mirror := m, faults := f, sys := y, host := h, imp := i, sched := sc, burin := { s.burin with free := b } }

theorem Work.refl (s : State) : Work s s := ⟨_, _, _, _, _, _, _, _, _, rfl⟩
theorem Work.trans {s t u : State} (h : Work s t) (g : Work t u) : Work s u := by
  obtain ⟨a, b, c, d, e, f, i, sc, w, rfl⟩ := h
  obtain ⟨a', b', c', d', e', f', i', sc', w', rfl⟩ := g
  exact ⟨a', b', c', d', e', f', i', sc', w', rfl⟩
theorem Work.ite {s t u : State} {c : Prop} [Decidable c] (h : Work s t) (g : Work s u) : Work s (if c then t else u) := by
  split <;> assumption
theorem Work.foldl {α : Type} (f : State → α → State) (h : ∀ t x, Work t (f t x)) (l : List α) (s : State) : Work s (l.foldl f s) := by
  induction l generalizing s with
  | nil => exact .refl s
  | cons x r ih => exact (h s x).trans (ih _)
theorem Work.side {s t : State} (h : Side s t) : Work s t := by
  obtain ⟨a, b, c, d, e, f, rfl⟩ := h; exact ⟨_, _, _, _, _, _, _, _, _, rfl⟩

theorem State.setDomain_work (s : State) (d : Nat) (x : Domain) : Work s (s.setDomain d x) := ⟨_, _, _, _, _, _, _, _, _, rfl⟩
theorem State.setQueue_work (s : State) (d i : Nat) (x : Queue) : Work s (s.setQueue d i x) := ⟨_, _, _, _, _, _, _, _, _, rfl⟩
theorem State.complete_work (s : State) (r : Req) (a b c d e : Nat) : Work s (s.complete r a b c d e) := by
  unfold State.complete
  exact .ite (.refl s) ⟨_, _, _, _, _, _, _, _, _, rfl⟩
theorem State.completeBare_work (s : State) (r : Req) (a b : Nat) : Work s (s.completeBare r a b) := by
  unfold State.completeBare State.landed
  exact (State.setQueue_work ..).trans (State.complete_work ..)
theorem State.mirrorRequestOf_side (s : State) (d i : Nat) (g : Option (BitVec 256 × Nat)) : Side s (s.mirrorRequestOf d i g) := s.mirrorSend_side ..
theorem State.fresh_work (s : State) : Work s s.fresh.2 := ⟨_, _, _, _, _, _, _, _, _, rfl⟩
theorem State.fetch_work (s : State) (d i : Nat) : Work s (s.fetch d i) := by
  unfold State.fetch
  extract_lets q at_ avail n f
  have hf : Work s f.2 := s.fresh_work
  clear_value f
  refine .ite (.refl s) (.ite (.refl s) ?_)
  exact (hf.trans (State.setQueue_work ..)).trans (.side (State.newXfer_side ..))
theorem State.refuse_work (s : State) (d i st : Nat) (l : Bool) : Work s (s.refuse d i st l) := by
  unfold State.refuse
  extract_lets q
  split
  · exact .refl s
  · refine .ite (.refl s) ?_
    exact ((((State.setQueue_work ..).trans (State.setDomain_work ..)).trans (State.complete_work ..)).trans (.side (State.mirrorRequestOf_side ..))).trans
      (State.fetch_work ..)
theorem State.checkHead_work (s : State) (d i : Nat) : Work s (s.checkHead d i) := by
  unfold State.checkHead
  extract_lets q
  repeat' (first | exact .refl s | exact State.setQueue_work .. | exact State.refuse_work .. | refine Work.ite ?_ ?_ | split)
theorem State.recheckHeads_work (s : State) : Work s s.recheckHeads :=
  Work.foldl _ (fun t x => .ite (t.checkHead_work ..) (.refl t)) _ _

theorem State.returnReqs_work (s : State) (l : List (Req × Nat)) : Work s (s.returnReqs l) := by
  unfold State.returnReqs
  exact Work.trans ⟨_, _, _, _, _, _, _, _, _, rfl⟩ (Work.foldl _ (fun t x => t.completeBare_work ..) _ _)
theorem State.discardBatches_work (s : State) (l : List Nat) : Work s (s.discardBatches l) := by
  unfold State.discardBatches
  exact (Work.trans ⟨_, _, _, _, _, _, _, _, _, rfl⟩ (.side (State.tally_side ..))).trans (State.returnReqs_work ..)
theorem State.dropArmed_work (s : State) (o : Nat) : Work s (s.dropArmed o) := ⟨_, _, _, _, _, _, _, _, _, rfl⟩
/-- A discarded impression leaves the channels, the samples and the clock alone (R228). -/
theorem State.discardArmed_work (s : State) (a : Armed) (st : Nat) (e : Bool) : Work s (s.discardArmed a st e) := by
  unfold State.discardArmed when
  extract_lets s1 s2
  have h1 : Work s s1 := .ite ((s.dropArmed_work _).trans (.side (State.raise_side ..))) (s.dropArmed_work _)
  have h2 : Work s s2 := by
    simp only [s2]
    split
    · exact h1.trans (.side (State.answer_side ..))
    · exact h1
  split
  · exact h2.trans (State.discardBatches_work ..)
  · exact h2

theorem State.modProof_work (s : State) (q : Nat) (f : ProofRec → ProofRec) : Work s (s.modProof q f) := ⟨_, _, _, _, _, _, _, _, _, rfl⟩
theorem State.mirrorProofOf_side (s : State) (q : Nat) : Side s (s.mirrorProofOf q) := by
  unfold State.mirrorProofOf
  split
  · exact State.mirrorSend_side ..
  · exact .refl s
theorem State.completeProved_work (s : State) (q i b : Nat) : Work s (s.completeProved q i b) := by
  unfold State.completeProved
  split
  · exact .refl s
  · extract_lets time rest done src s1
    have h1 : Work s s1 := .ite ⟨_, _, _, _, _, _, _, _, _, rfl⟩ ⟨_, _, _, _, _, _, _, _, _, rfl⟩
    exact h1.trans (Work.foldl _ (fun t x => t.complete_work ..) _ _)
/-- The final result of a circuit touches its records, its request and what is told of it (R242 to R251). -/
theorem State.finalResult_work (s : State) (i e : Nat) (o : Option Nat) (f b : Nat) : Work s (s.finalResult i e o f b) := by
  unfold State.finalResult
  exact (Work.foldl _ (fun t x => (t.modProof_work ..).trans (.side (State.mirrorProofOf_side ..))) _ _).trans (State.completeProved_work ..)
theorem State.endAwaiting_work (s : State) (l : List (Nat × Nat × Nat)) (b : Nat) : Work s (s.endAwaiting l b) :=
  Work.foldl _ (fun t x => t.finalResult_work ..) _ _

theorem State.localise_work (s : State) (it : ProofItem) : Work s (s.localise it) := by
  unfold State.localise
  exact (Work.side (State.raise_side ..)).trans ⟨_, _, _, _, _, _, _, _, _, rfl⟩
theorem State.firstResult_work (s : State) (r : ProofRec) (b : Bool) (n : Nat) : Work s (s.firstResult r b n) := by
  unfold State.firstResult
  extract_lets u
  have h : Work s u := State.modProof_work ..
  split
  · exact h.trans (.side (State.answerAt_side ..))
  · exact h

theorem State.resultOf_work (s : State) (it : ProofItem) : Work s (s.resultOf it) := by
  unfold State.resultOf
  extract_lets n out fin failed lat
  have ho : Work s (out s) := ⟨_, _, _, _, _, _, _, _, _, rfl⟩
  have hf : ∀ b, Work s (fin b) := fun b => ho.trans (State.finalResult_work ..)
  have hr : ∀ t : State, Work t (t.armRetry it) := fun t => by
    unfold State.armRetry
    extract_lets s1 x v
    exact (Work.side (State.raise_side ..)).trans ⟨_, _, _, _, _, _, _, _, _, rfl⟩
  have hF : Work s failed := .ite ((hf 3).trans (State.localise_work ..)) (ho.trans (hr _))
  refine .ite (ho.trans (State.finalResult_work ..)) ?_
  split
  · exact .ite hF (Work.trans ⟨_, _, _, _, _, _, _, _, _, rfl⟩ (.side (State.tally_side ..)))
  · exact hf _
  · exact hf _
  · exact hF

/-- The results of a record at its position touch records, requests and what is told of them (R235 to R244). -/
theorem State.resultsOf_work (s : State) (q : Nat) : Work s (s.resultsOf q) := by
  unfold State.resultsOf
  extract_lets items range3 s1 before after s2
  have h1 : Work s s1 := Work.foldl _ (fun t x => t.resultOf_work x) _ _
  have h2 : Work s s2 := by
    simp only [s2]
    split
    · exact .ite h1 (h1.trans (State.firstResult_work ..))
    · exact h1
  exact h2.trans (.side (State.mirrorProofOf_side ..))

theorem State.completePlain_work (s : State) : Work s s.completePlain := by
  unfold State.completePlain
  refine Work.foldl _ (fun t b => ?_) _ _
  split
  · exact Work.foldl _ (fun t r => .ite (.refl t) (t.completeProved_work ..)) _ _
  · exact .refl t

end Sys2Proof.Machine
end

