-- ==== Sys2Proof/Laws/Resets.lean ====
section
/-! SUPPORT. Resets, restarts and links that go down: what each shared operation of them leaves. -/

namespace Sys2Proof.Machine

structure Core (s t : State) : Prop where
  clk : t.clk = s.clk
  re : t.sys.restarting = s.sys.restarting
  res : t.sys.restarts = s.sys.restarts
  time : t.ft.t = s.ft.t
  st : t.ft.state = s.ft.state

theorem Core.refl (s : State) : Core s s := ⟨rfl, rfl, rfl, rfl, rfl⟩

theorem Core.trans {s t u : State} (h : Core s t) (g : Core t u) : Core s u :=
  ⟨g.clk.trans h.clk, g.re.trans h.re, g.res.trans h.res, g.time.trans h.time, g.st.trans h.st⟩

theorem Core.pre {s u v : State} (g : Core u v) (h1 : u.clk = s.clk) (h2 : u.sys.restarting = s.sys.restarting)
    (h3 : u.sys.restarts = s.sys.restarts) (h4 : u.ft = s.ft) : Core s v :=
  Core.trans ⟨h1, h2, h3, by rw [h4], by rw [h4]⟩ g

theorem Core.told {s t : State} (h : Told s t) : Core s t := by obtain ⟨f, h, rfl⟩ := h; exact ⟨rfl, rfl, rfl, rfl, rfl⟩

theorem Core.spoke {s t : State} (h : Spoke s t) : Core s t := by obtain ⟨a, b, c, d, e, rfl⟩ := h; exact ⟨rfl, rfl, rfl, rfl, rfl⟩

theorem Core.ite {s t u : State} {c : Prop} [Decidable c] (h : Core s t) (g : Core s u) : Core s (if c then t else u) := by split <;> assumption

theorem Core.foldl {α : Type} (f : State → α → State) (h : ∀ t x, Core t (f t x)) (l : List α) (s : State) : Core s (l.foldl f s) := by
  induction l generalizing s with
  | nil => exact .refl s
  | cons x r ih => exact (h s x).trans (ih _)

theorem core_same {s t : State} (h1 : t.clk = s.clk) (h2 : t.sys.restarting = s.sys.restarting) (h3 : t.sys.restarts = s.sys.restarts) (h4 : t.ft = s.ft) : Core s t :=
  ⟨h1, h2, h3, by rw [h4], by rw [h4]⟩

theorem endCommands_core (s : State) : Core s s.endCommands := by
  unfold State.endCommands
  extract_lets s1 src s2
  have h1 : Core s s1 := Core.foldl _ (fun t r => by split; exact .spoke (State.answer_spoke ..); exact .refl t) _ _
  have h2 : Core s s2 := h1.trans (core_same rfl rfl rfl rfl)
  split
  · refine .ite ?_ (h2.trans (.spoke (State.answer_spoke ..)))
    exact h2.trans (core_same rfl rfl rfl rfl)
  · exact h2

theorem endLease_core (s : State) (a b : Bool) : Core s (s.endLease a b) := by
  unfold State.endLease
  refine .ite (.refl s) ?_
  extract_lets target src s1 s2 srcp srcm srcd s3 s4
  have h1 : Core s s1 := core_same rfl rfl rfl rfl
  have h2 : Core s s2 := h1.trans (endCommands_core _)
  have h3 : Core s s3 := h2.trans (core_same rfl rfl rfl rfl)
  have h4 : Core s s4 := .ite (h3.trans (.told (State.raiseCore_told ..))) h3
  exact .ite (h4.trans (core_same rfl rfl rfl rfl)) h4

theorem setNow_core (s : State) (i code : Nat) : Core s (s.setNow i code) := by
  unfold State.setNow
  exact .ite (.refl s) (core_same rfl rfl rfl rfl)

theorem applyMirror_core (s : State) (img : PlateImg) (p n : Nat) : Core s (s.applyMirror img p n) := by
  unfold State.applyMirror
  extract_lets cells old changed s1
  have h1 : Core s s1 := by
    apply Core.foldl
    intro t c
    extract_lets code t1
    have h : Core t t1 := setNow_core ..
    exact h.trans (core_same rfl rfl rfl rfl)
  exact h1.trans (core_same rfl rfl rfl rfl)

theorem confirmTags_core (s : State) (l : List (Nat × Nat)) (q t : Nat) : Core s (s.confirmTags l q t) := by
  unfold State.confirmTags
  exact .ite (.refl s) (core_same rfl rfl rfl rfl)

theorem applyNamed_core (s : State) : Core s s.applyNamed := by
  unfold State.applyNamed
  split
  · exact .refl s
  · extract_lets src s1
    have h1 : Core s s1 := Core.pre (applyMirror_core ..) rfl rfl rfl rfl
    exact .ite (h1.trans (confirmTags_core ..)) h1

theorem restartLoops_core (s : State) : Core s s.restartLoops := by
  unfold State.restartLoops
  refine .foldl _ (fun t i => ?_) _ _
  exact .ite (.refl t) (.ite ⟨rfl, rfl, rfl, rfl, rfl⟩ ⟨rfl, rfl, rfl, rfl, rfl⟩)

theorem swapWatch_core (s : State) : Core s s.swapWatch := by
  unfold State.swapWatch
  split
  · exact .refl s
  · refine .ite (.refl s) ?_
    extract_lets src s1 s2
    have h1 : Core s s1 := core_same rfl rfl rfl rfl
    have h2 : Core s s2 := .ite (h1.trans (restartLoops_core _)) h1
    split
    · exact .ite (h2.trans (Core.pre (.spoke (State.answer_spoke ..)) rfl rfl rfl rfl)) (h2.trans (.spoke (State.answer_spoke ..)))
    · exact h2.trans (Core.pre (.told (State.raise_told ..)) rfl rfl rfl rfl)

theorem laneDown_core (s : State) (b : Bool) : Core s (s.laneDown b) := by
  unfold State.laneDown
  extract_lets m was other s1 src s2
  refine .ite (.refl s) ?_
  have h1 : Core s s1 := by cases b <;> exact core_same rfl rfl rfl rfl
  refine .ite (h1.trans (.told (State.raise_told ..))) ?_
  have h2 : Core s s2 := h1.trans (core_same rfl rfl rfl rfl)
  refine (((h2.trans (.told (State.raise_told s2 68 .m {}))).trans (applyNamed_core _)).trans ?_).trans (swapWatch_core _)
  unfold State.checkExtension
  exact .ite (endLease_core ..) (.refl _)

/-- The ports: fabric time goes on. -/
structure Hold (s t : State) : Prop where
  clk : t.clk = s.clk
  time : t.ft.t = s.ft.t
  st : t.ft.state = s.ft.state ∨ t.ft.state = .holdover

theorem Hold.of {s t : State} (h : Core s t) : Hold s t := ⟨h.clk, h.time, .inl h.st⟩

theorem Hold.trans {s t u : State} (h : Hold s t) (g : Hold t u) : Hold s u :=
  ⟨g.clk.trans h.clk, g.time.trans h.time, by rcases g.st with e | e; rw [e]; exact h.st; exact .inr e⟩

theorem holdover_hold (s : State) : Hold s s.holdover := by
  unfold State.holdover
  split
  · have h := State.raise_told (({ s with ft := { s.ft with cleared := s.remaining, rem := 0 } } : State).servoTo .holdover) 52 .a {}
    obtain ⟨f, h, e⟩ := h
    rw [e]; exact ⟨rfl, rfl, .inr rfl⟩
  · exact .of (.refl s)

theorem setPtp_core (s : State) (b : Bool) (p : PtpPort) : Core s (s.setPtp b p) := by
  unfold State.setPtp; split <;> exact ⟨rfl, rfl, rfl, rfl, rfl⟩

theorem checkSource_hold (s : State) : Hold s s.checkSource := by
  unfold State.checkSource
  split
  · exact holdover_hold _
  · exact .of (.refl s)

theorem selectPort_hold (s : State) : Hold s s.selectPort := by
  unfold State.selectPort
  extract_lets has better sel src s1
  have h1 : Core s s1 := .ite (.refl s) (Core.trans (t := { s with ft := { s.ft with selected := sel } }) ⟨rfl, rfl, rfl, rfl, rfl⟩ (.told (State.raise_told ..)))
  exact (Hold.of h1).trans (checkSource_hold _)

theorem portDown_hold (s : State) (b : Bool) : Hold s (s.portDown b) := by
  unfold State.portDown State.loseMaster
  exact (Hold.of ((setPtp_core ..).trans (setPtp_core ..))).trans (selectPort_hold _)

theorem runImage_find (s : State) (b : Bool) : (s.runImage b).atTick = s.atTick := rfl

theorem bytes_length (d : Byte) (m : Mem) (a n : Nat) : (Mem.bytes d m a n).length = n := by
  induction n generalizing a with
  | zero => rfl
  | succ n ih => simp [Mem.bytes, ih]

theorem bytes_get (d : Byte) (m : Mem) (a n k : Nat) (h : k < n) : (Mem.bytes d m a n)[k]? = some (Mem.byte d m (a + k)) := by
  induction n generalizing a k with
  | zero => omega
  | succ n ih =>
    cases k with
    | zero => simp [Mem.bytes]
    | succ k => simp only [Mem.bytes, List.getElem?_cons_succ]; rw [ih _ _ (by omega)]; congr 2; omega

theorem setSpare_core (s : State) (g : Nat) (v : Option (Nat × Bool)) : Core s (s.setSpare g v) := by
  unfold State.setSpare
  extract_lets src new
  have hn : Core s new := ⟨rfl, rfl, rfl, rfl, rfl⟩
  refine hn.trans ?_
  clear_value new
  unfold State.placeGroup
  extract_lets s1
  have h1 : Core new s1 := by
    apply Core.foldl
    intro t x
    exact .ite (.refl t) ⟨rfl, rfl, rfl, rfl, rfl⟩
  refine h1.trans ?_
  apply Core.foldl
  intro t x
  exact ⟨rfl, rfl, rfl, rfl, rfl⟩

theorem modSch_core (s : State) (x : Nat) (f : SenseCh → SenseCh) : Core s (s.modSch x f) := ⟨rfl, rfl, rfl, rfl, rfl⟩

theorem setTia_core (s : State) (x r : Nat) : Core s (s.setTia x r) := by
  unfold State.setTia State.keepWord
  exact .ite (.refl s) (Core.pre (modSch_core ..) rfl rfl rfl rfl)

theorem returnTias_core (s : State) (p : Nat → Bool) : Core s (s.returnTias p) := by
  unfold State.returnTias
  apply Core.foldl
  intro t e
  unfold State.returnTia
  split
  · exact .refl t
  · exact .ite (.refl t) (Core.pre (setTia_core ..) rfl rfl rfl rfl)

theorem atTickNow_core (s : State) (o : TickOp) (f : State → State) (h : Core s (f s)) : Core s (s.atTickNow o f) := by
  unfold State.atTickNow
  exact .ite h ⟨rfl, rfl, rfl, rfl, rfl⟩

theorem rejectRun_core (s : State) (n r f : Nat) : Core s (s.rejectRun n r f) := by
  have sp : ∀ (u : State) g, Core u (u.returnSpare g) := by
    intro u g
    unfold State.returnSpare
    refine .ite (.refl u) ?_
    extract_lets s1
    have h1 : Core u s1 := by
      simp only [s1]; split
      · exact setSpare_core ..
      · exact .refl u
    clear_value s1
    exact h1.trans (Core.pre (returnTias_core ..) rfl rfl rfl rfl)
  have al : ∀ (u : State) g b, Core u (u.allEnded g b) := by
    intro u g b
    unfold State.allEnded
    split
    · exact .refl u
    · refine .ite (.refl u) ?_
      extract_lets l1 first1 bad1 src s1 k
      refine .ite ?_ ⟨rfl, rfl, rfl, rfl, rfl⟩
      exact Core.trans (t := s1) ⟨rfl, rfl, rfl, rfl, rfl⟩ (.spoke (State.answerAt_spoke ..))
  unfold State.rejectRun
  extract_lets x s1 src s2 s3 s4 s5
  have h1 : Core s s1 := ⟨rfl, rfl, rfl, rfl, rfl⟩
  have tn : ∀ u : State, Core u u.returnTones := by
    intro u
    unfold State.returnTones
    exact Core.trans (t := { u with cal := { u.cal with toneBack := [] } }) ⟨rfl, rfl, rfl, rfl, rfl⟩
      (Core.foldl (fun (t : State) (e : Nat × Nat) => t.modDch e.1 (fun d => { d with a := e.2 })) (fun _ _ => ⟨rfl, rfl, rfl, rfl, rfl⟩) _ _)
  have h2 : Core s s2 := .ite (Core.trans (t := { s1 with cal := { s1.cal with fabric := none, hatchSets := [], hatchBack := [] } })
    (h1.trans ⟨rfl, rfl, rfl, rfl, rfl⟩) (tn _)) h1
  have h3 : Core s s3 := .ite (h2.trans (atTickNow_core _ _ _ (sp _ _))) h2
  have h4 : Core s s4 := h3.trans (.told (State.raise_told ..))
  have h5 : Core s s5 := by
    simp only [s5]; split
    · exact h4.trans (.spoke (State.answerAt_spoke ..))
    · exact h4
  exact h5.trans (al _ _ _)

/-- What QUEUE_RESET makes of a queue. -/
def cleared (q : Queue) : Queue :=
  { ((((q.setDescs []).put 4 1 0).put 80 12 q.tail).setTimed false) with checked := false, late := false, due := none, fetching := 0 }

theorem cleared_on (q : Queue) : (cleared q).on = false := by
  show Nat.testBit _ 4 = false
  unfold cleared Queue.setTimed
  show (Queue.word (Queue.put _ _ _ _)).toNat.testBit 4 = false
  rw [Queue.testBit_put _ _ _ _ _ (by decide), if_neg (by decide), Queue.testBit_put _ _ _ _ _ (by decide), if_neg (by decide),
    Queue.testBit_put _ _ _ _ _ (by decide), if_pos (by decide)]
  rfl

theorem cleared_tail (q : Queue) : (cleared q).tail = q.tail := by
  show Queue.get _ 64 12 = q.get 64 12
  show Queue.get (Queue.put (Queue.put (Queue.put (Queue.put q 96 3 0) 4 1 0) 80 12 q.tail) 105 1 _) 64 12 = _
  rw [Queue.get_put_ne _ _ _ _ _ _ (by decide) (by decide), Queue.get_put_ne _ _ _ _ _ _ (by decide) (by decide),
    Queue.get_put_ne _ _ _ _ _ _ (by decide) (by decide), Queue.get_put_ne _ _ _ _ _ _ (by decide) (by decide)]

theorem cleared_head (q : Queue) : (cleared q).head = q.tail := by
  show Queue.get _ 80 12 = _
  show Queue.get (Queue.put (Queue.put (Queue.put (Queue.put q 96 3 0) 4 1 0) 80 12 q.tail) 105 1 _) 80 12 = _
  rw [Queue.get_put_ne _ _ _ _ _ _ (by decide) (by decide), Queue.get_put _ _ _ _ (by decide)]
  exact Nat.mod_eq_of_lt (Nat.mod_lt _ (Nat.two_pow_pos _))

structure Swept (n : Nat) (s t : State) : Prop where
  form : ∃ q x, t = { s with sched := { s.sched with queues := q }, host := { s.host with xfers := x } }
  xf : t.host.xfers.filter (fun x => decide (x.dom ≠ n)) = s.host.xfers.filter (fun x => decide (x.dom ≠ n))

theorem resetQueue_swept (s : State) (n i : Nat) : Swept n s (s.resetQueue n i) := by
  refine ⟨⟨_, _, rfl⟩, ?_⟩
  show List.filter _ (List.filter _ s.host.xfers) = _
  rw [List.filter_filter]
  apply List.filter_congr
  intro x _
  by_cases h : x.dom = n <;> simp [h]

theorem Swept.trans {n : Nat} {s t u : State} (h : Swept n s t) (g : Swept n t u) : Swept n s u := by
  obtain ⟨⟨q, x, rfl⟩, h2⟩ := h
  obtain ⟨⟨q', x', rfl⟩, g2⟩ := g
  exact ⟨⟨q', x', rfl⟩, g2.trans h2⟩

theorem resetQueue_queue (s : State) (n i k j : Nat) :
    (s.resetQueue n i).queue k j = if qKey n i = qKey k j then cleared (s.queue n i) else s.queue k j := by
  show rd (wr _ _ _) _ _ = _
  rw [rd_wr]; rfl

theorem foldQueues (n : Nat) (l : List (Nat × Queue)) (hl : ∀ e ∈ l, e.1 / 512 = n) (s : State) :
    Swept n s (l.foldl (fun t e => t.resetQueue n (e.1 % 512)) s) ∧
    (∀ k j, qKey k j ∉ l.map Prod.fst → (l.foldl (fun t e => t.resetQueue n (e.1 % 512)) s).queue k j = s.queue k j) ∧
    (∀ k j, qKey k j ∈ l.map Prod.fst → ((l.foldl (fun t e => t.resetQueue n (e.1 % 512)) s).queue k j).on = false ∧
      ((l.foldl (fun t e => t.resetQueue n (e.1 % 512)) s).queue k j).descs = [] ∧
      ((l.foldl (fun t e => t.resetQueue n (e.1 % 512)) s).queue k j).head = (s.queue k j).tail) := by
  have key : ∀ e : Nat × Queue, e.1 / 512 = n → qKey n (e.1 % 512) = e.1 := by intro e h; unfold qKey; omega
  have rdq : ∀ (u : State) k j k' j', qKey k j = qKey k' j' → u.queue k j = u.queue k' j' := by
    intro u k j k' j' h; unfold State.queue; rw [h]
  induction l generalizing s with
  | nil => exact ⟨⟨⟨_, _, rfl⟩, rfl⟩, fun _ _ _ => rfl, fun k j h => by cases h⟩
  | cons e r ih =>
    have hr := ih (fun x hx => hl x (List.mem_cons_of_mem _ hx)) (s.resetQueue n (e.1 % 512))
    have he := key e (hl e List.mem_cons_self)
    obtain ⟨a, b, c⟩ := hr
    refine ⟨(resetQueue_swept ..).trans a, fun k j h => ?_, fun k j h => ?_⟩
    · simp only [List.map_cons, List.mem_cons, not_or] at h
      rw [List.foldl_cons, b k j h.2, resetQueue_queue, he, if_neg (fun h' => h.1 h'.symm)]
    · rw [List.foldl_cons]
      by_cases hm : qKey k j ∈ r.map Prod.fst
      · obtain ⟨c1, c2, c3⟩ := c k j hm
        refine ⟨c1, c2, ?_⟩
        rw [c3, resetQueue_queue]
        split
        · rename_i h'; rw [cleared_tail, rdq s _ _ _ _ h']
        · rfl
      · rw [b k j hm, resetQueue_queue]
        simp only [List.map_cons, List.mem_cons] at h
        rcases h with h | h
        · rw [he, if_pos h.symm]
          refine ⟨cleared_on _, rfl, ?_⟩
          rw [cleared_head, rdq s n (e.1 % 512) k j (he.trans h.symm)]
        · exact absurd h hm

theorem find?_none_of_not_mem {α : Type} (t : Tbl α) (i : Nat) (h : i ∉ t.map Prod.fst) : find? t i = none := by
  induction t with
  | nil => rfl
  | cons e r ih =>
    obtain ⟨k, v⟩ := e
    simp only [List.map_cons, List.mem_cons, not_or] at h
    simp only [find?]
    rw [if_neg (fun h' => h.1 h'.symm), ih h.2]

/-- What the drop of a domain's buffers leaves alone: all but what is read and staged. -/
theorem freeBuffers_spec (s : State) (n : Nat) :
    ∃ r b, s.freeBuffers n = { s with desc := { s.desc with reading := r }, sys := { s.sys with staging := b } } := by
  unfold State.freeBuffers
  generalize s.host.xfers.filter _ = l
  induction l generalizing s with
  | nil => exact ⟨_, _, rfl⟩
  | cons y l ih =>
    obtain ⟨r, b, h⟩ := ih (match y.use with | .read _ u => s.abortUse u | _ => s)
    refine ⟨r, b, h.trans ?_⟩
    split
    · unfold State.abortUse
      split <;> rfl
    · rfl

theorem resetFn_spec (s : State) (n : Nat) :
    (s.resetFn n).fn n = { Fn.init with d3 := (s.fn n).d3, aerUr := (s.fn n).aerUr } ∧
    (∀ k, k ≠ n → (s.resetFn n).fn k = s.fn k ∧ (s.resetFn n).domain k = s.domain k ∧ (s.resetFn n).xlate k = s.xlate k ∧
      ∀ i, i < 512 → (s.resetFn n).queue k i = s.queue k i) ∧
    (∀ i, i < 512 → ((s.resetFn n).queue n i).on = false ∧ ((s.resetFn n).queue n i).descs = [] ∧
      ((s.resetFn n).queue n i).head = (s.queue n i).tail) ∧
    (s.resetFn n).domain n = { s.domain n with cBase := 0, cK := 0, cWrite := 0, cPhase := true, cHead := 0, cReserved := 0 } ∧
    (s.resetFn n).xlate n = { s.xlate n with stopped := false } ∧
    (s.resetFn n).host.xfers = s.host.xfers.filter (fun x => decide (x.dom ≠ n)) ∧
    (∃ h sc run held rd st, s.resetFn n = { s with
        host := h, sched := sc, desc := { s.desc with reading := rd },
        sys := { s.sys with running := run, held := held, staging := st } } ∧
      sc.slotA = s.sched.slotA ∧ sc.slotB = s.sched.slotB ∧ h.vfEnable = s.host.vfEnable) := by
  have hf := foldQueues n ((s.setFn n { Fn.init with d3 := (s.fn n).d3, aerUr := (s.fn n).aerUr }).sched.queues.filter (fun e => decide (e.1 / 512 = n)))
    (fun e he => by simpa using (List.mem_filter.mp he).2) (s.setFn n { Fn.init with d3 := (s.fn n).d3, aerUr := (s.fn n).aerUr })
  unfold State.resetFn
  extract_lets f s1 s2 x s3 s4 drop mine
  obtain ⟨⟨⟨q, xs, e⟩, a2⟩, b, c⟩ := hf
  have e2 : s2 = { s1 with sched := { s1.sched with queues := q }, host := { s1.host with xfers := xs } } := e
  have hb : ∀ k j, qKey k j ∉ (s1.sched.queues.filter (fun e => decide (e.1 / 512 = n))).map Prod.fst → s2.queue k j = s1.queue k j := b
  have hc : ∀ k j, qKey k j ∈ (s1.sched.queues.filter (fun e => decide (e.1 / 512 = n))).map Prod.fst → (s2.queue k j).on = false ∧ (s2.queue k j).descs = [] ∧ (s2.queue k j).head = (s1.queue k j).tail := c
  have hx : s2.host.xfers.filter (fun x => decide (x.dom ≠ n)) = s.host.xfers.filter (fun x => decide (x.dom ≠ n)) := a2
  clear a2 b c e
  have q3 : ∀ k j, s3.queue k j = s2.queue k j := fun _ _ => rfl
  have dom2 : ∀ k, s2.domain k = s.domain k := by intro k; rw [e2]; rfl
  obtain ⟨rr, rb, e4⟩ : ∃ r b, s4 = { s3 with desc := { s3.desc with reading := r }, sys := { s3.sys with staging := b } } :=
    freeBuffers_spec s3 n
  clear_value s4
  subst e4
  have xl2 : ∀ k, s3.xlate k = s.xlate k := by intro k; show rd s2.host.xlate k _ = _; rw [e2]; rfl
  refine ⟨?_, fun k hk => ⟨?_, ?_, ?_, fun i hi => ?_⟩, fun i hi => ?_, ?_, ?_, ?_, ?_⟩
  · show rd s2.host.fns n _ = _
    rw [e2]; show rd (wr _ _ _) _ _ = _; rw [rd_wr, if_pos rfl]
  · show rd s2.host.fns k _ = _
    rw [e2]; show rd (wr _ _ _) _ _ = _; rw [rd_wr, if_neg (fun h => hk h.symm)]; rfl
  · show rd (wr s2.sched.domains n _) k _ = _
    rw [rd_wr, if_neg (fun h => hk h.symm)]; exact dom2 k
  · show rd (wr s3.host.xlate n _) k _ = _
    rw [rd_wr, if_neg (fun h => hk h.symm)]; exact xl2 k
  · show s2.queue k i = s.queue k i
    refine (hb k i ?_).trans rfl
    intro h
    obtain ⟨e, he, h1⟩ := List.mem_map.mp h
    have := (List.mem_filter.mp he).2
    simp only [decide_eq_true_eq] at this
    rw [h1] at this; unfold qKey at this; omega
  · show (s2.queue n i).on = false ∧ (s2.queue n i).descs = [] ∧ (s2.queue n i).head = (s.queue n i).tail
    by_cases hm : qKey n i ∈ (s1.sched.queues.filter (fun e => decide (e.1 / 512 = n))).map Prod.fst
    · exact hc n i hm
    · rw [hb n i hm]
      have : qKey n i ∉ s.sched.queues.map Prod.fst := by
        intro h
        obtain ⟨e, he, h1⟩ := List.mem_map.mp h
        apply hm
        refine List.mem_map.mpr ⟨e, List.mem_filter.mpr ⟨he, ?_⟩, h1⟩
        simp only [decide_eq_true_eq]; rw [h1]; unfold qKey; omega
      have e0 : s.queue n i = .init := by unfold State.queue rd; rw [find?_none_of_not_mem _ _ this]; rfl
      have e1 : s1.queue n i = .init := e0
      rw [e1, e0]; exact ⟨rfl, rfl, rfl⟩
  · show rd (wr s2.sched.domains n _) n _ = _
    rw [rd_wr, if_pos rfl]
    show ({ s2.domain n with cBase := 0, cK := 0, cWrite := 0, cPhase := true, cHead := 0, cReserved := 0 } : Domain) = _
    rw [dom2]
  · show rd (wr s3.host.xlate n _) n _ = _
    rw [rd_wr, if_pos rfl]
    show ({ s3.xlate n with stopped := false } : Xlate) = _
    rw [xl2]
  · exact hx
  · clear_value x
    clear_value s2
    subst e2
    exact ⟨_, _, _, _, _, _, rfl, rfl, rfl, rfl⟩

/-- What a chain of resets leaves. -/
structure Chain (s t : State) : Prop where
  form : ∃ h sc run held rd st, t = { s with
    host := h, sched := sc, desc := { s.desc with reading := rd }, sys := { s.sys with running := run, held := held, staging := st } }

theorem Chain.refl (s : State) : Chain s s := ⟨_, _, _, _, _, _, rfl⟩

theorem Chain.trans {s t u : State} (h : Chain s t) (g : Chain t u) : Chain s u := by
  obtain ⟨a, b, c, d, e, i, rfl⟩ := h
  obtain ⟨a', b', c', d', e', i', rfl⟩ := g
  exact ⟨_, _, _, _, _, _, rfl⟩

theorem resetFn_chain (s : State) (n : Nat) : Chain s (s.resetFn n) := by
  obtain ⟨-, -, -, -, -, -, ⟨h, sc, run, held, rd, st, g, -⟩⟩ := resetFn_spec s n
  exact ⟨_, _, _, _, _, _, g⟩

theorem foldResets (l : List Nat) (s : State) : Chain s (l.foldl State.resetFn s) ∧ (0 ∉ l → (l.foldl State.resetFn s).fn 0 = s.fn 0) := by
  induction l generalizing s with
  | nil => exact ⟨.refl s, fun _ => rfl⟩
  | cons n r ih =>
    obtain ⟨a, b⟩ := ih (s.resetFn n)
    refine ⟨(resetFn_chain s n).trans a, fun h => ?_⟩
    simp only [List.mem_cons, not_or] at h
    rw [List.foldl_cons, b h.2]
    exact ((resetFn_spec s n).2.1 0 h.1).1

theorem dropVfs_spec (s : State) : Chain s s.dropVfs ∧ s.dropVfs.host.vfEnable = false ∧ s.dropVfs.fn 0 = s.fn 0 := by
  unfold State.dropVfs
  extract_lets s1
  obtain ⟨a, b⟩ := foldResets ((s.host.fns.map Prod.fst ++ s.sched.queues.map (fun (e : Nat × Queue) => e.1 / 512) ++ s.sched.domains.map Prod.fst ++
    s.host.xfers.map Xfer.dom).dedup.filter (fun n => decide (1 ≤ n))) s
  have a' : Chain s s1 := a
  have b' : s1.fn 0 = s.fn 0 := b (by simp)
  refine ⟨a'.trans ⟨_, _, _, _, _, _, rfl⟩, rfl, b'⟩

end Sys2Proof.Machine
end

