-- ==== Sys2Proof/Laws/Commands.lean ====
section
/-! SUPPORT. Mailbox commands: what their taking leaves of the state that their conditions and responses read, how a command is
judged, and the bytes of responses and frames. -/

namespace Sys2Proof.Machine

theorem MbCmd.len_true {m : MbCmd} {n : Nat} (h : m.length.toNat = n) : m.len n = true := by simp [MbCmd.len, h]

theorem MbCmd.noBuf_true {m : MbCmd} (h : m.buf = 0) : m.noBuf = true := by simp [MbCmd.noBuf, h]

theorem MbCmd.bufIs_true {m : MbCmd} {n} (h : m.buf = n) : m.bufIs n = true := by simp [MbCmd.bufIs, h]

theorem MbCmd.pf_true {m : MbCmd} (h : m.dom = 0) : m.pf = true := by simp [MbCmd.pf, h]

@[simp] theorem State.taken_infoOf (s : State) (op m d) : (s.taken op m).info d = s.info d := by
  unfold State.taken State.take; cases (refOf op m).src <;> rfl

@[simp] theorem State.taken_inWindow (s : State) (op m d p) : (s.taken op m).inWindow d p = s.inWindow d p := by
  unfold State.taken State.take; cases (refOf op m).src <;> rfl

@[simp] theorem State.taken_inMask (s : State) (op m d p) : (s.taken op m).inMask d p = s.inMask d p := by
  unfold State.taken State.take; cases (refOf op m).src <;> rfl

@[simp] theorem State.taken_legacyGeo (s : State) (op m) : (s.taken op m).legacyGeo = s.legacyGeo := by
  unfold State.taken State.take; cases (refOf op m).src <;> rfl

@[simp] theorem State.taken_domain (s : State) (op m d) : (s.taken op m).domain d = s.domain d := by
  unfold State.taken State.take; cases (refOf op m).src <;> rfl

@[simp] theorem State.taken_sharedTaken (s : State) (op m) : (s.taken op m).sharedTaken = s.sharedTaken := by
  unfold State.taken State.take; cases (refOf op m).src <;> rfl

@[simp] theorem State.taken_ns (s : State) (op m) : (s.taken op m).ns = s.ns := by
  unfold State.taken State.take; cases (refOf op m).src <;> rfl

@[simp] theorem State.taken_changesMask (s : State) (op m d l) : (s.taken op m).changesMask d l = s.changesMask d l := by
  unfold State.taken State.take; cases (refOf op m).src <;> rfl

@[simp] theorem State.taken_proofRec (s : State) (op m d) : (s.taken op m).proofRec d = s.proofRec d := by
  unfold State.taken State.take; cases (refOf op m).src <;> rfl

@[simp] theorem State.taken_recFinal (s : State) (op m d) : (s.taken op m).recFinal d = s.recFinal d := by
  unfold State.taken State.take; cases (refOf op m).src <;> rfl

@[simp] theorem State.taken_gatesNext (s : State) (op m) : (s.taken op m).gatesNext = s.gatesNext := by
  unfold State.taken State.take; cases (refOf op m).src <;> rfl

@[simp] theorem State.taken_policyReply (s : State) (op m d) : (s.taken op m).policyReply d = s.policyReply d := by
  unfold State.taken State.take; cases (refOf op m).src <;> rfl

@[simp] theorem State.taken_ringReply (s : State) (op m d) : (s.taken op m).ringReply d = s.ringReply d := by
  unfold State.taken State.take; cases (refOf op m).src <;> rfl

@[simp] theorem State.taken_queue (s : State) (op m d i) : (s.taken op m).queue d i = s.queue d i := by
  unfold State.taken State.take; cases (refOf op m).src <;> rfl

@[simp] theorem State.taken_driveReply (s : State) (op m d) : (s.taken op m).driveReply d = s.driveReply d := by
  unfold State.taken State.take; cases (refOf op m).src <;> rfl

@[simp] theorem State.taken_senseReply (s : State) (op m d) : (s.taken op m).senseReply d = s.senseReply d := by
  unfold State.taken State.take; cases (refOf op m).src <;> rfl

@[simp] theorem State.taken_mayCapture (s : State) (op m d) : (s.taken op m).mayCapture d = s.mayCapture d := by
  unfold State.taken State.take; cases (refOf op m).src <;> rfl

@[simp] theorem State.taken_retired (s : State) (op m k d) : (s.taken op m).retired k d = s.retired k d := by
  unfold State.taken State.take; cases (refOf op m).src <;> rfl

@[simp] theorem State.taken_fabPinned (s : State) (op m d) : (s.taken op m).fabPinned d = s.fabPinned d := by
  unfold State.taken State.take; cases (refOf op m).src <;> rfl

@[simp] theorem State.taken_frame32 (s : State) (op m) : (s.taken op m).frame32 = s.frame32 := by
  unfold State.taken State.take; cases (refOf op m).src <;> rfl

@[simp] theorem State.taken_calBusy (s : State) (op m d) : (s.taken op m).calBusy d = s.calBusy d := by
  unfold State.taken State.take; cases (refOf op m).src <;> rfl

@[simp] theorem State.taken_scope (s : State) (op m d) : (s.taken op m).scope d = s.scope d := by
  unfold State.taken State.take; cases (refOf op m).src <;> rfl

@[simp] theorem State.taken_calReplyOf (s : State) (op m d) : (s.taken op m).calReplyOf d = s.calReplyOf d := by
  unfold State.taken State.take; cases (refOf op m).src <;> rfl

@[simp] theorem State.taken_calDetail (s : State) (op m) : (s.taken op m).calDetail = s.calDetail := by
  unfold State.taken State.take; cases (refOf op m).src <;> rfl

@[simp] theorem State.taken_timeValue (s : State) (op m i p) : (s.taken op m).timeValue i p = s.timeValue i p := by
  unfold State.taken State.take; cases (refOf op m).src <;> rfl

@[simp] theorem State.taken_pairValue (s : State) (op m i p) : (s.taken op m).pairValue i p = s.pairValue i p := by
  unfold State.taken State.take; cases (refOf op m).src <;> rfl

@[simp] theorem State.taken_pairReply (s : State) (op m) : (s.taken op m).pairReply = s.pairReply := by
  unfold State.taken State.take; cases (refOf op m).src <;> rfl

@[simp] theorem State.taken_partnerReady (s : State) (op m) : (s.taken op m).partnerReady = s.partnerReady := by
  unfold State.taken State.take; cases (refOf op m).src <;> rfl

@[simp] theorem State.taken_refereeReply (s : State) (op m) : (s.taken op m).refereeReply = s.refereeReply := by
  unfold State.taken State.take; cases (refOf op m).src <;> rfl

@[simp] theorem State.taken_slotValid (s : State) (op m d) : (s.taken op m).slotValid d = s.slotValid d := by
  unfold State.taken State.take; cases (refOf op m).src <;> rfl

@[simp] theorem State.taken_slotSeq (s : State) (op m d) : (s.taken op m).slotSeq d = s.slotSeq d := by
  unfold State.taken State.take; cases (refOf op m).src <;> rfl

@[simp] theorem State.taken_slotLevel (s : State) (op m d) : (s.taken op m).slotLevel d = s.slotLevel d := by
  unfold State.taken State.take; cases (refOf op m).src <;> rfl

@[simp] theorem State.taken_thresholdReply (s : State) (op m) : (s.taken op m).thresholdReply = s.thresholdReply := by
  unfold State.taken State.take; cases (refOf op m).src <;> rfl

@[simp] theorem State.taken_logFrom (s : State) (op m a b) : (s.taken op m).logFrom a b = s.logFrom a b := by
  unfold State.taken State.take; cases (refOf op m).src <;> rfl

@[simp] theorem State.taken_xlateReply (s : State) (op m d) : (s.taken op m).xlateReply d = s.xlateReply d := by
  unfold State.taken State.take; cases (refOf op m).src <;> rfl

@[simp] theorem State.taken_fuse (s : State) (op m a b) : (s.taken op m).fuse a b = s.fuse a b := by
  unfold State.taken State.take; cases (refOf op m).src <;> rfl

@[simp] theorem State.taken_evEnable (s : State) (op m n) : ((s.taken op m).fn n).evEnable = (s.fn n).evEnable := by
  unfold State.taken State.take; cases (refOf op m).src
  · simp [State.fn, State.modFn, State.setFn]; split <;> simp_all
  · rfl

theorem State.askRun_fold (l : List Nat) (u : State) (k : Nat) :
    ((l.foldl (fun u k => u.askRun k none) u).scope k) = if k ∈ l then { u.scope k with pending := true, cmd := none } else u.scope k := by
  induction l generalizing u with
  | nil => simp
  | cons a l ih =>
    rw [List.foldl_cons, ih]
    have : (u.askRun a none).scope k = if a = k then { u.scope a with pending := true, cmd := none } else u.scope k := by
      simp [State.askRun, State.setScope, State.scope]
    rw [this]
    by_cases h : a = k
    · subst h; simp
    · simp [h, Ne.symm h]

theorem State.askRun_fold_all (l : List Nat) (u : State) : (l.foldl (fun u k => u.askRun k none) u).cal.all = u.cal.all := by
  induction l generalizing u with
  | nil => rfl
  | cons a l ih => rw [List.foldl_cons, ih]; rfl

theorem State.msix_faults (u : State) (n v) : (u.msix n v).faults = u.faults := by
  unfold State.msix; dsimp only; split <;> rfl

theorem State.answer_faults (u : State) (c st p) : (u.answer c st p).faults = u.faults := by
  unfold State.answer State.answerAt
  split
  · rfl
  · dsimp only
    split
    · unfold State.present_rsp; dsimp only
      split
      · rfl
      · split
        · rw [State.msix_faults]; rfl
        · rfl
    · unfold State.answerMgmt; dsimp only
      have : ∀ (l : List (Nat × Nat × Bool)) (x : State) (f : Nat × Nat × Bool → Out), (l.foldl (fun t y => t.emit (f y)) x).faults = x.faults := by
        intro l; induction l with
        | nil => intros; rfl
        | cons a l ih => intro x f; rw [List.foldl_cons, ih]; rfl
      rw [this]; rfl

@[simp] theorem State.taken_schedAll (s : State) (op m) : (s.taken op m).sched = s.sched := by
  unfold State.taken State.take; cases (refOf op m).src <;> rfl

theorem cleared_flight (q : Queue) : (cleared q).inFlight = q.inFlight := by
  show Nat.testBit _ 104 = q.word.toNat.testBit 104
  show (Queue.word (Queue.put (Queue.put (Queue.put (Queue.put q 96 3 0) 4 1 0) 80 12 q.tail) 105 1 _)).toNat.testBit 104 = _
  rw [Queue.testBit_put _ _ _ _ _ (by decide), if_neg (by decide), Queue.testBit_put _ _ _ _ _ (by decide), if_neg (by decide),
    Queue.testBit_put _ _ _ _ _ (by decide), if_neg (by decide), Queue.testBit_put _ _ _ _ _ (by decide), if_neg (by decide)]

theorem rsp_payload (c : CmdRef) (st fl dn e n v k : Nat) (hk : k < 320) :
    (rspWord c st fl dn e n [(0, v)]).getLsbD (8 * 0x18 + k) = v.testBit k := by
  have hp : payloadNat [(0, v)] = v := by simp [payloadNat]
  unfold rspWord
  rw [hp, BitVec.getLsbD_ofNat]
  rw [show (decide (8 * 0x18 + k < 512) : Bool) = true by simp; omega, Bool.true_and]
  have h1 : ∀ (w x : Nat) (r : List (Nat × Nat)) (j : Nat), (pack ((w, x) :: r)).testBit (w + j) = (pack r).testBit j := by
    intro w x r j
    rw [pack_cons, Nat.add_comm, Nat.testBit_two_pow_mul_add _ (Nat.mod_lt _ (Nat.two_pow_pos w)), if_neg (by omega)]
    congr 1; omega
  rw [show 8 * 0x18 + k = 16 + (8 + (8 + (32 + (32 + (32 + (64 + k)))))) by omega]
  rw [h1, h1, h1, h1, h1, h1, h1, pack_cons]
  show (v % 2 ^ 320 + 2 ^ 320 * 0).testBit k = _
  rw [Nat.mul_zero, Nat.add_zero, Nat.testBit_mod_two_pow]
  simp [hk]

theorem bytesLE_length (n x : Nat) : (bytesLE n x).length = n := by
  induction n generalizing x with
  | zero => rfl
  | succ n ih => simp [bytesLE, ih]

theorem ofBytesLE_bytesLE (n x : Nat) (r : List Byte) (h : x < 256 ^ n) : ofBytesLE ((bytesLE n x ++ r).take n) = x := by
  induction n generalizing x with
  | zero => simp [bytesLE, ofBytesLE]; omega
  | succ n ih =>
    simp only [bytesLE, List.cons_append, List.take_succ_cons, ofBytesLE]
    rw [ih (x / 256) (by rw [Nat.pow_succ] at h; exact Nat.div_lt_of_lt_mul (by omega))]
    simp only [BitVec.toNat_ofNat]
    omega

theorem fieldB_at (a r : List Byte) (o n x : Nat) (ho : a.length = o) (h : x < 256 ^ n) : fieldB (a ++ (bytesLE n x ++ r)) o n = x := by
  unfold fieldB sliceB
  rw [List.drop_append_of_le_length (by omega), ← ho, List.drop_length, List.nil_append]
  exact ofBytesLE_bytesLE n x r h

theorem crc16Bit_lt (c k : Nat) (h : c < 2 ^ 16) : crc16Bit c k < 2 ^ 16 := by
  induction k generalizing c with
  | zero => exact h
  | succ k ih =>
    unfold crc16Bit
    apply ih
    split
    · exact Nat.xor_lt_two_pow (Nat.mod_lt _ (by decide)) (by decide)
    · exact Nat.mod_lt _ (by decide)

theorem crc16_lt (l : List Byte) : crc16 l < 2 ^ 16 := by
  unfold crc16
  have : ∀ c, c < 2 ^ 16 → l.foldl (fun c b => crc16Bit (c ^^^ (b.toNat * 256)) 8) c < 2 ^ 16 := by
    induction l with
    | nil => exact fun c h => h
    | cons b r ih =>
      intro c h
      rw [List.foldl_cons]
      exact ih _ (crc16Bit_lt _ _ (Nat.xor_lt_two_pow h (by have := b.isLt; omega)))
  exact this _ (by decide)

theorem refBytes_take (type : Nat) (site : Bool) (flags epoch arg seq : Nat) :
    (refBytes type site flags epoch arg seq).take 14 = refBody type site flags epoch arg seq := by
  unfold refBytes
  dsimp only
  rw [List.take_append_of_le_length (by simp [refBody, bytesLE_length]), List.take_of_length_le (by simp [refBody, bytesLE_length])]

/-- The MSI-X table of a function after a reset. -/
def Clean (f : Fn) : Prop := f.vMask = 7 ∧ f.vPend = 0 ∧ f.vAddr = [] ∧ f.vData = []

theorem foldClean (l : List Nat) (n : Nat) (s : State) (h : n ∈ l ∨ Clean (s.fn n)) : Clean ((l.foldl State.resetFn s).fn n) := by
  induction l generalizing s with
  | nil =>
    rcases h with h | h
    · cases h
    · exact h
  | cons k r ih =>
    rw [List.foldl_cons]
    apply ih
    obtain ⟨a, b, -⟩ := resetFn_spec s k
    by_cases hk : n = k
    · subst hk; right; rw [a]; exact ⟨rfl, rfl, rfl, rfl⟩
    · rcases h with h | h
      · left; exact (List.mem_cons.1 h).resolve_left hk
      · right; rw [(b n hk).1]; exact h

theorem dropVfs_clean (s : State) (n : Nat) (hn : 1 ≤ n) : Clean (s.dropVfs.fn n) := by
  unfold State.dropVfs
  extract_lets s1
  show Clean (s1.fn n)
  apply foldClean
  by_cases h : n ∈ s.host.fns.map Prod.fst
  · left
    simp only [List.mem_filter, List.mem_dedup, List.mem_append, decide_eq_true_eq]
    exact ⟨.inl (.inl (.inl h)), hn⟩
  · right
    unfold State.fn rd
    rw [find?_none_of_not_mem _ _ h]
    exact ⟨rfl, rfl, rfl, rfl⟩

theorem resetPf_clean (s : State) (n : Nat) : Clean (s.resetPf.fn n) := by
  obtain ⟨a, b, -⟩ := resetFn_spec s.dropVfs 0
  unfold State.resetPf
  generalize s.dropVfs.resetFn 0 = s1 at a b ⊢
  show Clean (s1.fn n)
  by_cases hn : n = 0
  · subst hn; rw [a]; exact ⟨rfl, rfl, rfl, rfl⟩
  · rw [(b n hn).1]; exact dropVfs_clean s n (by omega)

theorem find?_mapFn (g : Fn → Fn) (l : Tbl Fn) (n : Nat) : find? (l.map (fun e => (e.1, g e.2))) n = (find? l n).map g := by
  induction l with
  | nil => rfl
  | cons e r ih =>
    obtain ⟨k, v⟩ := e
    simp only [List.map_cons, find?]
    split
    · rfl
    · exact ih

/-- The constructor's meaning is the meaning of its opcode. -/
theorem exec_mailbox (s : State) (i : Instr) (op : Nat) (m : MbCmd) (h : mailboxOf i = some (op, m)) :
    exec i s = .next (opMeaning op m s) := by
  cases i <;> simp only [mailboxOf, Option.some.injEq, Prod.mk.injEq, reduceCtorEq] at h

  · obtain ⟨rfl, rfl⟩ := h; rfl
  · obtain ⟨rfl, rfl⟩ := h; rfl
  · obtain ⟨rfl, rfl⟩ := h; rfl
  · obtain ⟨rfl, rfl⟩ := h; rfl
  · obtain ⟨rfl, rfl⟩ := h; rfl
  · obtain ⟨rfl, rfl⟩ := h; rfl
  · obtain ⟨rfl, rfl⟩ := h; rfl
  · obtain ⟨rfl, rfl⟩ := h; rfl
  · obtain ⟨rfl, rfl⟩ := h; rfl
  · obtain ⟨rfl, rfl⟩ := h; rfl
  · obtain ⟨rfl, rfl⟩ := h; rfl
  · obtain ⟨rfl, rfl⟩ := h; rfl
  · obtain ⟨rfl, rfl⟩ := h; rfl
  · obtain ⟨rfl, rfl⟩ := h; rfl
  · obtain ⟨rfl, rfl⟩ := h; rfl
  · obtain ⟨rfl, rfl⟩ := h; rfl
  · obtain ⟨rfl, rfl⟩ := h; rfl
  · obtain ⟨rfl, rfl⟩ := h; rfl
  · obtain ⟨rfl, rfl⟩ := h; rfl
  · obtain ⟨rfl, rfl⟩ := h; rfl
  · obtain ⟨rfl, rfl⟩ := h; rfl
  · obtain ⟨rfl, rfl⟩ := h; rfl
  · obtain ⟨rfl, rfl⟩ := h; rfl
  · obtain ⟨rfl, rfl⟩ := h; rfl
  · obtain ⟨rfl, rfl⟩ := h; rfl
  · obtain ⟨rfl, rfl⟩ := h; rfl
  · obtain ⟨rfl, rfl⟩ := h; rfl
  · obtain ⟨rfl, rfl⟩ := h; rfl
  · obtain ⟨rfl, rfl⟩ := h; rfl
  · obtain ⟨rfl, rfl⟩ := h; rfl
  · obtain ⟨rfl, rfl⟩ := h; rfl
  · obtain ⟨rfl, rfl⟩ := h; rfl
  · obtain ⟨rfl, rfl⟩ := h; rfl
  · obtain ⟨rfl, rfl⟩ := h; rfl
  · obtain ⟨rfl, rfl⟩ := h; rfl
  · obtain ⟨rfl, rfl⟩ := h; rfl
  · obtain ⟨rfl, rfl⟩ := h; rfl
  · obtain ⟨rfl, rfl⟩ := h; rfl
  · obtain ⟨rfl, rfl⟩ := h; rfl
  · obtain ⟨rfl, rfl⟩ := h; rfl
  · obtain ⟨rfl, rfl⟩ := h; rfl
  · obtain ⟨rfl, rfl⟩ := h; rfl
  · obtain ⟨rfl, rfl⟩ := h; rfl

/-- Every opcode of the table is performed through `State.command`. -/
theorem meaning_command (s : State) (i : Instr) (op : Nat) (m : MbCmd) (h : mailboxOf i = some (op, m)) :
    ∃ rules act, opMeaning op m s = s.command op m rules act := by
  cases i <;> simp only [mailboxOf, Option.some.injEq, Prod.mk.injEq, reduceCtorEq] at h

  · obtain ⟨rfl, rfl⟩ := h; show ∃ rules act, State.getInfo _ s = _; unfold State.getInfo; exact ⟨_, _, rfl⟩
  · obtain ⟨rfl, rfl⟩ := h; show ∃ rules act, State.getHealth _ s = _; unfold State.getHealth; exact ⟨_, _, rfl⟩
  · obtain ⟨rfl, rfl⟩ := h; show ∃ rules act, State.setModeCmd _ s = _; unfold State.setModeCmd; exact ⟨_, _, rfl⟩
  · obtain ⟨rfl, rfl⟩ := h; show ∃ rules act, State.loadDescriptor _ s = _; unfold State.loadDescriptor; exact ⟨_, _, rfl⟩
  · obtain ⟨rfl, rfl⟩ := h; show ∃ rules act, State.readDescriptor _ s = _; unfold State.readDescriptor; exact ⟨_, _, rfl⟩
  · obtain ⟨rfl, rfl⟩ := h; show ∃ rules act, State.plateWrite _ s = _; unfold State.plateWrite; exact ⟨_, _, rfl⟩
  · obtain ⟨rfl, rfl⟩ := h; show ∃ rules act, State.plateRead _ s = _; unfold State.plateRead; exact ⟨_, _, rfl⟩
  · obtain ⟨rfl, rfl⟩ := h; show ∃ rules act, State.plateRoute _ s = _; unfold State.plateRoute; exact ⟨_, _, rfl⟩
  · obtain ⟨rfl, rfl⟩ := h; show ∃ rules act, State.plateRouteDelta _ s = _; unfold State.plateRouteDelta; exact ⟨_, _, rfl⟩
  · obtain ⟨rfl, rfl⟩ := h; show ∃ rules act, State.impress _ s = _; unfold State.impress; exact ⟨_, _, rfl⟩
  · obtain ⟨rfl, rfl⟩ := h; show ∃ rules act, State.proofRead _ s = _; unfold State.proofRead; exact ⟨_, _, rfl⟩
  · obtain ⟨rfl, rfl⟩ := h; show ∃ rules act, State.slotWrite _ s = _; unfold State.slotWrite; exact ⟨_, _, rfl⟩
  · obtain ⟨rfl, rfl⟩ := h; show ∃ rules act, State.slotSwapCmd _ s = _; unfold State.slotSwapCmd; exact ⟨_, _, rfl⟩
  · obtain ⟨rfl, rfl⟩ := h; show ∃ rules act, State.gateConfig _ s = _; unfold State.gateConfig; exact ⟨_, _, rfl⟩
  · obtain ⟨rfl, rfl⟩ := h; show ∃ rules act, State.domainConfig _ s = _; unfold State.domainConfig; exact ⟨_, _, rfl⟩
  · obtain ⟨rfl, rfl⟩ := h; show ∃ rules act, State.queueConfig _ s = _; unfold State.queueConfig; exact ⟨_, _, rfl⟩
  · obtain ⟨rfl, rfl⟩ := h; show ∃ rules act, State.queueReset _ s = _; unfold State.queueReset; exact ⟨_, _, rfl⟩
  · obtain ⟨rfl, rfl⟩ := h; show ∃ rules act, State.loopConfig _ s = _; unfold State.loopConfig; exact ⟨_, _, rfl⟩
  · obtain ⟨rfl, rfl⟩ := h; show ∃ rules act, State.loopReadCmd _ s = _; unfold State.loopReadCmd; exact ⟨_, _, rfl⟩
  · obtain ⟨rfl, rfl⟩ := h; show ∃ rules act, State.toneAssign _ s = _; unfold State.toneAssign; exact ⟨_, _, rfl⟩
  · obtain ⟨rfl, rfl⟩ := h; show ∃ rules act, State.hatchLoad _ s = _; unfold State.hatchLoad; exact ⟨_, _, rfl⟩
  · obtain ⟨rfl, rfl⟩ := h; show ∃ rules act, State.channelRead _ s = _; unfold State.channelRead; exact ⟨_, _, rfl⟩
  · obtain ⟨rfl, rfl⟩ := h; show ∃ rules act, State.channelForce _ s = _; unfold State.channelForce; exact ⟨_, _, rfl⟩
  · obtain ⟨rfl, rfl⟩ := h; show ∃ rules act, State.channelRetire _ s = _; unfold State.channelRetire; exact ⟨_, _, rfl⟩
  · obtain ⟨rfl, rfl⟩ := h; show ∃ rules act, State.channelRestore _ s = _; unfold State.channelRestore; exact ⟨_, _, rfl⟩
  · obtain ⟨rfl, rfl⟩ := h; show ∃ rules act, State.calRun _ s = _; unfold State.calRun; exact ⟨_, _, rfl⟩
  · obtain ⟨rfl, rfl⟩ := h; show ∃ rules act, State.calStatus _ s = _; unfold State.calStatus; exact ⟨_, _, rfl⟩
  · obtain ⟨rfl, rfl⟩ := h; show ∃ rules act, State.calPolicy _ s = _; unfold State.calPolicy; exact ⟨_, _, rfl⟩
  · obtain ⟨rfl, rfl⟩ := h; show ∃ rules act, State.timeConfig _ s = _; unfold State.timeConfig; exact ⟨_, _, rfl⟩
  · obtain ⟨rfl, rfl⟩ := h; show ∃ rules act, State.timeStatus _ s = _; unfold State.timeStatus; exact ⟨_, _, rfl⟩
  · obtain ⟨rfl, rfl⟩ := h; show ∃ rules act, State.pairConfig _ s = _; unfold State.pairConfig; exact ⟨_, _, rfl⟩
  · obtain ⟨rfl, rfl⟩ := h; show ∃ rules act, State.pairStatus _ s = _; unfold State.pairStatus; exact ⟨_, _, rfl⟩
  · obtain ⟨rfl, rfl⟩ := h; show ∃ rules act, State.pairSwap _ s = _; unfold State.pairSwap; exact ⟨_, _, rfl⟩
  · obtain ⟨rfl, rfl⟩ := h; show ∃ rules act, State.refereeConfig _ s = _; unfold State.refereeConfig; exact ⟨_, _, rfl⟩
  · obtain ⟨rfl, rfl⟩ := h; show ∃ rules act, State.fwStage _ s = _; unfold State.fwStage; exact ⟨_, _, rfl⟩
  · obtain ⟨rfl, rfl⟩ := h; show ∃ rules act, State.fwActivate _ s = _; unfold State.fwActivate; exact ⟨_, _, rfl⟩
  · obtain ⟨rfl, rfl⟩ := h; show ∃ rules act, State.fuseRead _ s = _; unfold State.fuseRead; exact ⟨_, _, rfl⟩
  · obtain ⟨rfl, rfl⟩ := h; show ∃ rules act, State.fuseProgram _ s = _; unfold State.fuseProgram; exact ⟨_, _, rfl⟩
  · obtain ⟨rfl, rfl⟩ := h; show ∃ rules act, State.eventConfig _ s = _; unfold State.eventConfig; exact ⟨_, _, rfl⟩
  · obtain ⟨rfl, rfl⟩ := h; show ∃ rules act, State.faultLogRead _ s = _; unfold State.faultLogRead; exact ⟨_, _, rfl⟩
  · obtain ⟨rfl, rfl⟩ := h; show ∃ rules act, State.perfConfig _ s = _; unfold State.perfConfig; exact ⟨_, _, rfl⟩
  · obtain ⟨rfl, rfl⟩ := h; show ∃ rules act, State.xlateConfig _ s = _; unfold State.xlateConfig; exact ⟨_, _, rfl⟩
  · obtain ⟨rfl, rfl⟩ := h; show ∃ rules act, State.xlateResume _ s = _; unfold State.xlateResume; exact ⟨_, _, rfl⟩

theorem op_small (i : Instr) (op : Nat) (m : MbCmd) (h : mailboxOf i = some (op, m)) : op < 2 ^ 16 := by
  cases i <;> simp only [mailboxOf, Option.some.injEq, Prod.mk.injEq, reduceCtorEq] at h

  · obtain ⟨rfl, rfl⟩ := h; decide
  · obtain ⟨rfl, rfl⟩ := h; decide
  · obtain ⟨rfl, rfl⟩ := h; decide
  · obtain ⟨rfl, rfl⟩ := h; decide
  · obtain ⟨rfl, rfl⟩ := h; decide
  · obtain ⟨rfl, rfl⟩ := h; decide
  · obtain ⟨rfl, rfl⟩ := h; decide
  · obtain ⟨rfl, rfl⟩ := h; decide
  · obtain ⟨rfl, rfl⟩ := h; decide
  · obtain ⟨rfl, rfl⟩ := h; decide
  · obtain ⟨rfl, rfl⟩ := h; decide
  · obtain ⟨rfl, rfl⟩ := h; decide
  · obtain ⟨rfl, rfl⟩ := h; decide
  · obtain ⟨rfl, rfl⟩ := h; decide
  · obtain ⟨rfl, rfl⟩ := h; decide
  · obtain ⟨rfl, rfl⟩ := h; decide
  · obtain ⟨rfl, rfl⟩ := h; decide
  · obtain ⟨rfl, rfl⟩ := h; decide
  · obtain ⟨rfl, rfl⟩ := h; decide
  · obtain ⟨rfl, rfl⟩ := h; decide
  · obtain ⟨rfl, rfl⟩ := h; decide
  · obtain ⟨rfl, rfl⟩ := h; decide
  · obtain ⟨rfl, rfl⟩ := h; decide
  · obtain ⟨rfl, rfl⟩ := h; decide
  · obtain ⟨rfl, rfl⟩ := h; decide
  · obtain ⟨rfl, rfl⟩ := h; decide
  · obtain ⟨rfl, rfl⟩ := h; decide
  · obtain ⟨rfl, rfl⟩ := h; decide
  · obtain ⟨rfl, rfl⟩ := h; decide
  · obtain ⟨rfl, rfl⟩ := h; decide
  · obtain ⟨rfl, rfl⟩ := h; decide
  · obtain ⟨rfl, rfl⟩ := h; decide
  · obtain ⟨rfl, rfl⟩ := h; decide
  · obtain ⟨rfl, rfl⟩ := h; decide
  · obtain ⟨rfl, rfl⟩ := h; decide
  · obtain ⟨rfl, rfl⟩ := h; decide
  · obtain ⟨rfl, rfl⟩ := h; decide
  · obtain ⟨rfl, rfl⟩ := h; decide
  · obtain ⟨rfl, rfl⟩ := h; decide
  · obtain ⟨rfl, rfl⟩ := h; decide
  · obtain ⟨rfl, rfl⟩ := h; decide
  · obtain ⟨rfl, rfl⟩ := h; decide
  · obtain ⟨rfl, rfl⟩ := h; decide

theorem State.command_judged {s : State} {m : MbCmd} (h : s.Takes m) (op : Nat) (rules : State → Rules) (act : CmdRef → State → State) :
    s.command op m rules act = (s.taken op m).judged (refOf op m) (rules (s.taken op m)) (act (refOf op m)) := by
  unfold State.command
  rw [h.reached, h.taken]
  simp only [Bool.not_true, Bool.false_eq_true, if_false]
  change (if (s.taken op m).sys.bootFailed = true then _ else _) = _
  rw [State.taken_sys_bootFailed, h.booted]
  rfl

@[simp] theorem State.taken_modeOk (s : State) (op : Nat) (m : MbCmd) (src modes a b) : (s.taken op m).modeOk src modes a b = s.modeOk src modes a b := by
  unfold State.taken State.take
  cases hsrc : (refOf op m).src <;> rfl

end Sys2Proof.Machine
end

