-- ==== Sys2Proof/Laws/FabricTime.lean ====
section
/-! SUPPORT. Fabric time: ports, holdover, the choice of a port, and the stop of the slot table. -/

namespace Sys2Proof.Machine

theorem ptp_set (s : State) (b : Bool) (p : PtpPort) : (s.setPtp b p).ptp b = p := by cases b <;> rfl

theorem setPtp_rest (s : State) (b : Bool) (p : PtpPort) : (s.setPtp b p).pair = s.pair ∧ (s.setPtp b p).sys = s.sys ∧ (s.setPtp b p).host = s.host := by
  cases b <;> exact ⟨rfl, rfl, rfl⟩

theorem told_ft {s t : State} (h : Told s t) : t.ft = s.ft ∧ t.pair = s.pair ∧ t.sys = s.sys := by
  obtain ⟨f, g, rfl⟩ := h; exact ⟨rfl, rfl, rfl⟩

theorem holdover_spec (s : State) : (∀ b, s.holdover.ptp b = s.ptp b) ∧ s.holdover.pair = s.pair ∧ s.holdover.ft.ppsValid = s.ft.ppsValid ∧
    (s.sys.restarting = false → s.ft.state = .acquiring ∨ s.ft.state = .locked → s.holdover.ft.state = .holdover) := by
  unfold State.holdover
  split
  · have g := told_ft (State.raise_told (({ s with ft := { s.ft with cleared := s.remaining, rem := 0 } } : State).servoTo .holdover) 52 .a {})
    refine ⟨fun b => ?_, g.2.1, ?_, fun _ _ => ?_⟩
    · unfold State.ptp
      rw [g.1]; rfl
    · rw [g.1]; rfl
    · rw [g.1]; rfl
  · rename_i h
    refine ⟨fun _ => rfl, rfl, rfl, fun hr hc => absurd ?_ h⟩
    rcases hc with hc | hc <;> rw [hr, hc] <;> rfl

theorem checkSource_spec (s : State) : (∀ b, s.checkSource.ptp b = s.ptp b) ∧ s.checkSource.pair = s.pair := by
  unfold State.checkSource
  split
  · have g := holdover_spec s
    exact ⟨g.1, g.2.1⟩
  · exact ⟨fun _ => rfl, rfl⟩

theorem selectPort_spec (s : State) : (∀ b, s.selectPort.ptp b = s.ptp b) ∧ s.selectPort.pair = s.pair := by
  unfold State.selectPort
  extract_lets has better sel src s1
  have h1 : (∀ b, s1.ptp b = s.ptp b) ∧ s1.pair = s.pair := by
    simp only [s1]
    split
    · exact ⟨fun _ => rfl, rfl⟩
    · have g := told_ft (State.raise_told ({ s with ft := { s.ft with selected := sel } } : State) 55 .m {})
      refine ⟨fun b => ?_, g.2.1⟩
      show (if b then (State.raise ..).ft.port1 else (State.raise ..).ft.port0) = _
      rw [g.1]; rfl
  have g := checkSource_spec s1
  exact ⟨fun b => (g.1 b).trans (h1.1 b), g.2.trans h1.2⟩

theorem loseMaster_spec (s : State) (b : Bool) : (s.loseMaster b).ptp b =
    { s.ptp b with best := none, syncSeen := false, hasMaster := false, sync := none, req := none, resp := none } ∧ (s.loseMaster b).pair = s.pair := by
  unfold State.loseMaster
  have g := selectPort_spec (s.setPtp b { s.ptp b with best := none, syncSeen := false, hasMaster := false, sync := none, req := none, resp := none })
  exact ⟨(g.1 b).trans (ptp_set ..), g.2.trans (setPtp_rest ..).1⟩

/-- The slots, the armed impressions and the time are as before. -/
def Slots (s t : State) : Prop := t.sched.current = s.sched.current ∧ t.sched.next = s.sched.next ∧ t.sched.running = s.sched.running ∧ t.imp = s.imp ∧ t.ft = s.ft

theorem Slots.refl (s : State) : Slots s s := ⟨rfl, rfl, rfl, rfl, rfl⟩

theorem Slots.trans {s t u : State} (h : Slots s t) (g : Slots t u) : Slots s u :=
  ⟨g.1.trans h.1, g.2.1.trans h.2.1, g.2.2.1.trans h.2.2.1, g.2.2.2.1.trans h.2.2.2.1, g.2.2.2.2.trans h.2.2.2.2⟩

theorem Slots.ite {s t u : State} {c : Prop} [Decidable c] (h : Slots s t) (g : Slots s u) : Slots s (if c then t else u) := by split <;> assumption

theorem Slots.side {s t : State} (h : Side s t) : Slots s t := by obtain ⟨_, _, _, _, _, _, rfl⟩ := h; exact .refl _

theorem fetch_slots (s : State) (d i : Nat) : Slots s (s.fetch d i) := by
  unfold State.fetch
  dsimp only
  exact .ite (.refl s) (.ite (.refl s) (.refl s))

theorem refuse_slots (s : State) (d i st : Nat) (l : Bool) : Slots s (s.refuse d i st l) := by
  unfold State.refuse
  dsimp only
  split
  · exact .refl s
  · split
    · exact .refl s
    · refine Slots.trans ?_ (fetch_slots ..)
      refine Slots.trans ?_ (.side (State.mirrorRequestOf_side ..))
      unfold State.complete
      exact .ite (.refl s) (.refl s)

theorem checkHead_slots (s : State) (d i : Nat) : Slots s (s.checkHead d i) := by
  unfold State.checkHead
  dsimp only
  split
  · exact .refl s
  · refine .ite (.refl s) (.ite (refuse_slots ..) (.ite (refuse_slots ..) (.ite (.refl s) ?_)))
    split
    · exact .ite (refuse_slots ..) (.refl s)
    · exact .refl s
    · exact .refl s

theorem recheckHeads_slots (s : State) : Slots s s.recheckHeads := by
  unfold State.recheckHeads
  generalize s.sched.queues = l
  induction l generalizing s with
  | nil => exact .refl s
  | cons x q ih =>
    rw [List.foldl_cons]
    exact Slots.trans (.ite (checkHead_slots ..) (.refl s)) (ih _)

theorem finishOp_slots (s : State) (a b : Nat) : Slots s (s.finishOp a b) := by
  unfold State.finishOp
  split
  · exact .refl s
  · exact Slots.trans (t := { s with sched := { s.sched with op := none } }) (.refl s) (.side (State.answerAt_side ..))

theorem stopSlots_spec (s : State) : s.stopSlots.sched.current = none ∧ s.stopSlots.sched.next = none ∧ s.stopSlots.sched.running = false ∧
    (∀ a ∈ s.stopSlots.imp.armed, a.source ≠ 0) ∧ s.stopSlots.ft = s.ft := by
  let s1 : State := { s with
    sched := { s.sched with current := none, next := none, running := false }
    imp := { s.imp with armed := s.imp.armed.filter (fun a => decide (a.source ≠ 0)) } }
  have h : Slots s1 s.stopSlots := by
    unfold State.stopSlots
    dsimp only
    refine Slots.trans ?_ (recheckHeads_slots _)
    split
    · refine Slots.trans ?_ (finishOp_slots ..)
      exact .ite (.refl s1) (.refl s1)
    · exact .refl s1
  refine ⟨h.1, h.2.1, h.2.2.1, fun a ha => ?_, h.2.2.2.2⟩
  rw [h.2.2.2.1] at ha
  have := (List.mem_filter.1 ha).2
  simpa using this

end Sys2Proof.Machine
end

