-- ==== Sys2Proof/Laws/HealthOps.lean ====
section
/-! SUPPORT. Reports and monitors: what a report, a check of a rail and a check of a process monitor do. -/

namespace Sys2Proof.Machine

/-- Log, host and pair only. -/
def Lg (s t : State) : Prop :=
  ∃ l n w q p h, t = { s with faults := { s.faults with log := l, logNext := n, wrapRaised := w, late := q }, pair := p, host := h }

theorem Lg.refl (s : State) : Lg s s := ⟨_, _, _, _, _, _, rfl⟩

theorem Lg.trans {s t u : State} (h : Lg s t) (g : Lg t u) : Lg s u := by
  obtain ⟨a, b, c, d, e, f, rfl⟩ := h
  obtain ⟨a', b', c', d', e', f', rfl⟩ := g
  exact ⟨a', b', c', d', e', f', rfl⟩

theorem Lg.ite {s t u : State} {c : Prop} [Decidable c] (h : Lg s t) (g : Lg s u) : Lg s (if c then t else u) := by split <;> assumption

theorem Lg.foldl {α : Type} (f : State → α → State) (h : ∀ t x, Lg t (f t x)) (l : List α) (s : State) : Lg s (l.foldl f s) := by
  induction l generalizing s with
  | nil => exact .refl s
  | cons x r ih => exact (h s x).trans (ih _)

theorem deliver_lg (s : State) (n : Nat) (r : BitVec 256) (f : Nat) : Lg s (s.deliver n r f) := by
  unfold State.deliver
  refine .ite (.refl s) (.ite ⟨_, _, _, _, _, _, rfl⟩ ?_)
  extract_lets size waiting
  exact .ite ⟨_, _, _, _, _, _, rfl⟩ ⟨_, _, _, _, _, _, rfl⟩

theorem raiseTo_lg (s : State) (n : Nat) (e : Ev) (l : List Nat) : Lg s (s.raiseTo n e l) := by
  unfold State.raiseTo
  extract_lets op dest r s1
  have h : Lg s s1 := ⟨_, _, _, _, _, _, rfl⟩
  exact .ite (h.trans ⟨_, _, _, _, _, _, rfl⟩) (h.trans (.foldl _ (fun t x => deliver_lg ..) _ _))

theorem wrapped_lg (s : State) (b : Bool) : Lg s (s.wrapped b) := by
  unfold State.wrapped
  exact .ite ((raiseTo_lg ..).trans ⟨_, _, _, _, _, _, rfl⟩) (.refl s)

theorem raise_lg (s : State) (n : Nat) (sc : EvScope) (e : Ev) : Lg s (s.raise n sc e) := by
  unfold State.raise
  exact .ite (.foldl _ (fun t x => deliver_lg ..) _ _) ((raiseTo_lg ..).trans (wrapped_lg ..))

theorem startSwap_lg (s : State) : Lg s (s.startSwap none false) := by
  unfold State.startSwap
  refine .ite (.refl s) (.ite ⟨_, _, _, _, _, _, rfl⟩ ?_)
  exact Lg.trans (t := { s with pair := { s.pair with swapDeferred := true } }) ⟨_, _, _, _, _, _, rfl⟩ (raise_lg ..)

theorem requestSwap_lg (s : State) : Lg s s.requestSwap := by
  unfold State.requestSwap
  refine .ite ?_ (.refl s)
  exact (Lg.trans (t := { s with pair := { s.pair with swapRequested := true } }) ⟨_, _, _, _, _, _, rfl⟩ (raise_lg ..)).trans (startSwap_lg _)

theorem publish_spec (s : State) : ∃ f : Faults, ∃ p h, s.publish = { s with
      faults := f, pair := p, host := h, clk := { s.clk with reported := true } } ∧ f.reports = s.faults.reports + 1 ∧
    f.healthy = (decide (s.faults.permanents = 0 ∧ s.faults.rbFailed = 0 ∧ s.faults.pathFailed = 0) && !s.faults.overflowPeriod &&
          !s.faults.thermalLimit && !s.supplyStands) ∧
    f.report = s.reportBytes f.healthy ∧ f.permanents = 0 ∧ f.rbFailed = 0 ∧ f.pathFailed = 0 := by
  have key : ∀ (u t : State), Lg u t → u.faults.reports = s.faults.reports + 1 →
      u.faults.healthy = (decide (s.faults.permanents = 0 ∧ s.faults.rbFailed = 0 ∧ s.faults.pathFailed = 0) && !s.faults.overflowPeriod &&
          !s.faults.thermalLimit && !s.supplyStands) →
      u.faults.report = s.reportBytes u.faults.healthy → u.faults.permanents = 0 → u.faults.rbFailed = 0 → u.faults.pathFailed = 0 →
      (∃ f, u = { s with faults := f, clk := { s.clk with reported := true } }) →
      ∃ f : Faults, ∃ p h, t = { s with faults := f, pair := p, host := h, clk := { s.clk with reported := true } } ∧ f.reports = s.faults.reports + 1 ∧
    f.healthy = (decide (s.faults.permanents = 0 ∧ s.faults.rbFailed = 0 ∧ s.faults.pathFailed = 0) && !s.faults.overflowPeriod &&
          !s.faults.thermalLimit && !s.supplyStands) ∧
    f.report = s.reportBytes f.healthy ∧ f.permanents = 0 ∧ f.rbFailed = 0 ∧ f.pathFailed = 0 := by
    rintro u t ⟨l, n, w, q, p, h, rfl⟩ h1 h2 h3 h4 h5 h6 ⟨f, rfl⟩
    exact ⟨_, p, h, rfl, h1, h2, h3, h4, h5, h6⟩
  unfold State.publish
  extract_lets f healthy was report srcc s1 s2 s3
  have h2 : Lg s1 s2 := by
    simp only [s2]; unfold when; exact .ite (raise_lg ..) (.refl s1)
  have h3 : Lg s1 s3 := h2.trans (raise_lg ..)
  refine key s1 _ (.ite (h3.trans (startSwap_lg _)) h3) rfl rfl rfl rfl rfl rfl ⟨_, rfl⟩

structure VoltAt (s t : State) : Prop where
  volts : t.faults.volts = s.faults.volts
  nom : t.faults.vhtrNominal = s.faults.vhtrNominal

theorem voltCheck_spec (s : State) (v : Nat) : (s.voltCheck v).faults.volts = s.faults.volts ∧ (∀ k, (s.voltCheck v).rail k = s.rail k) ∧
    (let out := outside (s.rail v).1 (s.rail v).2.1 1 ((s.faults.volts[v]?).getD 0)
     let nOut := if out then rd s.faults.voltOut v 0 + 1 else 0
     let nIn := if out then 0 else rd s.faults.voltIn v 0 + 1
     (s.voltCheck v).faults.voltOut = wr s.faults.voltOut v nOut ∧ (s.voltCheck v).faults.voltIn = wr s.faults.voltIn v nIn ∧
     (s.voltCheck v).faults.voltAlarm = wr s.faults.voltAlarm v
       ((decide (2 ≤ nOut) && !rd s.faults.voltAlarm v false) || (rd s.faults.voltAlarm v false && !decide (2 ≤ nIn)))) := by
  unfold State.voltCheck
  extract_lets mv r out far f nOut nIn nFar alarm raise1 fault raise2 s1 s2 out' nOut' nIn'
  have h2 : Lg s1 s2 := .ite (raise_lg ..) (.refl s1)
  have h : ∀ t, Lg s1 t → t.faults.volts = s.faults.volts ∧ (∀ k, t.rail k = s.rail k) ∧ t.faults.voltOut = wr s.faults.voltOut v nOut' ∧
      t.faults.voltIn = wr s.faults.voltIn v nIn' ∧ t.faults.voltAlarm = wr s.faults.voltAlarm v
       ((decide (2 ≤ nOut') && !rd s.faults.voltAlarm v false) || (rd s.faults.voltAlarm v false && !decide (2 ≤ nIn'))) := by
    rintro t ⟨l, n, w, q, p, h, rfl⟩
    exact ⟨rfl, fun k => rfl, rfl, rfl, rfl⟩
  exact h _ (.ite ((h2.trans (raise_lg ..)).trans (requestSwap_lg _)) h2)

theorem voltFold (l : List Nat) (hn : l.Nodup) (s : State) :
    (l.foldl State.voltCheck s).faults.volts = s.faults.volts ∧ (∀ k, (l.foldl State.voltCheck s).rail k = s.rail k) ∧
    ∀ k, (k ∉ l → rd (l.foldl State.voltCheck s).faults.voltOut k 0 = rd s.faults.voltOut k 0 ∧
        rd (l.foldl State.voltCheck s).faults.voltIn k 0 = rd s.faults.voltIn k 0 ∧
        rd (l.foldl State.voltCheck s).faults.voltAlarm k false = rd s.faults.voltAlarm k false) ∧
      (k ∈ l → rd (l.foldl State.voltCheck s).faults.voltOut k 0 = rd (s.voltCheck k).faults.voltOut k 0 ∧
        rd (l.foldl State.voltCheck s).faults.voltIn k 0 = rd (s.voltCheck k).faults.voltIn k 0 ∧
        rd (l.foldl State.voltCheck s).faults.voltAlarm k false = rd (s.voltCheck k).faults.voltAlarm k false) := by
  induction l generalizing s with
  | nil => exact ⟨rfl, fun _ => rfl, fun k => ⟨fun _ => ⟨rfl, rfl, rfl⟩, fun h => absurd h (by simp)⟩⟩
  | cons v r ih =>
    rw [List.nodup_cons] at hn
    obtain ⟨h1, h2, h3⟩ := ih hn.2 (s.voltCheck v)
    obtain ⟨g1, g2, g3⟩ := voltCheck_spec s v
    dsimp only at g3
    rw [List.foldl_cons]
    have other : ∀ k, k ≠ v → rd (s.voltCheck v).faults.voltOut k 0 = rd s.faults.voltOut k 0 ∧
        rd (s.voltCheck v).faults.voltIn k 0 = rd s.faults.voltIn k 0 ∧ rd (s.voltCheck v).faults.voltAlarm k false = rd s.faults.voltAlarm k false := by
      intro k hk
      rw [g3.1, g3.2.1, g3.2.2, rd_wr, rd_wr, rd_wr, if_neg (Ne.symm hk), if_neg (Ne.symm hk), if_neg (Ne.symm hk)]
      exact ⟨rfl, rfl, rfl⟩
    refine ⟨h1.trans g1, fun k => (h2 k).trans (g2 k), fun k => ⟨fun hk => ?_, fun hk => ?_⟩⟩
    · simp only [List.mem_cons, not_or] at hk
      obtain ⟨a, b, c⟩ := (h3 k).1 hk.2
      obtain ⟨a', b', c'⟩ := other k hk.1
      exact ⟨a.trans a', b.trans b', c.trans c'⟩
    · by_cases hv : k = v
      · subst hv
        exact (h3 k).1 hn.1
      · have hr : k ∈ r := by simpa [hv] using hk
        obtain ⟨a, b, c⟩ := (h3 k).2 hr
        obtain ⟨a', b', c'⟩ := other k hv
        obtain ⟨_, _, q1, q2, q3⟩ := voltCheck_spec (s.voltCheck v) k
        obtain ⟨_, _, r1, r2, r3⟩ := voltCheck_spec s k
        rw [a, b, c, q1, q2, q3, r1, r2, r3, g1, g2, a', b', c']
        simp only [rd_wr, if_true]
        exact ⟨trivial, trivial, trivial⟩

theorem procCheck_spec (s : State) (p c : Nat) : (s.procCheck p c).sys.mode = s.sys.mode ∧ (s.procCheck p c).faults.procDrift = s.faults.procDrift ∧
    (s.procCheck p c).faults.procBase = (if rd s.faults.procBase p 0 = 0 ∧ s.sys.mode = .standby then wr s.faults.procBase p c else s.faults.procBase) ∧
    (∀ q, q ≠ p → rd (s.procCheck p c).faults.procAlarm q false = rd s.faults.procAlarm q false) ∧
    rd (s.procCheck p c).faults.procAlarm p false = (rd s.faults.procAlarm p false ||
      decide (rd s.faults.procBase p 0 ≠ 0 ∧ s.faults.procDrift * rd s.faults.procBase p 0 < 100 * (rd s.faults.procBase p 0 - c))) := by
  unfold State.procCheck
  extract_lets base
  by_cases h0 : base = 0
  · rw [if_pos h0]
    by_cases hm : s.sys.mode = .standby
    · rw [if_pos hm, if_pos ⟨h0, hm⟩]
      exact ⟨rfl, rfl, rfl, fun _ _ => rfl, by simp [base] at h0; simp [h0] <;> rfl⟩
    · rw [if_neg hm, if_neg (fun h => hm h.2)]
      exact ⟨rfl, rfl, rfl, fun _ _ => rfl, by simp [base] at h0; simp [h0] <;> rfl⟩
  · rw [if_neg h0, if_neg (fun h : _ ∧ _ => h0 h.1)]
    by_cases hc : (!rd s.faults.procAlarm p false && decide (s.faults.procDrift * base < 100 * (base - c))) = true
    · rw [if_pos hc]
      obtain ⟨l, n, w, q, pp, h, e⟩ := raise_lg ({ s with faults := { s.faults with procAlarm := wr s.faults.procAlarm p true } } : State) (304 + p) .m {}
      rw [e]
      refine ⟨rfl, rfl, rfl, fun q hq => ?_, ?_⟩
      · show rd (wr s.faults.procAlarm p true) q false = _
        rw [rd_wr, if_neg (Ne.symm hq)]
      · show rd (wr s.faults.procAlarm p true) p false = _
        rw [rd_wr, if_pos rfl]
        simp only [Bool.and_eq_true, decide_eq_true_eq] at hc
        have : decide (rd s.faults.procBase p 0 ≠ 0 ∧ s.faults.procDrift * rd s.faults.procBase p 0 < 100 * (rd s.faults.procBase p 0 - c)) = true := by
          simp only [decide_eq_true_eq]; exact ⟨h0, hc.2⟩
        rw [this, Bool.or_true]
    · rw [if_neg hc]
      refine ⟨rfl, rfl, rfl, fun _ _ => rfl, ?_⟩
      cases ha : rd s.faults.procAlarm p false with
      | true => rfl
      | false =>
        rw [ha] at hc
        have hd : ¬ s.faults.procDrift * base < 100 * (base - c) := by simpa using hc
        have : decide (rd s.faults.procBase p 0 ≠ 0 ∧ s.faults.procDrift * rd s.faults.procBase p 0 < 100 * (rd s.faults.procBase p 0 - c)) = false := by
          simp only [decide_eq_false_iff_not]; exact fun h => hd h.2
        rw [this]; rfl

theorem procFold (l : List (Nat × Nat)) (hn : (l.map Prod.snd).Nodup) (s : State) :
    (l.foldl (fun t e => t.procCheck e.2 e.1) s).sys.mode = s.sys.mode ∧ (l.foldl (fun t e => t.procCheck e.2 e.1) s).faults.procDrift = s.faults.procDrift ∧
    ∀ k, (k ∉ l.map Prod.snd → rd (l.foldl (fun t e => t.procCheck e.2 e.1) s).faults.procBase k 0 = rd s.faults.procBase k 0 ∧
        rd (l.foldl (fun t e => t.procCheck e.2 e.1) s).faults.procAlarm k false = rd s.faults.procAlarm k false) ∧
      (∀ c, (c, k) ∈ l → rd (l.foldl (fun t e => t.procCheck e.2 e.1) s).faults.procBase k 0 = rd (s.procCheck k c).faults.procBase k 0 ∧
        rd (l.foldl (fun t e => t.procCheck e.2 e.1) s).faults.procAlarm k false = rd (s.procCheck k c).faults.procAlarm k false) := by
  induction l generalizing s with
  | nil => exact ⟨rfl, rfl, fun k => ⟨fun _ => ⟨rfl, rfl⟩, fun c h => absurd h (by simp)⟩⟩
  | cons e r ih =>
    obtain ⟨c, v⟩ := e
    simp only [List.map_cons, List.nodup_cons] at hn
    obtain ⟨h1, h2, h3⟩ := ih hn.2 (s.procCheck v c)
    obtain ⟨g1, g2, g3, g4, g5⟩ := procCheck_spec s v c
    rw [List.foldl_cons]
    dsimp only
    have other : ∀ k, k ≠ v → rd (s.procCheck v c).faults.procBase k 0 = rd s.faults.procBase k 0 ∧
        rd (s.procCheck v c).faults.procAlarm k false = rd s.faults.procAlarm k false := by
      intro k hk
      refine ⟨?_, g4 k hk⟩
      rw [g3]; split
      · rw [rd_wr, if_neg (Ne.symm hk)]
      · rfl
    refine ⟨h1.trans g1, h2.trans g2, fun k => ⟨fun hk => ?_, fun c' hk => ?_⟩⟩
    · simp only [List.map_cons, List.mem_cons, not_or] at hk
      obtain ⟨a, b⟩ := (h3 k).1 hk.2
      obtain ⟨a', b'⟩ := other k hk.1
      exact ⟨a.trans a', b.trans b'⟩
    · by_cases hv : k = v
      · subst hv
        have : c' = c := by
          rcases List.mem_cons.1 hk with h | h
          · exact (Prod.mk.inj h).1
          · exact absurd (List.mem_map.2 ⟨_, h, rfl⟩) hn.1
        subst this
        exact (h3 k).1 hn.1
      · have hr : (c', k) ∈ r := by
          rcases List.mem_cons.1 hk with h | h
          · exact absurd (Prod.mk.inj h).2 hv
          · exact h
        obtain ⟨a, b⟩ := (h3 k).2 c' hr
        obtain ⟨a', b'⟩ := other k hv
        obtain ⟨q1, q2, q3, q4, q5⟩ := procCheck_spec (s.procCheck v c) k c'
        obtain ⟨r1, r2, r3, r4, r5⟩ := procCheck_spec s k c'
        rw [a, b, q3, q5, r3, r5, g1, g2, a', b']
        refine ⟨?_, rfl⟩
        split
        · rw [rd_wr, rd_wr, if_pos rfl, if_pos rfl]
        · exact a'

theorem scope_setScope (s : State) (n m : Nat) (x : Scope) : (s.setScope n x).scope m = if n = m then x else s.scope m := by
  unfold State.scope State.setScope
  dsimp only [rd]
  rw [find?_wr]
  split <;> rfl

theorem pendFold (l : List Nat) (s : State) (m : Nat) :
    (l.foldl (fun t n => t.setScope n { t.scope n with pending := true }) s).scope m =
      if l.contains m then { s.scope m with pending := true } else s.scope m := by
  induction l generalizing s with
  | nil => rfl
  | cons n r ih =>
    rw [List.foldl_cons, ih, scope_setScope]
    by_cases h : n = m
    · subst h; simp
    · simp [h, Ne.symm h]

end Sys2Proof.Machine
end

