-- ==== Sys2Proof/Laws/Leases.lean ====
section
/-! SUPPORT. Leases: what hearing a frame, starting and ending a lease do. -/

namespace Sys2Proof.Machine

theorem refPort_set (s : State) (b : Bool) (p : RefPort) : (s.setRefPort b p).refPort b = p := by
  cases b <;> rfl

theorem refPort_told {s t : State} (h : Told s t) (b : Bool) : t.refPort b = s.refPort b := by
  obtain ⟨f, g, rfl⟩ := h; rfl

theorem told_pair {s t : State} (h : Told s t) : t.pair = s.pair ∧ t.drive = s.drive ∧ t.imp = s.imp ∧ t.atTick = s.atTick ∧ t.sys = s.sys := by
  obtain ⟨f, g, rfl⟩ := h; exact ⟨rfl, rfl, rfl, rfl, rfl⟩

theorem setRefPort_pair (s : State) (b : Bool) (p : RefPort) : (s.setRefPort b p).pair.refHolder = s.pair.refHolder ∧
    (s.setRefPort b p).pair.refX = s.pair.refX ∧ (s.setRefPort b p).pair.refEpoch = s.pair.refEpoch ∧ (s.setRefPort b p).pair.refReady = s.pair.refReady ∧
    (s.setRefPort b p).pair.refEnd = s.pair.refEnd ∧ (s.setRefPort b p).pair.held = s.pair.held ∧ (s.setRefPort b p).pair.epoch = s.pair.epoch ∧
    (s.setRefPort b p).pair.armed = s.pair.armed ∧ (s.setRefPort b p).drive = s.drive ∧ (s.setRefPort b p).sys = s.sys := by
  cases b <;> exact ⟨rfl, rfl, rfl, rfl, rfl, rfl, rfl, rfl, rfl, rfl⟩

theorem refHeard_pair (s : State) (b : Bool) (now : Nat) : (s.refHeard b now).pair.refHolder = s.pair.refHolder ∧
    (s.refHeard b now).pair.refX = s.pair.refX ∧ (s.refHeard b now).pair.refEpoch = s.pair.refEpoch ∧ (s.refHeard b now).pair.refReady = s.pair.refReady ∧
    (s.refHeard b now).pair.refEnd = s.pair.refEnd := by
  unfold State.refHeard
  dsimp only
  split
  · have g := setRefPort_pair s b { s.refPort b with last := now, valid := 3 }
    exact ⟨g.1, g.2.1, g.2.2.1, g.2.2.2.1, g.2.2.2.2.1⟩
  · split
    · rw [(told_pair (State.raiseCore_told ..)).1]
      have g := setRefPort_pair s b { s.refPort b with last := now, valid := 3, up := true, upSince := now }
      exact ⟨g.1, g.2.1, g.2.2.1, g.2.2.2.1, g.2.2.2.2.1⟩
    · have g := setRefPort_pair s b { s.refPort b with last := now, valid := (s.refPort b).valid + 1 }
      exact ⟨g.1, g.2.1, g.2.2.1, g.2.2.2.1, g.2.2.2.2.1⟩

theorem refHeard_port (s : State) (b : Bool) (now : Nat) : ((s.refHeard b now).refPort b).last = now ∧
    ((s.refHeard b now).refPort b).up = ((s.refPort b).up || decide (2 ≤ (s.refPort b).valid)) := by
  unfold State.refHeard
  dsimp only
  split
  · rename_i h
    rw [refPort_set]
    exact ⟨rfl, by rw [h]; rfl⟩
  · rename_i h
    split
    · rename_i h2
      rw [refPort_told (State.raiseCore_told ..)]
      have g : ∀ (u : State) r, (({ u with pair := { u.pair with recovered := r } } : State).refPort b) = u.refPort b := fun u r => by cases b <;> rfl
      rw [g, refPort_set]
      exact ⟨rfl, by simp [h2]⟩
    · rename_i h2
      rw [refPort_set]
      refine ⟨rfl, ?_⟩
      have h' : (s.refPort b).up = false := by simpa using h
      show (s.refPort b).up = _
      rw [h', decide_eq_false h2]; rfl

theorem spoke_pair {s t : State} (h : Spoke s t) : t.pair.epoch = s.pair.epoch ∧ t.drive = s.drive ∧ (∀ b, t.refPort b = s.refPort b) ∧
    t.pair.em = s.pair.em := by
  obtain ⟨_, _, _, _, _, rfl⟩ := h
  exact ⟨rfl, rfl, fun _ => rfl, rfl⟩

theorem endCommands_spec (s : State) : s.endCommands.pair.epoch = s.pair.epoch ∧ s.endCommands.drive = s.drive ∧
    (∀ b, s.endCommands.refPort b = s.refPort b) ∧ s.endCommands.pair.em = s.pair.em := by
  have h1 : Spoke s (s.imp.records.foldl (fun t r => match r.cmd with | some c => t.answer c stNotLeaseHolder [] | none => t) s) :=
    Spoke.foldl _ (fun t r => by split <;> [exact State.answer_spoke ..; exact .refl _]) _ _
  unfold State.endCommands
  revert h1
  generalize s.imp.records.foldl _ s = t
  intro h1
  have h2 := spoke_pair h1
  dsimp only
  split
  · split
    · exact h2
    · have g := spoke_pair (State.answer_spoke { t with imp := { t.imp with records := t.imp.records.map (fun r => { r with cmd := none }) } } ‹_› stNotLeaseHolder [])
      exact ⟨g.1.trans h2.1, g.2.1.trans h2.2.1, fun b => (g.2.2.1 b).trans (h2.2.2.1 b), g.2.2.2.trans h2.2.2.2⟩
  · exact h2

theorem endLease_spec (s : State) (lapse event : Bool) (h : s.pair.held = true) :
    (s.endLease lapse event).pair.held = false ∧ (s.endLease lapse event).pair.armed = none ∧
    (s.endLease lapse event).pair.image = some s.pair.epoch ∧
    (s.endLease lapse event).drive = { s.drive with closed := false, holding := false } ∧
    (∀ b, (s.endLease lapse event).refPort b = s.refPort b) ∧
    (lapse = true → TickOp.enter .standby ∈ (s.endLease lapse event).atTick) := by
  unfold State.endLease
  rw [h, if_neg (by decide)]
  have g := endCommands_spec { s with sys := { s.sys with target := if (lapse && s.sys.mode != .standby) = true then s.sys.mode else s.sys.target } }
  revert g
  dsimp only
  generalize State.endCommands _ = t
  intro g
  have key : ∀ w : State, w.pair.held = false → w.pair.armed = none → w.pair.image = some s.pair.epoch →
      w.drive = { s.drive with closed := false, holding := false } → (∀ b, w.refPort b = s.refPort b) →
      ∀ x : State, Told w x → ((if lapse = true then x.due (.enter .standby) else x).pair.held = false ∧
        (if lapse = true then x.due (.enter .standby) else x).pair.armed = none ∧
        (if lapse = true then x.due (.enter .standby) else x).pair.image = some s.pair.epoch ∧
        (if lapse = true then x.due (.enter .standby) else x).drive = { s.drive with closed := false, holding := false } ∧
        (∀ b, (if lapse = true then x.due (.enter .standby) else x).refPort b = s.refPort b) ∧
        (lapse = true → TickOp.enter .standby ∈ (if lapse = true then x.due (.enter .standby) else x).atTick)) := by
    rintro w a1 a2 a3 a4 a5 x ⟨f, k, rfl⟩
    split
    · exact ⟨a1, a2, a3, a4, a5, fun _ => List.mem_append_right _ (List.mem_singleton.2 rfl)⟩
    · rename_i hl
      exact ⟨a1, a2, a3, a4, a5, fun hc => absurd hc hl⟩
  refine key _ ?_ ?_ ?_ ?_ ?_ _ (Told.ite (State.raiseCore_told ..) (.refl _))
  · rfl
  · rfl
  · exact congrArg some g.1
  · show { t.drive with closed := false, holding := false } = _
    rw [g.2.1]
  · intro b; exact g.2.2.1 b

theorem endLease_idle (s : State) (a b : Bool) (h : s.pair.held = false) : s.endLease a b = s := by
  unfold State.endLease; rw [h]; rfl

theorem served_not {s : State} {port : Bool} (h : s.refServed port = false ∨ s.referee = true) : (!s.refServed port || s.referee) = true := by
  rcases h with h | h <;> simp [h]

theorem served_yes {s : State} {port : Bool} (h : s.refServed port = true) (g : s.referee = false) : (!s.refServed port || s.referee) = false := by
  simp [h, g]

theorem startLease_spec (s : State) (epoch len now : Nat) (take : Prop)
    (ht : take ↔ (s.mirror.ready = true ∧ s.mirror.epoch = (epoch + 2 ^ 32 - 1) % 2 ^ 32 ∨ s.pair.image = some ((epoch + 2 ^ 32 - 1) % 2 ^ 32))) :
    (s.startLease epoch len now).pair.held = true ∧ (s.startLease epoch len now).pair.epoch = epoch ∧
    (s.startLease epoch len now).pair.em = now + len - 33 ∧ (s.startLease epoch len now).pair.armed = none ∧
    ((s.startLease epoch len now).pair.takeover = true ↔ take) ∧ ((s.startLease epoch len now).drive.closed = true ↔ take) ∧
    (s.startLease epoch len now).imp = s.imp := by
  unfold State.startLease
  extract_lets before mirrored own sd sp sm s1
  have hk : (mirrored || own) = true ↔ take := by
    rw [ht]
    simp only [mirrored, own, before, Bool.or_eq_true, Bool.and_eq_true, decide_eq_true_eq, Bool.not_eq_true']
    constructor
    · rintro (h | h)
      · exact .inl h
      · exact .inr h.2
    · intro h
      by_cases hm : s.mirror.ready = true ∧ s.mirror.epoch = (epoch + 2 ^ 32 - 1) % 2 ^ 32
      · exact .inl hm
      · rcases h with h | h
        · exact absurd h hm
        · refine .inr ⟨?_, h⟩
          by_contra hc
          simp only [Bool.not_eq_false, Bool.and_eq_true, decide_eq_true_eq] at hc
          exact hm hc
  have g := told_pair (State.raiseCore_told s1.driveStand 63 .a { data := epoch })
  split
  · rw [g.1, g.2.1, g.2.2.1]
    exact ⟨rfl, rfl, rfl, rfl, hk, hk, rfl⟩
  · exact ⟨rfl, rfl, rfl, rfl, hk, hk, rfl⟩

theorem fromRef_yes (s : State) (port : Bool) (type : Nat) (f : RefFrame) (now : Nat) (act : State → State) (h : s.refServed port = true)
    (g : s.referee = false) : s.fromReferee port type f now act = if refValid type f then act ((s.islandAt now).refHeard port now) else (s.islandAt now).refBad port := by
  unfold State.fromReferee
  dsimp only
  rw [if_neg (by rw [served_yes h g]; decide)]

theorem fromRef_no (s : State) (port : Bool) (type : Nat) (f : RefFrame) (now : Nat) (act : State → State) (h : s.refServed port = false ∨ s.referee = true) :
    s.fromReferee port type f now act = s.islandAt now := by
  unfold State.fromReferee
  dsimp only
  rw [if_pos (served_not h)]

theorem hear_no (s : State) (type : Nat) (f : RefFrame) (now : Nat) (act : State → State) (h : s.referee = false ∨ s.island = false) :
    s.refereeHear type f now act = s.islandAt now := by
  unfold State.refereeHear
  dsimp only
  rw [if_pos (by rcases h with h | h <;> simp [h])]

theorem hear_yes (s : State) (type : Nat) (f : RefFrame) (now : Nat) (act : State → State) (h : s.referee = true) (g : s.island = true) :
    s.refereeHear type f now act = if refValid type f then
      (act (((s.islandAt now).refHeard f.site now).setRefPort f.site { ((s.islandAt now).refHeard f.site now).refPort f.site with
        flags := f.flags, epoch := f.epoch.toNat, seen := true })).refereeWatch else (s.islandAt now).refBad f.site := by
  unfold State.refereeHear
  dsimp only
  rw [if_neg (by rw [h, g]; decide)]

end Sys2Proof.Machine
end

