-- ==== Sys2Proof/Laws/MirrorLink.lean ====
section
/-! SUPPORT. The mirror link: what a message does first, and what starting a resync does. -/

namespace Sys2Proof.Machine

theorem told_rest {s t : State} (h : Told s t) : t.pair = s.pair ∧ t.drive = s.drive ∧ t.imp = s.imp ∧ t.mirror = s.mirror ∧ t.sys = s.sys ∧ t.sched = s.sched ∧ t.clk = s.clk := by
  obtain ⟨f, g, rfl⟩ := h; exact ⟨rfl, rfl, rfl, rfl, rfl, rfl, rfl⟩

theorem startResync_spec (s : State) : s.startResync.mirror.resync = true ∧ s.startResync.mirror.ready = false ∧ s.startResync.drive = s.drive := by
  unfold State.startResync
  have g := told_rest (State.raise_told
    ({ s with mirror := { s.mirror with resync := true, ready := false, dropped := 0, image := none, loopset := none } } : State) 69 .m {})
  rw [g.2.2.2.1, g.2.1]
  exact ⟨rfl, rfl, rfl⟩

theorem mirrorIn_no (s : State) (h : MirrorHdr) (act : State → State) (g : s.asPartner = false) : s.mirrorIn h act = s := by
  unfold State.mirrorIn; rw [g]; rfl

theorem mirrorIn_yes (s u : State) (h : MirrorHdr) (act : State → State) (g : s.asPartner = true) (gap : Prop)
    (hg : gap ↔ ∃ q, s.mirror.seqRx = some q ∧ h.seq.toNat ≠ (q + 1) % 2 ^ 32)
    (hu : (gap ∧ u = ({ s with mirror := { s.mirror with seqRx := some h.seq.toNat, epoch := h.epoch.toNat } } : State).startResync) ∨
      (¬ gap ∧ u = { s with mirror := { s.mirror with seqRx := some h.seq.toNat, epoch := h.epoch.toNat } })) : s.mirrorIn h act = act u := by
  have hk : (match s.mirror.seqRx with | some q => decide (h.seq.toNat ≠ (q + 1) % 2 ^ 32) | none => false) = true ↔ gap := by
    rw [hg]
    cases s.mirror.seqRx <;> simp
  unfold State.mirrorIn
  rw [g, if_neg (by decide)]
  dsimp only
  rcases hu with ⟨a, rfl⟩ | ⟨a, rfl⟩
  · exact congrArg act (if_pos (hk.2 a))
  · exact congrArg act (if_neg (fun hc => a (hk.1 hc)))

theorem side_atTick_due (s : State) (o p : TickOp) (h : o ∈ s.atTick) : o ∈ (s.due p).atTick := List.mem_append_left _ h

end Sys2Proof.Machine
end

