-- ==== Sys2Proof/Laws/PerInstr.lean ====
section
/-! SUPPORT. Statements about every command as syntax, one lemma per constructor of `Instr`. -/

namespace Sys2Proof.Laws.Opcode

/-- A command that comes through the mailbox has an opcode of 16 bits (R467), and names no unit outside the module by its form. -/
def Statement (i : Instr) : Prop :=
  ∀ (op : Nat) (m : MbCmd), Machine.mailboxOf i = some (op, m) → op < 2 ^ 16 ∧ WellFormed i = true

theorem getInfo (c : MbCmd) : Statement (Instr.getInfo c) := by
  intro op m h
  cases h
  exact ⟨by decide, rfl⟩
theorem getHealth (c : MbCmd) : Statement (Instr.getHealth c) := by
  intro op m h
  cases h
  exact ⟨by decide, rfl⟩
theorem setMode (c : MbCmd) : Statement (Instr.setMode c) := by
  intro op m h
  cases h
  exact ⟨by decide, rfl⟩
theorem loadDescriptor (c : MbCmd) : Statement (Instr.loadDescriptor c) := by
  intro op m h
  cases h
  exact ⟨by decide, rfl⟩
theorem readDescriptor (c : MbCmd) : Statement (Instr.readDescriptor c) := by
  intro op m h
  cases h
  exact ⟨by decide, rfl⟩
theorem plateWrite (c : MbCmd) : Statement (Instr.plateWrite c) := by
  intro op m h
  cases h
  exact ⟨by decide, rfl⟩
theorem plateRead (c : MbCmd) : Statement (Instr.plateRead c) := by
  intro op m h
  cases h
  exact ⟨by decide, rfl⟩
theorem plateRoute (c : MbCmd) : Statement (Instr.plateRoute c) := by
  intro op m h
  cases h
  exact ⟨by decide, rfl⟩
theorem plateRouteDelta (c : MbCmd) : Statement (Instr.plateRouteDelta c) := by
  intro op m h
  cases h
  exact ⟨by decide, rfl⟩
theorem impress (c : MbCmd) : Statement (Instr.impress c) := by
  intro op m h
  cases h
  exact ⟨by decide, rfl⟩
theorem proofRead (c : MbCmd) : Statement (Instr.proofRead c) := by
  intro op m h
  cases h
  exact ⟨by decide, rfl⟩
theorem slotTableWrite (c : MbCmd) : Statement (Instr.slotTableWrite c) := by
  intro op m h
  cases h
  exact ⟨by decide, rfl⟩
theorem slotTableSwap (c : MbCmd) : Statement (Instr.slotTableSwap c) := by
  intro op m h
  cases h
  exact ⟨by decide, rfl⟩
theorem gateConfig (c : MbCmd) : Statement (Instr.gateConfig c) := by
  intro op m h
  cases h
  exact ⟨by decide, rfl⟩
theorem domainConfig (c : MbCmd) : Statement (Instr.domainConfig c) := by
  intro op m h
  cases h
  exact ⟨by decide, rfl⟩
theorem queueConfig (c : MbCmd) : Statement (Instr.queueConfig c) := by
  intro op m h
  cases h
  exact ⟨by decide, rfl⟩
theorem queueReset (c : MbCmd) : Statement (Instr.queueReset c) := by
  intro op m h
  cases h
  exact ⟨by decide, rfl⟩
theorem loopConfig (c : MbCmd) : Statement (Instr.loopConfig c) := by
  intro op m h
  cases h
  exact ⟨by decide, rfl⟩
theorem loopRead (c : MbCmd) : Statement (Instr.loopRead c) := by
  intro op m h
  cases h
  exact ⟨by decide, rfl⟩
theorem toneAssign (c : MbCmd) : Statement (Instr.toneAssign c) := by
  intro op m h
  cases h
  exact ⟨by decide, rfl⟩
theorem hatchLoad (c : MbCmd) : Statement (Instr.hatchLoad c) := by
  intro op m h
  cases h
  exact ⟨by decide, rfl⟩
theorem channelRead (c : MbCmd) : Statement (Instr.channelRead c) := by
  intro op m h
  cases h
  exact ⟨by decide, rfl⟩
theorem channelForce (c : MbCmd) : Statement (Instr.channelForce c) := by
  intro op m h
  cases h
  exact ⟨by decide, rfl⟩
theorem channelRetire (c : MbCmd) : Statement (Instr.channelRetire c) := by
  intro op m h
  cases h
  exact ⟨by decide, rfl⟩
theorem channelRestore (c : MbCmd) : Statement (Instr.channelRestore c) := by
  intro op m h
  cases h
  exact ⟨by decide, rfl⟩
theorem calRun (c : MbCmd) : Statement (Instr.calRun c) := by
  intro op m h
  cases h
  exact ⟨by decide, rfl⟩
theorem calStatus (c : MbCmd) : Statement (Instr.calStatus c) := by
  intro op m h
  cases h
  exact ⟨by decide, rfl⟩
theorem calPolicy (c : MbCmd) : Statement (Instr.calPolicy c) := by
  intro op m h
  cases h
  exact ⟨by decide, rfl⟩
theorem timeConfig (c : MbCmd) : Statement (Instr.timeConfig c) := by
  intro op m h
  cases h
  exact ⟨by decide, rfl⟩
theorem timeStatus (c : MbCmd) : Statement (Instr.timeStatus c) := by
  intro op m h
  cases h
  exact ⟨by decide, rfl⟩
theorem pairConfig (c : MbCmd) : Statement (Instr.pairConfig c) := by
  intro op m h
  cases h
  exact ⟨by decide, rfl⟩
theorem pairStatus (c : MbCmd) : Statement (Instr.pairStatus c) := by
  intro op m h
  cases h
  exact ⟨by decide, rfl⟩
theorem pairSwap (c : MbCmd) : Statement (Instr.pairSwap c) := by
  intro op m h
  cases h
  exact ⟨by decide, rfl⟩
theorem refereeConfig (c : MbCmd) : Statement (Instr.refereeConfig c) := by
  intro op m h
  cases h
  exact ⟨by decide, rfl⟩
theorem fwStage (c : MbCmd) : Statement (Instr.fwStage c) := by
  intro op m h
  cases h
  exact ⟨by decide, rfl⟩
theorem fwActivate (c : MbCmd) : Statement (Instr.fwActivate c) := by
  intro op m h
  cases h
  exact ⟨by decide, rfl⟩
theorem fuseRead (c : MbCmd) : Statement (Instr.fuseRead c) := by
  intro op m h
  cases h
  exact ⟨by decide, rfl⟩
theorem fuseProgram (c : MbCmd) : Statement (Instr.fuseProgram c) := by
  intro op m h
  cases h
  exact ⟨by decide, rfl⟩
theorem eventConfig (c : MbCmd) : Statement (Instr.eventConfig c) := by
  intro op m h
  cases h
  exact ⟨by decide, rfl⟩
theorem faultLogRead (c : MbCmd) : Statement (Instr.faultLogRead c) := by
  intro op m h
  cases h
  exact ⟨by decide, rfl⟩
theorem perfConfig (c : MbCmd) : Statement (Instr.perfConfig c) := by
  intro op m h
  cases h
  exact ⟨by decide, rfl⟩
theorem xlateConfig (c : MbCmd) : Statement (Instr.xlateConfig c) := by
  intro op m h
  cases h
  exact ⟨by decide, rfl⟩
theorem xlateResume (c : MbCmd) : Statement (Instr.xlateResume c) := by
  intro op m h
  cases h
  exact ⟨by decide, rfl⟩
theorem mgmtDatagram (port : Bool) (d : Datagram) : Statement (Instr.mgmtDatagram port d) := by
  intro op m h
  cases h
theorem mbRspAck (fn : BitVec 7) (value : W32) : Statement (Instr.mbRspAck fn value) := by
  intro op m h
  cases h
theorem qdTail (fn : BitVec 7) (queue : BitVec 9) (value : W32) : Statement (Instr.qdTail fn queue value) := by
  intro op m h
  cases h
theorem qdCplHead (fn : BitVec 7) (value : W32) : Statement (Instr.qdCplHead fn value) := by
  intro op m h
  cases h
theorem tmNsRead (fn : BitVec 7) : Statement (Instr.tmNsRead fn) := by
  intro op m h
  cases h
theorem tmAdj (fn : BitVec 7) (value : W32) : Statement (Instr.tmAdj fn value) := by
  intro op m h
  cases h
theorem evStatusClear (fn : BitVec 7) (word : Nat) (value : W32) : Statement (Instr.evStatusClear fn word value) := by
  intro op m h
  cases h
theorem evRingHead (fn : BitVec 7) (value : W32) : Statement (Instr.evRingHead fn value) := by
  intro op m h
  cases h
theorem paCommit (fn : BitVec 7) (value : W32) : Statement (Instr.paCommit fn value) := by
  intro op m h
  cases h
theorem pcCycleLoRead (fn : BitVec 7) : Statement (Instr.pcCycleLoRead fn) := by
  intro op m h
  cases h
theorem countLoRead (fn : BitVec 7) (n : BitVec 3) : Statement (Instr.countLoRead fn n) := by
  intro op m h
  cases h
theorem clearedByRead (r : RcReg) : Statement (Instr.clearedByRead r) := by
  intro op m h
  cases h
theorem msixUnmask (fn : BitVec 7) (vector : Nat) : Statement (Instr.msixUnmask fn vector) := by
  intro op m h
  cases h
theorem barBadAccess (fn : BitVec 7) (write : Bool) : Statement (Instr.barBadAccess fn write) := by
  intro op m h
  cases h
theorem registerWrite (fn : BitVec 7) (bar2 : Bool) (off : BitVec 22) (value : W32) : Statement (Instr.registerWrite fn bar2 off value) := by
  intro op m h
  cases h
theorem flashEraseSector : Statement (Instr.flashEraseSector) := by
  intro op m h
  cases h
theorem flashProgramSector : Statement (Instr.flashProgramSector) := by
  intro op m h
  cases h
theorem flashReadSector : Statement (Instr.flashReadSector) := by
  intro op m h
  cases h
theorem repeatBoot : Statement (Instr.repeatBoot) := by
  intro op m h
  cases h
theorem flashOpDone (ok : Bool) : Statement (Instr.flashOpDone ok) := by
  intro op m h
  cases h
theorem flashWriteDone (ok : Bool) : Statement (Instr.flashWriteDone ok) := by
  intro op m h
  cases h
theorem rstNAssert : Statement (Instr.rstNAssert) := by
  intro op m h
  cases h
theorem rstNRelease (siteId pref clkMode : Bool) : Statement (Instr.rstNRelease siteId pref clkMode) := by
  intro op m h
  cases h
theorem lpllLock : Statement (Instr.lpllLock) := by
  intro op m h
  cases h
theorem bootComplete : Statement (Instr.bootComplete) := by
  intro op m h
  cases h
theorem clockLoss (interconnectRuns : Bool) : Statement (Instr.clockLoss interconnectRuns) := by
  intro op m h
  cases h
theorem ethrefLoss : Statement (Instr.ethrefLoss) := by
  intro op m h
  cases h
theorem coreSupplyCollapse : Statement (Instr.coreSupplyCollapse) := by
  intro op m h
  cases h
theorem vddLeaseLoss : Statement (Instr.vddLeaseLoss) := by
  intro op m h
  cases h
theorem flrVf (fn : BitVec 7) : Statement (Instr.flrVf fn) := by
  intro op m h
  cases h
theorem flrPf : Statement (Instr.flrPf) := by
  intro op m h
  cases h
theorem conventionalReset : Statement (Instr.conventionalReset) := by
  intro op m h
  cases h
theorem vfEnable (on : Bool) : Statement (Instr.vfEnable on) := by
  intro op m h
  cases h
theorem powerStateChange (fn : BitVec 7) (d3 : Bool) : Statement (Instr.powerStateChange fn d3) := by
  intro op m h
  cases h
theorem masterResetMidBurst (master : Nat) : Statement (Instr.masterResetMidBurst master) := by
  intro op m h
  cases h
theorem busErrorAccess (master : Nat) (write : Bool) (target : BusTarget) : Statement (Instr.busErrorAccess master write target) := by
  intro op m h
  cases h
theorem frameTick (i : TickIn) : Statement (Instr.frameTick i) := by
  intro op m h
  cases h
theorem commitPoint : Statement (Instr.commitPoint) := by
  intro op m h
  cases h
theorem conversionBoundary (core : Nat) (raw : Int) : Statement (Instr.conversionBoundary core raw) := by
  intro op m h
  cases h
theorem readbackConversion (conv : Nat) (r : Readback) : Statement (Instr.readbackConversion conv r) := by
  intro op m h
  cases h
theorem rangeChangeRelease (channel : Nat) : Statement (Instr.rangeChangeRelease channel) := by
  intro op m h
  cases h
theorem snapshotComplete : Statement (Instr.snapshotComplete) := by
  intro op m h
  cases h
theorem proofResult : Statement (Instr.proofResult) := by
  intro op m h
  cases h
theorem localisationEnd : Statement (Instr.localisationEnd) := by
  intro op m h
  cases h
theorem slotLatch : Statement (Instr.slotLatch) := by
  intro op m h
  cases h
theorem slotStart : Statement (Instr.slotStart) := by
  intro op m h
  cases h
theorem tokenRefill : Statement (Instr.tokenRefill) := by
  intro op m h
  cases h
theorem healthReport : Statement (Instr.healthReport) := by
  intro op m h
  cases h
theorem voltSample (v : List Nat) : Statement (Instr.voltSample v) := by
  intro op m h
  cases h
theorem procMonitorCount (v : List Nat) : Statement (Instr.procMonitorCount v) := by
  intro op m h
  cases h
theorem calTempCheck : Statement (Instr.calTempCheck) := by
  intro op m h
  cases h
theorem calStart : Statement (Instr.calStart) := by
  intro op m h
  cases h
theorem calInForce (scope : BitVec 16) (d : CalData) : Statement (Instr.calInForce scope d) := by
  intro op m h
  cases h
theorem startupCalEnd : Statement (Instr.startupCalEnd) := by
  intro op m h
  cases h
theorem captureEnd : Statement (Instr.captureEnd) := by
  intro op m h
  cases h
theorem descriptorFetched (dom : BitVec 7) (queue : BitVec 9) (descs : List (BitVec 256)) : Statement (Instr.descriptorFetched dom queue descs) := by
  intro op m h
  cases h
theorem descriptorCheck (dom : BitVec 7) (queue : BitVec 9) : Statement (Instr.descriptorCheck dom queue) := by
  intro op m h
  cases h
theorem arbitrationDecision : Statement (Instr.arbitrationDecision) := by
  intro op m h
  cases h
theorem batchSubmit : Statement (Instr.batchSubmit) := by
  intro op m h
  cases h
theorem routeJobStart : Statement (Instr.routeJobStart) := by
  intro op m h
  cases h
theorem routeJobComplete (traceFails : BitVec 2) : Statement (Instr.routeJobComplete traceFails) := by
  intro op m h
  cases h
theorem completionWrite (dom : BitVec 7) : Statement (Instr.completionWrite dom) := by
  intro op m h
  cases h
theorem hdmaBurst : Statement (Instr.hdmaBurst) := by
  intro op m h
  cases h
theorem translationWalkDone (dom : BitVec 7) (w : Walk) : Statement (Instr.translationWalkDone dom w) := by
  intro op m h
  cases h
theorem faultEntryHandled : Statement (Instr.faultEntryHandled) := by
  intro op m h
  cases h
theorem go (port : Bool) (now : Nat) : Statement (Instr.go port now) := by
  intro op m h
  cases h
theorem arm (port : Bool) (f : RefFrame) (now : Nat) : Statement (Instr.arm port f now) := by
  intro op m h
  cases h
theorem renew (port : Bool) (f : RefFrame) (now : Nat) : Statement (Instr.renew port f now) := by
  intro op m h
  cases h
theorem disarm (port : Bool) (f : RefFrame) (now : Nat) : Statement (Instr.disarm port f now) := by
  intro op m h
  cases h
theorem refStatus (port : Bool) (f : RefFrame) (now : Nat) : Statement (Instr.refStatus port f now) := by
  intro op m h
  cases h
theorem refLinkDown (port : Bool) (now : Nat) : Statement (Instr.refLinkDown port now) := by
  intro op m h
  cases h
theorem refIsolated (port : Bool) (now : Nat) : Statement (Instr.refIsolated port now) := by
  intro op m h
  cases h
theorem leaseEnd (now : Nat) : Statement (Instr.leaseEnd now) := by
  intro op m h
  cases h
theorem claimSend (now : Nat) : Statement (Instr.claimSend now) := by
  intro op m h
  cases h
theorem statusSend (port : Bool) (now : Nat) : Statement (Instr.statusSend port now) := by
  intro op m h
  cases h
theorem heartbeatStale (now : Nat) : Statement (Instr.heartbeatStale now) := by
  intro op m h
  cases h
theorem recoveredClockLoss (now : Nat) : Statement (Instr.recoveredClockLoss now) := by
  intro op m h
  cases h
theorem refereeStart (now : Nat) : Statement (Instr.refereeStart now) := by
  intro op m h
  cases h
theorem refereeClaim (f : RefFrame) (now : Nat) : Statement (Instr.refereeClaim f now) := by
  intro op m h
  cases h
theorem refereeRelease (site : Bool) (now : Nat) : Statement (Instr.refereeRelease site now) := by
  intro op m h
  cases h
theorem refereeStatusDriving (f : RefFrame) (now : Nat) : Statement (Instr.refereeStatusDriving f now) := by
  intro op m h
  cases h
theorem refereeExpiry (now : Nat) : Statement (Instr.refereeExpiry now) := by
  intro op m h
  cases h
theorem refereeArm (now : Nat) : Statement (Instr.refereeArm now) := by
  intro op m h
  cases h
theorem refereeGo (now : Nat) : Statement (Instr.refereeGo now) := by
  intro op m h
  cases h
theorem mirrorFrame (h : MirrorHdr) (m : FrameMsg) : Statement (Instr.mirrorFrame h m) := by
  intro op m h
  cases h
theorem mirrorImpression (h : MirrorHdr) (m : ImpressionMsg) : Statement (Instr.mirrorImpression h m) := by
  intro op m h
  cases h
theorem mirrorRequest (h : MirrorHdr) (m : RequestMsg) : Statement (Instr.mirrorRequest h m) := by
  intro op m h
  cases h
theorem mirrorCompletion (h : MirrorHdr) (dom index : Nat) (record : BitVec 256) : Statement (Instr.mirrorCompletion h dom index record) := by
  intro op m h
  cases h
theorem mirrorProof (h : MirrorHdr) (record : List Byte) : Statement (Instr.mirrorProof h record) := by
  intro op m h
  cases h
theorem mirrorPin (h : MirrorHdr) (cell : Nat) (pin : Option Bool) : Statement (Instr.mirrorPin h cell pin) := by
  intro op m h
  cases h
theorem mirrorImage (h : MirrorHdr) (capture segment : Nat) (codes : List Nat) : Statement (Instr.mirrorImage h capture segment codes) := by
  intro op m h
  cases h
theorem mirrorLoopset (h : MirrorHdr) (capture segment : Nat) (bytes : List Byte) : Statement (Instr.mirrorLoopset h capture segment bytes) := by
  intro op m h
  cases h
theorem mirrorPlate (h : MirrorHdr) (plate offset : Nat) (bytes : List Byte) : Statement (Instr.mirrorPlate h plate offset bytes) := by
  intro op m h
  cases h
theorem mirrorResyncData (h : MirrorHdr) (d : Resync) : Statement (Instr.mirrorResyncData h d) := by
  intro op m h
  cases h
theorem standbyStatus (h : MirrorHdr) (m : StandbyMsg) : Statement (Instr.standbyStatus h m) := by
  intro op m h
  cases h
theorem swapReady (h : MirrorHdr) (frame : Nat) : Statement (Instr.swapReady h frame) := by
  intro op m h
  cases h
theorem mirrorBadCheck : Statement (Instr.mirrorBadCheck) := by
  intro op m h
  cases h
theorem mirrorLaneDown (lane : Bool) : Statement (Instr.mirrorLaneDown lane) := by
  intro op m h
  cases h
theorem mirrorResyncEnd : Statement (Instr.mirrorResyncEnd) := by
  intro op m h
  cases h
theorem imageInstall : Statement (Instr.imageInstall) := by
  intro op m h
  cases h
theorem loopsetInstall : Statement (Instr.loopsetInstall) := by
  intro op m h
  cases h
theorem swapCapture : Statement (Instr.swapCapture) := by
  intro op m h
  cases h
theorem swapHandover : Statement (Instr.swapHandover) := by
  intro op m h
  cases h
theorem swapTimeout : Statement (Instr.swapTimeout) := by
  intro op m h
  cases h
theorem revertDelay : Statement (Instr.revertDelay) := by
  intro op m h
  cases h
theorem swapInterval : Statement (Instr.swapInterval) := by
  intro op m h
  cases h
theorem ptpSync (port : Bool) (hdr : PtpHdr) (seq : W16) (twoStep : Bool) (logInterval : Int) (t1 corr : PtpTime) : Statement (Instr.ptpSync port hdr seq twoStep logInterval t1 corr) := by
  intro op m h
  cases h
theorem ptpFollowUp (port : Bool) (m : PtpMsg) (t1 corr : PtpTime) : Statement (Instr.ptpFollowUp port m t1 corr) := by
  intro op m h
  cases h
theorem ptpDelayResp (port : Bool) (r : PtpResp) (logInterval : Int) (t4 corr : PtpTime) : Statement (Instr.ptpDelayResp port r logInterval t4 corr) := by
  intro op m h
  cases h
theorem ptpAnnounce (port : Bool) (m : AnnounceMsg) : Statement (Instr.ptpAnnounce port m) := by
  intro op m h
  cases h
theorem ptpPdelayReq (port : Bool) (hdr : PtpHdr) (seq : W16) (corr : PtpTime) : Statement (Instr.ptpPdelayReq port hdr seq corr) := by
  intro op m h
  cases h
theorem ptpPdelayResp (port : Bool) (m : PtpMsg) (requester : BitVec 80) (twoStep : Bool) (t2 corr : PtpTime) : Statement (Instr.ptpPdelayResp port m requester twoStep t2 corr) := by
  intro op m h
  cases h
theorem ptpPdelayRespFollowUp (port : Bool) (r : PtpResp) (t3 corr : PtpTime) : Statement (Instr.ptpPdelayRespFollowUp port r t3 corr) := by
  intro op m h
  cases h
theorem delayReqSend (port : Bool) (peer : Bool) : Statement (Instr.delayReqSend port peer) := by
  intro op m h
  cases h
theorem announceTimeout (port : Bool) : Statement (Instr.announceTimeout port) := by
  intro op m h
  cases h
theorem timeStep : Statement (Instr.timeStep) := by
  intro op m h
  cases h
theorem ppsInEdge : Statement (Instr.ppsInEdge) := by
  intro op m h
  cases h
theorem ppsInAccept : Statement (Instr.ppsInAccept) := by
  intro op m h
  cases h
theorem ppsLoss : Statement (Instr.ppsLoss) := by
  intro op m h
  cases h
theorem ppsOutRise : Statement (Instr.ppsOutRise) := by
  intro op m h
  cases h
theorem ppsOutFall : Statement (Instr.ppsOutFall) := by
  intro op m h
  cases h
theorem syncInEdge : Statement (Instr.syncInEdge) := by
  intro op m h
  cases h
theorem syncStuck : Statement (Instr.syncStuck) := by
  intro op m h
  cases h
theorem watchdogExpiry : Statement (Instr.watchdogExpiry) := by
  intro op m h
  cases h
theorem hotRestartEnd : Statement (Instr.hotRestartEnd) := by
  intro op m h
  cases h
theorem restartFallback : Statement (Instr.restartFallback) := by
  intro op m h
  cases h
theorem smbusRead (addr : BitVec 7) (op : SmbusOp) (cmd : BitVec 8) : Statement (Instr.smbusRead addr op cmd) := by
  intro op m h
  cases h
theorem mbDoorbell (fn : BitVec 7) (seq : W16) : Statement (Instr.mbDoorbell fn seq) := by
  intro op m h
  cases h
theorem isoRelease (port : Bool) (now : Nat) : Statement (Instr.isoRelease port now) := by
  intro op m h
  cases h
theorem refereeStatusReceived (f : RefFrame) (now : Nat) : Statement (Instr.refereeStatusReceived f now) := by
  intro op m h
  cases h
theorem mirrorLaneUp (lane : Bool) : Statement (Instr.mirrorLaneUp lane) := by
  intro op m h
  cases h
theorem ethrefRestored : Statement (Instr.ethrefRestored) := by
  intro op m h
  cases h
theorem ethPortDown (port : Bool) : Statement (Instr.ethPortDown port) := by
  intro op m h
  cases h
theorem ethPortUp (port : Bool) (rate25 : Bool) : Statement (Instr.ethPortUp port rate25) := by
  intro op m h
  cases h
theorem vddLeaseApply : Statement (Instr.vddLeaseApply) := by
  intro op m h
  cases h
theorem pcieLinkTrained : Statement (Instr.pcieLinkTrained) := by
  intro op m h
  cases h
theorem fuseProgramDone (ok : Bool) : Statement (Instr.fuseProgramDone ok) := by
  intro op m h
  cases h
theorem fuseEnDeassert : Statement (Instr.fuseEnDeassert) := by
  intro op m h
  cases h
theorem commandBufferReadDone (ok : Bool) (data : List Byte) : Statement (Instr.commandBufferReadDone ok data) := by
  intro op m h
  cases h
theorem plateReadCopyEnd : Statement (Instr.plateReadCopyEnd) := by
  intro op m h
  cases h
theorem smbusClockLowTimeout : Statement (Instr.smbusClockLowTimeout) := by
  intro op m h
  cases h
theorem bar2WindowRead (fn : BitVec 7) (off : BitVec 22) : Statement (Instr.bar2WindowRead fn off) := by
  intro op m h
  cases h
theorem jtagDebugAccess (write : Bool) (target : BusTarget) (addr : Nat) (value : W32) : Statement (Instr.jtagDebugAccess write target addr value) := by
  intro op m h
  cases h
theorem mirrorDelayEcho (delay : Nat) : Statement (Instr.mirrorDelayEcho delay) := by
  intro op m h
  cases h

end Sys2Proof.Laws.Opcode
end

