-- ==== Sys2Proof/Laws/RegisterBits.lean ====
section
/-! SUPPORT. Registers of the host interface: bits of packed fields, masks of the event status, bytes of the debug memory. -/

namespace Sys2Proof.Machine

theorem ev_bits (st : BitVec 320) (w : Nat) (v : W32) (hw : w < 10) (b : Nat) (hb : b < 320) :
    (st &&& ~~~(BitVec.ofNat 320 (v.toNat * 2 ^ (32 * w)))).getLsbD b = (st.getLsbD b && !(decide (b / 32 = w) && v.getLsbD (b % 32))) := by
  have hv := v.isLt
  rw [BitVec.getLsbD_and, BitVec.getLsbD_not, BitVec.getLsbD_ofNat]
  simp only [hb, decide_true, Bool.true_and]
  congr 2
  rw [Nat.testBit_mul_two_pow]
  by_cases h1 : b / 32 = w
  · subst h1
    have : 32 * (b / 32) ≤ b := by omega
    have e : b - 32 * (b / 32) = b % 32 := by omega
    simp [this, e, BitVec.getLsbD]
  · simp only [h1, decide_false, Bool.false_and]
    by_cases h2 : 32 * w ≤ b
    · simp only [h2, decide_true, Bool.true_and]
      apply Nat.testBit_lt_two_pow
      calc v.toNat < 2 ^ 32 := hv
        _ ≤ 2 ^ (b - 32 * w) := Nat.pow_le_pow_right (by decide) (by omega)
    · simp [h2]

theorem decodes_iff {s : State} {n : Nat} (h : s.decodes n = true) : s.present n = true ∧ (s.fn n).d3 = false := by
  unfold State.decodes at h; simpa using h

theorem testBit_pack1 (v : Nat) (b : Bool) (r : List (Nat × Nat)) : (pack ((1, bit b) :: r)).testBit 0 = b := by
  simp only [pack]; cases b <;> simp [bit, Nat.testBit_zero] <;> omega

theorem testBit_pack_tail (w v : Nat) (r : List (Nat × Nat)) (i : Nat) : (pack ((w, v) :: r)).testBit (w + i) = (pack r).testBit i := by
  simp only [pack]
  rw [Nat.testBit_eq_decide_div_mod_eq, Nat.testBit_eq_decide_div_mod_eq, Nat.pow_add, ← Nat.div_div_eq_div_mul,
    Nat.add_mul_div_left _ _ (Nat.two_pow_pos w), Nat.div_eq_of_lt (Nat.mod_lt _ (Nat.two_pow_pos w)), Nat.zero_add]

theorem pack_bits5 (a : Nat) (ha : a < 16) (b c d e : Bool) : pack [(4, a), (1, bit b), (1, bit c), (1, bit d), (1, bit e)] = a + 16 * bit b + 32 * bit c + 64 * bit d + 128 * bit e := by
  have := ha
  simp only [pack]
  cases b <;> cases c <;> cases d <;> cases e <;> simp [bit] <;> omega

theorem mode_num_lt (m : Mode) : m.num < 16 := by cases m <;> decide

theorem tcm_find (l : List Byte) (m : Mem) (a b : Nat) :
    find? ((l.foldl (fun (t : Mem × Nat) (x : Byte) => (wr t.1 t.2 x, t.2 + 1)) (m, a)).1) b =
      if a ≤ b ∧ b < a + l.length then l[b - a]? else find? m b := by
  induction l generalizing m a with
  | nil => simp
  | cons x r ih =>
    rw [List.foldl_cons, ih, find?_wr]
    simp only [List.length_cons]
    by_cases h1 : a + 1 ≤ b ∧ b < a + 1 + r.length
    · rw [if_pos h1, if_pos (by omega)]
      have : b - a = (b - (a + 1)) + 1 := by omega
      rw [this]; simp
    · rw [if_neg h1]
      by_cases h2 : a = b
      · subst h2; simp
      · have h3 : ¬ b = a := fun h => h2 h.symm
        rw [if_neg h2, if_neg (by omega)]

end Sys2Proof.Machine
end

