-- ==== Sys2Proof/Laws/Scheduling.lean ====
section
/-! SUPPORT. The scheduler and HDMA: refusals, fetches, translation faults. -/

namespace Sys2Proof.Machine

theorem queue_setQueue_i (s : State) (d i : Nat) (q : Queue) : (s.setQueue d i q).queue d i = q := by
  unfold State.queue State.setQueue
  dsimp only [rd]
  rw [find?_wr, if_pos rfl]
  rfl

theorem domain_setDomain_i (s : State) (d : Nat) (x : Domain) : (s.setDomain d x).domain d = x := by
  unfold State.domain State.setDomain
  dsimp only [rd]
  rw [find?_wr, if_pos rfl]
  rfl

theorem queue_congr {s t : State} (h : t.sched = s.sched) (d i : Nat) : t.queue d i = s.queue d i :=
  congrArg (fun x : Sched => rd x.queues (qKey d i) .init) h

theorem side_sched {s t : State} (h : Side s t) : t.sched = s.sched ∧ t.drive = s.drive ∧ t.burin = s.burin := by
  obtain ⟨a, b, c, d, e, f, rfl⟩ := h; exact ⟨rfl, rfl, rfl⟩

theorem xlate_setXlate (s : State) (d : Nat) (x : Xlate) : (s.setXlate d x).xlate d = x := by
  unfold State.xlate State.setXlate
  dsimp only [rd]
  rw [find?_wr, if_pos rfl]
  rfl

theorem deliver_xlate (s : State) (n : Nat) (r : BitVec 256) (f : Nat) : (s.deliver n r f).host.xlate = s.host.xlate := by
  unfold State.deliver
  dsimp only
  split
  · rfl
  · split
    · rfl
    · split <;> rfl

theorem foldDeliver_xlate (l : List Nat) (n : Nat) (r : BitVec 256) (s : State) :
    (l.foldl (fun t f => t.deliver n r f) s).host.xlate = s.host.xlate := by
  induction l generalizing s with
  | nil => rfl
  | cons x q ih => rw [List.foldl_cons, ih, deliver_xlate]

theorem raiseTo_xlate (s : State) (n : Nat) (e : Ev) (l : List Nat) : (s.raiseTo n e l).host.xlate = s.host.xlate := by
  unfold State.raiseTo
  dsimp only
  split
  · rfl
  · rw [foldDeliver_xlate]; rfl

theorem raise_xlate (s : State) (n : Nat) (sc : EvScope) (e : Ev) : (s.raise n sc e).host.xlate = s.host.xlate := by
  unfold State.raise
  split
  · exact foldDeliver_xlate ..
  · unfold State.wrapped
    split
    · show (State.raiseTo _ 18 {} [0]).host.xlate = _
      rw [raiseTo_xlate, raiseTo_xlate]
    · exact raiseTo_xlate ..

theorem xlateFault_stopped (s : State) (x : Xfer) (r a : Nat) (h : x.isEvent = false) :
    ((s.xlateFault x r a).xlate x.dom).stopped = true := by
  unfold State.xlateFault
  cases hu : x.use with
  | event fn => unfold Xfer.isEvent at h; rw [hu] at h; cases h
  | _ =>
    dsimp only
    split
    · rw [xlate_setXlate]
    · have g : ∀ (u : State) n sc e, ((u.raise n sc e).xlate x.dom) = u.xlate x.dom := fun u n sc e => by
        unfold State.xlate; rw [raise_xlate]
      rw [g, xlate_setXlate]

theorem xlateFault_sched (s : State) (x : Xfer) (r a : Nat) : (s.xlateFault x r a).sched = s.sched := by
  unfold State.xlateFault
  cases x.use with
  | event fn => rfl
  | _ =>
    dsimp only
    split
    · rfl
    · exact (side_sched (State.raise_side ..)).1

theorem fetch_cpls (s : State) (d i : Nat) : (s.fetch d i).sched.cpls = s.sched.cpls ∧ ((s.fetch d i).queue d i).descs = (s.queue d i).descs := by
  unfold State.fetch
  extract_lets q at_ avail n f
  split
  · exact ⟨rfl, rfl⟩
  · split
    · exact ⟨rfl, rfl⟩
    · refine ⟨rfl, ?_⟩
      refine (congrArg Queue.descs (queue_congr (s := f.2.setQueue d i { q with fetching := n }) rfl d i)).trans ?_
      rw [queue_setQueue_i]

theorem refuse_eq (s : State) (d i st : Nat) (e : BitVec 256) (r : List (BitVec 256)) (hd : (s.queue d i).descs = e :: r) :
    ((s.domain d).room = false → s.refuse d i st false = s) ∧
    ((s.domain d).room = true → ∃ q : Req, q.desc = e ∧ q.head = (s.queue d i).pop.head ∧ q.late = false ∧
      (s.refuse d i st false).sched.cpls = s.sched.cpls ++ [{ dom := d, record := cplRecord q st 0 0 0 0xFFFFFFFF }] ∧
      ((s.refuse d i st false).queue d i).descs = (s.queue d i).pop.descs) := by
  refine ⟨fun h => ?_, fun h => ?_⟩
  · unfold State.refuse
    dsimp only
    rw [hd]
    dsimp only
    rw [h]; rfl
  · refine ⟨{ dom := d, queue := i, desc := e, head := (s.queue d i).pop.head, yellow := false, late := false, rebased := 0, due := none,
              dropped := false }, rfl, rfl, rfl, ?_⟩
    unfold State.refuse
    dsimp only
    rw [hd]
    dsimp only
    rw [h, if_neg (by decide)]
    rw [(fetch_cpls ..).1, (fetch_cpls ..).2]
    have g := side_sched (State.mirrorRequestOf_side ((((s.setQueue d i (s.queue d i).pop).setDomain d { s.domain d with cReserved := (s.domain d).cReserved + 1 }).complete
      { dom := d, queue := i, desc := e, head := (s.queue d i).pop.head, yellow := false, late := false, rebased := 0, due := none,
              dropped := false } st 0 0 0 0xFFFFFFFF)) d i none)
    refine ⟨?_, ?_⟩
    · rw [g.1]; rfl
    · refine (congrArg Queue.descs (queue_congr g.1 d i)).trans ?_
      exact congrArg Queue.descs (queue_setQueue_i s d i _)

theorem burst_dom (s : State) (x : Xfer) (h : (s.xlate x.dom).mode = 2) : s.burst x = s.issue x (s.burstAddr x) (s.burstLen x) := by
  unfold State.burst
  dsimp only
  rw [h, if_pos (by decide)]
  unfold State.burstIn
  dsimp only
  rw [if_neg (by decide), if_pos rfl]

end Sys2Proof.Machine
end

