-- ==== Sys2Proof/Laws/State.lean ====
section
/-! SUPPORT. Every field of the state after each of its elementary updates, by definition: the blocks that an update does not touch, and
the other fields of the block that it touches. -/

namespace Sys2Proof.Machine

/-! ### State.due -/

@[simp] theorem State.due_pending (s : State) (o : TickOp) : (s.due o).pending = s.pending := rfl
@[simp] theorem State.due_clk (s : State) (o : TickOp) : (s.due o).clk = s.clk := rfl
@[simp] theorem State.due_ft (s : State) (o : TickOp) : (s.due o).ft = s.ft := rfl
@[simp] theorem State.due_desc (s : State) (o : TickOp) : (s.due o).desc = s.desc := rfl
@[simp] theorem State.due_drive (s : State) (o : TickOp) : (s.due o).drive = s.drive := rfl
@[simp] theorem State.due_sense (s : State) (o : TickOp) : (s.due o).sense = s.sense := rfl
@[simp] theorem State.due_loops (s : State) (o : TickOp) : (s.due o).loops = s.loops := rfl
@[simp] theorem State.due_burin (s : State) (o : TickOp) : (s.due o).burin = s.burin := rfl
@[simp] theorem State.due_imp (s : State) (o : TickOp) : (s.due o).imp = s.imp := rfl
@[simp] theorem State.due_sched (s : State) (o : TickOp) : (s.due o).sched = s.sched := rfl
@[simp] theorem State.due_pair (s : State) (o : TickOp) : (s.due o).pair = s.pair := rfl
@[simp] theorem State.due_mirror (s : State) (o : TickOp) : (s.due o).mirror = s.mirror := rfl
@[simp] theorem State.due_faults (s : State) (o : TickOp) : (s.due o).faults = s.faults := rfl
@[simp] theorem State.due_cal (s : State) (o : TickOp) : (s.due o).cal = s.cal := rfl
@[simp] theorem State.due_sys (s : State) (o : TickOp) : (s.due o).sys = s.sys := rfl
@[simp] theorem State.due_host (s : State) (o : TickOp) : (s.due o).host = s.host := rfl

/-! ### State.emit -/

@[simp] theorem State.emit_pending (s : State) (o : Out) : (s.emit o).pending = s.pending := rfl
@[simp] theorem State.emit_atTick (s : State) (o : Out) : (s.emit o).atTick = s.atTick := rfl
@[simp] theorem State.emit_clk (s : State) (o : Out) : (s.emit o).clk = s.clk := rfl
@[simp] theorem State.emit_ft (s : State) (o : Out) : (s.emit o).ft = s.ft := rfl
@[simp] theorem State.emit_desc (s : State) (o : Out) : (s.emit o).desc = s.desc := rfl
@[simp] theorem State.emit_drive (s : State) (o : Out) : (s.emit o).drive = s.drive := rfl
@[simp] theorem State.emit_sense (s : State) (o : Out) : (s.emit o).sense = s.sense := rfl
@[simp] theorem State.emit_loops (s : State) (o : Out) : (s.emit o).loops = s.loops := rfl
@[simp] theorem State.emit_burin (s : State) (o : Out) : (s.emit o).burin = s.burin := rfl
@[simp] theorem State.emit_imp (s : State) (o : Out) : (s.emit o).imp = s.imp := rfl
@[simp] theorem State.emit_sched (s : State) (o : Out) : (s.emit o).sched = s.sched := rfl
@[simp] theorem State.emit_pair (s : State) (o : Out) : (s.emit o).pair = s.pair := rfl
@[simp] theorem State.emit_mirror (s : State) (o : Out) : (s.emit o).mirror = s.mirror := rfl
@[simp] theorem State.emit_faults (s : State) (o : Out) : (s.emit o).faults = s.faults := rfl
@[simp] theorem State.emit_cal (s : State) (o : Out) : (s.emit o).cal = s.cal := rfl
@[simp] theorem State.emit_sys (s : State) (o : Out) : (s.emit o).sys = s.sys := rfl
@[simp] theorem State.emit_host_fns (s : State) (o : Out) : (s.emit o).host.fns = s.host.fns := rfl
@[simp] theorem State.emit_host_vfEnable (s : State) (o : Out) : (s.emit o).host.vfEnable = s.host.vfEnable := rfl
@[simp] theorem State.emit_host_linkUp (s : State) (o : Out) : (s.emit o).host.linkUp = s.host.linkUp := rfl
@[simp] theorem State.emit_host_xlate (s : State) (o : Out) : (s.emit o).host.xlate = s.host.xlate := rfl
@[simp] theorem State.emit_host_tlb (s : State) (o : Out) : (s.emit o).host.tlb = s.host.tlb := rfl
@[simp] theorem State.emit_host_xfers (s : State) (o : Out) : (s.emit o).host.xfers = s.host.xfers := rfl
@[simp] theorem State.emit_host_nextXfer (s : State) (o : Out) : (s.emit o).host.nextXfer = s.host.nextXfer := rfl
@[simp] theorem State.emit_host_lastDom (s : State) (o : Out) : (s.emit o).host.lastDom = s.host.lastDom := rfl
@[simp] theorem State.emit_host_copies (s : State) (o : Out) : (s.emit o).host.copies = s.host.copies := rfl
@[simp] theorem State.emit_host_portWaits (s : State) (o : Out) : (s.emit o).host.portWaits = s.host.portWaits := rfl
@[simp] theorem State.emit_host_shadow (s : State) (o : Out) : (s.emit o).host.shadow = s.host.shadow := rfl
@[simp] theorem State.emit_host_committed (s : State) (o : Out) : (s.emit o).host.committed = s.host.committed := rfl
@[simp] theorem State.emit_host_active (s : State) (o : Out) : (s.emit o).host.active = s.host.active := rfl
@[simp] theorem State.emit_host_rrLast (s : State) (o : Out) : (s.emit o).host.rrLast = s.host.rrLast := rfl
@[simp] theorem State.emit_host_perf (s : State) (o : Out) : (s.emit o).host.perf = s.host.perf := rfl
@[simp] theorem State.emit_host_bus (s : State) (o : Out) : (s.emit o).host.bus = s.host.bus := rfl

/-! ### State.setFn -/

@[simp] theorem State.setFn_pending (s : State) (n : Nat) (f : Fn) : (s.setFn n f).pending = s.pending := rfl
@[simp] theorem State.setFn_atTick (s : State) (n : Nat) (f : Fn) : (s.setFn n f).atTick = s.atTick := rfl
@[simp] theorem State.setFn_clk (s : State) (n : Nat) (f : Fn) : (s.setFn n f).clk = s.clk := rfl
@[simp] theorem State.setFn_ft (s : State) (n : Nat) (f : Fn) : (s.setFn n f).ft = s.ft := rfl
@[simp] theorem State.setFn_desc (s : State) (n : Nat) (f : Fn) : (s.setFn n f).desc = s.desc := rfl
@[simp] theorem State.setFn_drive (s : State) (n : Nat) (f : Fn) : (s.setFn n f).drive = s.drive := rfl
@[simp] theorem State.setFn_sense (s : State) (n : Nat) (f : Fn) : (s.setFn n f).sense = s.sense := rfl
@[simp] theorem State.setFn_loops (s : State) (n : Nat) (f : Fn) : (s.setFn n f).loops = s.loops := rfl
@[simp] theorem State.setFn_burin (s : State) (n : Nat) (f : Fn) : (s.setFn n f).burin = s.burin := rfl
@[simp] theorem State.setFn_imp (s : State) (n : Nat) (f : Fn) : (s.setFn n f).imp = s.imp := rfl
@[simp] theorem State.setFn_sched (s : State) (n : Nat) (f : Fn) : (s.setFn n f).sched = s.sched := rfl
@[simp] theorem State.setFn_pair (s : State) (n : Nat) (f : Fn) : (s.setFn n f).pair = s.pair := rfl
@[simp] theorem State.setFn_mirror (s : State) (n : Nat) (f : Fn) : (s.setFn n f).mirror = s.mirror := rfl
@[simp] theorem State.setFn_faults (s : State) (n : Nat) (f : Fn) : (s.setFn n f).faults = s.faults := rfl
@[simp] theorem State.setFn_cal (s : State) (n : Nat) (f : Fn) : (s.setFn n f).cal = s.cal := rfl
@[simp] theorem State.setFn_sys (s : State) (n : Nat) (f : Fn) : (s.setFn n f).sys = s.sys := rfl
@[simp] theorem State.setFn_host_vfEnable (s : State) (n : Nat) (f : Fn) : (s.setFn n f).host.vfEnable = s.host.vfEnable := rfl
@[simp] theorem State.setFn_host_linkUp (s : State) (n : Nat) (f : Fn) : (s.setFn n f).host.linkUp = s.host.linkUp := rfl
@[simp] theorem State.setFn_host_xlate (s : State) (n : Nat) (f : Fn) : (s.setFn n f).host.xlate = s.host.xlate := rfl
@[simp] theorem State.setFn_host_tlb (s : State) (n : Nat) (f : Fn) : (s.setFn n f).host.tlb = s.host.tlb := rfl
@[simp] theorem State.setFn_host_xfers (s : State) (n : Nat) (f : Fn) : (s.setFn n f).host.xfers = s.host.xfers := rfl
@[simp] theorem State.setFn_host_nextXfer (s : State) (n : Nat) (f : Fn) : (s.setFn n f).host.nextXfer = s.host.nextXfer := rfl
@[simp] theorem State.setFn_host_lastDom (s : State) (n : Nat) (f : Fn) : (s.setFn n f).host.lastDom = s.host.lastDom := rfl
@[simp] theorem State.setFn_host_copies (s : State) (n : Nat) (f : Fn) : (s.setFn n f).host.copies = s.host.copies := rfl
@[simp] theorem State.setFn_host_portWaits (s : State) (n : Nat) (f : Fn) : (s.setFn n f).host.portWaits = s.host.portWaits := rfl
@[simp] theorem State.setFn_host_shadow (s : State) (n : Nat) (f : Fn) : (s.setFn n f).host.shadow = s.host.shadow := rfl
@[simp] theorem State.setFn_host_committed (s : State) (n : Nat) (f : Fn) : (s.setFn n f).host.committed = s.host.committed := rfl
@[simp] theorem State.setFn_host_active (s : State) (n : Nat) (f : Fn) : (s.setFn n f).host.active = s.host.active := rfl
@[simp] theorem State.setFn_host_rrLast (s : State) (n : Nat) (f : Fn) : (s.setFn n f).host.rrLast = s.host.rrLast := rfl
@[simp] theorem State.setFn_host_perf (s : State) (n : Nat) (f : Fn) : (s.setFn n f).host.perf = s.host.perf := rfl
@[simp] theorem State.setFn_host_out (s : State) (n : Nat) (f : Fn) : (s.setFn n f).host.out = s.host.out := rfl
@[simp] theorem State.setFn_host_bus (s : State) (n : Nat) (f : Fn) : (s.setFn n f).host.bus = s.host.bus := rfl

/-! ### State.modFn -/

@[simp] theorem State.modFn_pending (s : State) (n : Nat) (g : Fn → Fn) : (s.modFn n g).pending = s.pending := rfl
@[simp] theorem State.modFn_atTick (s : State) (n : Nat) (g : Fn → Fn) : (s.modFn n g).atTick = s.atTick := rfl
@[simp] theorem State.modFn_clk (s : State) (n : Nat) (g : Fn → Fn) : (s.modFn n g).clk = s.clk := rfl
@[simp] theorem State.modFn_ft (s : State) (n : Nat) (g : Fn → Fn) : (s.modFn n g).ft = s.ft := rfl
@[simp] theorem State.modFn_desc (s : State) (n : Nat) (g : Fn → Fn) : (s.modFn n g).desc = s.desc := rfl
@[simp] theorem State.modFn_drive (s : State) (n : Nat) (g : Fn → Fn) : (s.modFn n g).drive = s.drive := rfl
@[simp] theorem State.modFn_sense (s : State) (n : Nat) (g : Fn → Fn) : (s.modFn n g).sense = s.sense := rfl
@[simp] theorem State.modFn_loops (s : State) (n : Nat) (g : Fn → Fn) : (s.modFn n g).loops = s.loops := rfl
@[simp] theorem State.modFn_burin (s : State) (n : Nat) (g : Fn → Fn) : (s.modFn n g).burin = s.burin := rfl
@[simp] theorem State.modFn_imp (s : State) (n : Nat) (g : Fn → Fn) : (s.modFn n g).imp = s.imp := rfl
@[simp] theorem State.modFn_sched (s : State) (n : Nat) (g : Fn → Fn) : (s.modFn n g).sched = s.sched := rfl
@[simp] theorem State.modFn_pair (s : State) (n : Nat) (g : Fn → Fn) : (s.modFn n g).pair = s.pair := rfl
@[simp] theorem State.modFn_mirror (s : State) (n : Nat) (g : Fn → Fn) : (s.modFn n g).mirror = s.mirror := rfl
@[simp] theorem State.modFn_faults (s : State) (n : Nat) (g : Fn → Fn) : (s.modFn n g).faults = s.faults := rfl
@[simp] theorem State.modFn_cal (s : State) (n : Nat) (g : Fn → Fn) : (s.modFn n g).cal = s.cal := rfl
@[simp] theorem State.modFn_sys (s : State) (n : Nat) (g : Fn → Fn) : (s.modFn n g).sys = s.sys := rfl
@[simp] theorem State.modFn_host_vfEnable (s : State) (n : Nat) (g : Fn → Fn) : (s.modFn n g).host.vfEnable = s.host.vfEnable := rfl
@[simp] theorem State.modFn_host_linkUp (s : State) (n : Nat) (g : Fn → Fn) : (s.modFn n g).host.linkUp = s.host.linkUp := rfl
@[simp] theorem State.modFn_host_xlate (s : State) (n : Nat) (g : Fn → Fn) : (s.modFn n g).host.xlate = s.host.xlate := rfl
@[simp] theorem State.modFn_host_tlb (s : State) (n : Nat) (g : Fn → Fn) : (s.modFn n g).host.tlb = s.host.tlb := rfl
@[simp] theorem State.modFn_host_xfers (s : State) (n : Nat) (g : Fn → Fn) : (s.modFn n g).host.xfers = s.host.xfers := rfl
@[simp] theorem State.modFn_host_nextXfer (s : State) (n : Nat) (g : Fn → Fn) : (s.modFn n g).host.nextXfer = s.host.nextXfer := rfl
@[simp] theorem State.modFn_host_lastDom (s : State) (n : Nat) (g : Fn → Fn) : (s.modFn n g).host.lastDom = s.host.lastDom := rfl
@[simp] theorem State.modFn_host_copies (s : State) (n : Nat) (g : Fn → Fn) : (s.modFn n g).host.copies = s.host.copies := rfl
@[simp] theorem State.modFn_host_portWaits (s : State) (n : Nat) (g : Fn → Fn) : (s.modFn n g).host.portWaits = s.host.portWaits := rfl
@[simp] theorem State.modFn_host_shadow (s : State) (n : Nat) (g : Fn → Fn) : (s.modFn n g).host.shadow = s.host.shadow := rfl
@[simp] theorem State.modFn_host_committed (s : State) (n : Nat) (g : Fn → Fn) : (s.modFn n g).host.committed = s.host.committed := rfl
@[simp] theorem State.modFn_host_active (s : State) (n : Nat) (g : Fn → Fn) : (s.modFn n g).host.active = s.host.active := rfl
@[simp] theorem State.modFn_host_rrLast (s : State) (n : Nat) (g : Fn → Fn) : (s.modFn n g).host.rrLast = s.host.rrLast := rfl
@[simp] theorem State.modFn_host_perf (s : State) (n : Nat) (g : Fn → Fn) : (s.modFn n g).host.perf = s.host.perf := rfl
@[simp] theorem State.modFn_host_out (s : State) (n : Nat) (g : Fn → Fn) : (s.modFn n g).host.out = s.host.out := rfl
@[simp] theorem State.modFn_host_bus (s : State) (n : Nat) (g : Fn → Fn) : (s.modFn n g).host.bus = s.host.bus := rfl

/-! ### State.setXlate -/

@[simp] theorem State.setXlate_pending (s : State) (d : Nat) (x : Xlate) : (s.setXlate d x).pending = s.pending := rfl
@[simp] theorem State.setXlate_atTick (s : State) (d : Nat) (x : Xlate) : (s.setXlate d x).atTick = s.atTick := rfl
@[simp] theorem State.setXlate_clk (s : State) (d : Nat) (x : Xlate) : (s.setXlate d x).clk = s.clk := rfl
@[simp] theorem State.setXlate_ft (s : State) (d : Nat) (x : Xlate) : (s.setXlate d x).ft = s.ft := rfl
@[simp] theorem State.setXlate_desc (s : State) (d : Nat) (x : Xlate) : (s.setXlate d x).desc = s.desc := rfl
@[simp] theorem State.setXlate_drive (s : State) (d : Nat) (x : Xlate) : (s.setXlate d x).drive = s.drive := rfl
@[simp] theorem State.setXlate_sense (s : State) (d : Nat) (x : Xlate) : (s.setXlate d x).sense = s.sense := rfl
@[simp] theorem State.setXlate_loops (s : State) (d : Nat) (x : Xlate) : (s.setXlate d x).loops = s.loops := rfl
@[simp] theorem State.setXlate_burin (s : State) (d : Nat) (x : Xlate) : (s.setXlate d x).burin = s.burin := rfl
@[simp] theorem State.setXlate_imp (s : State) (d : Nat) (x : Xlate) : (s.setXlate d x).imp = s.imp := rfl
@[simp] theorem State.setXlate_sched (s : State) (d : Nat) (x : Xlate) : (s.setXlate d x).sched = s.sched := rfl
@[simp] theorem State.setXlate_pair (s : State) (d : Nat) (x : Xlate) : (s.setXlate d x).pair = s.pair := rfl
@[simp] theorem State.setXlate_mirror (s : State) (d : Nat) (x : Xlate) : (s.setXlate d x).mirror = s.mirror := rfl
@[simp] theorem State.setXlate_faults (s : State) (d : Nat) (x : Xlate) : (s.setXlate d x).faults = s.faults := rfl
@[simp] theorem State.setXlate_cal (s : State) (d : Nat) (x : Xlate) : (s.setXlate d x).cal = s.cal := rfl
@[simp] theorem State.setXlate_sys (s : State) (d : Nat) (x : Xlate) : (s.setXlate d x).sys = s.sys := rfl
@[simp] theorem State.setXlate_host_fns (s : State) (d : Nat) (x : Xlate) : (s.setXlate d x).host.fns = s.host.fns := rfl
@[simp] theorem State.setXlate_host_vfEnable (s : State) (d : Nat) (x : Xlate) : (s.setXlate d x).host.vfEnable = s.host.vfEnable := rfl
@[simp] theorem State.setXlate_host_linkUp (s : State) (d : Nat) (x : Xlate) : (s.setXlate d x).host.linkUp = s.host.linkUp := rfl
@[simp] theorem State.setXlate_host_tlb (s : State) (d : Nat) (x : Xlate) : (s.setXlate d x).host.tlb = s.host.tlb := rfl
@[simp] theorem State.setXlate_host_xfers (s : State) (d : Nat) (x : Xlate) : (s.setXlate d x).host.xfers = s.host.xfers := rfl
@[simp] theorem State.setXlate_host_nextXfer (s : State) (d : Nat) (x : Xlate) : (s.setXlate d x).host.nextXfer = s.host.nextXfer := rfl
@[simp] theorem State.setXlate_host_lastDom (s : State) (d : Nat) (x : Xlate) : (s.setXlate d x).host.lastDom = s.host.lastDom := rfl
@[simp] theorem State.setXlate_host_copies (s : State) (d : Nat) (x : Xlate) : (s.setXlate d x).host.copies = s.host.copies := rfl
@[simp] theorem State.setXlate_host_portWaits (s : State) (d : Nat) (x : Xlate) : (s.setXlate d x).host.portWaits = s.host.portWaits := rfl
@[simp] theorem State.setXlate_host_shadow (s : State) (d : Nat) (x : Xlate) : (s.setXlate d x).host.shadow = s.host.shadow := rfl
@[simp] theorem State.setXlate_host_committed (s : State) (d : Nat) (x : Xlate) : (s.setXlate d x).host.committed = s.host.committed := rfl
@[simp] theorem State.setXlate_host_active (s : State) (d : Nat) (x : Xlate) : (s.setXlate d x).host.active = s.host.active := rfl
@[simp] theorem State.setXlate_host_rrLast (s : State) (d : Nat) (x : Xlate) : (s.setXlate d x).host.rrLast = s.host.rrLast := rfl
@[simp] theorem State.setXlate_host_perf (s : State) (d : Nat) (x : Xlate) : (s.setXlate d x).host.perf = s.host.perf := rfl
@[simp] theorem State.setXlate_host_out (s : State) (d : Nat) (x : Xlate) : (s.setXlate d x).host.out = s.host.out := rfl
@[simp] theorem State.setXlate_host_bus (s : State) (d : Nat) (x : Xlate) : (s.setXlate d x).host.bus = s.host.bus := rfl

/-! ### State.setDomain -/

@[simp] theorem State.setDomain_pending (s : State) (d : Nat) (x : Domain) : (s.setDomain d x).pending = s.pending := rfl
@[simp] theorem State.setDomain_atTick (s : State) (d : Nat) (x : Domain) : (s.setDomain d x).atTick = s.atTick := rfl
@[simp] theorem State.setDomain_clk (s : State) (d : Nat) (x : Domain) : (s.setDomain d x).clk = s.clk := rfl
@[simp] theorem State.setDomain_ft (s : State) (d : Nat) (x : Domain) : (s.setDomain d x).ft = s.ft := rfl
@[simp] theorem State.setDomain_desc (s : State) (d : Nat) (x : Domain) : (s.setDomain d x).desc = s.desc := rfl
@[simp] theorem State.setDomain_drive (s : State) (d : Nat) (x : Domain) : (s.setDomain d x).drive = s.drive := rfl
@[simp] theorem State.setDomain_sense (s : State) (d : Nat) (x : Domain) : (s.setDomain d x).sense = s.sense := rfl
@[simp] theorem State.setDomain_loops (s : State) (d : Nat) (x : Domain) : (s.setDomain d x).loops = s.loops := rfl
@[simp] theorem State.setDomain_burin (s : State) (d : Nat) (x : Domain) : (s.setDomain d x).burin = s.burin := rfl
@[simp] theorem State.setDomain_imp (s : State) (d : Nat) (x : Domain) : (s.setDomain d x).imp = s.imp := rfl
@[simp] theorem State.setDomain_pair (s : State) (d : Nat) (x : Domain) : (s.setDomain d x).pair = s.pair := rfl
@[simp] theorem State.setDomain_mirror (s : State) (d : Nat) (x : Domain) : (s.setDomain d x).mirror = s.mirror := rfl
@[simp] theorem State.setDomain_faults (s : State) (d : Nat) (x : Domain) : (s.setDomain d x).faults = s.faults := rfl
@[simp] theorem State.setDomain_cal (s : State) (d : Nat) (x : Domain) : (s.setDomain d x).cal = s.cal := rfl
@[simp] theorem State.setDomain_sys (s : State) (d : Nat) (x : Domain) : (s.setDomain d x).sys = s.sys := rfl
@[simp] theorem State.setDomain_host (s : State) (d : Nat) (x : Domain) : (s.setDomain d x).host = s.host := rfl
@[simp] theorem State.setDomain_sched_queues (s : State) (d : Nat) (x : Domain) : (s.setDomain d x).sched.queues = s.sched.queues := rfl
@[simp] theorem State.setDomain_sched_v (s : State) (d : Nat) (x : Domain) : (s.setDomain d x).sched.v = s.sched.v := rfl
@[simp] theorem State.setDomain_sched_batches (s : State) (d : Nat) (x : Domain) : (s.setDomain d x).sched.batches = s.sched.batches := rfl
@[simp] theorem State.setDomain_sched_nextBatch (s : State) (d : Nat) (x : Domain) : (s.setDomain d x).sched.nextBatch = s.sched.nextBatch := rfl
@[simp] theorem State.setDomain_sched_returned (s : State) (d : Nat) (x : Domain) : (s.setDomain d x).sched.returned = s.sched.returned := rfl
@[simp] theorem State.setDomain_sched_cpls (s : State) (d : Nat) (x : Domain) : (s.setDomain d x).sched.cpls = s.sched.cpls := rfl
@[simp] theorem State.setDomain_sched_batchMax (s : State) (d : Nat) (x : Domain) : (s.setDomain d x).sched.batchMax = s.sched.batchMax := rfl
@[simp] theorem State.setDomain_sched_budget (s : State) (d : Nat) (x : Domain) : (s.setDomain d x).sched.budget = s.sched.budget := rfl
@[simp] theorem State.setDomain_sched_deferMax (s : State) (d : Nat) (x : Domain) : (s.setDomain d x).sched.deferMax = s.sched.deferMax := rfl
@[simp] theorem State.setDomain_sched_slotA (s : State) (d : Nat) (x : Domain) : (s.setDomain d x).sched.slotA = s.sched.slotA := rfl
@[simp] theorem State.setDomain_sched_slotB (s : State) (d : Nat) (x : Domain) : (s.setDomain d x).sched.slotB = s.sched.slotB := rfl
@[simp] theorem State.setDomain_sched_active (s : State) (d : Nat) (x : Domain) : (s.setDomain d x).sched.active = s.sched.active := rfl
@[simp] theorem State.setDomain_sched_running (s : State) (d : Nat) (x : Domain) : (s.setDomain d x).sched.running = s.sched.running := rfl
@[simp] theorem State.setDomain_sched_current (s : State) (d : Nat) (x : Domain) : (s.setDomain d x).sched.current = s.sched.current := rfl
@[simp] theorem State.setDomain_sched_next (s : State) (d : Nat) (x : Domain) : (s.setDomain d x).sched.next = s.sched.next := rfl
@[simp] theorem State.setDomain_sched_cycle (s : State) (d : Nat) (x : Domain) : (s.setDomain d x).sched.cycle = s.sched.cycle := rfl
@[simp] theorem State.setDomain_sched_boundary (s : State) (d : Nat) (x : Domain) : (s.setDomain d x).sched.boundary = s.sched.boundary := rfl
@[simp] theorem State.setDomain_sched_op (s : State) (d : Nat) (x : Domain) : (s.setDomain d x).sched.op = s.sched.op := rfl

/-! ### State.setQueue -/

@[simp] theorem State.setQueue_pending (s : State) (d i : Nat) (q : Queue) : (s.setQueue d i q).pending = s.pending := rfl
@[simp] theorem State.setQueue_atTick (s : State) (d i : Nat) (q : Queue) : (s.setQueue d i q).atTick = s.atTick := rfl
@[simp] theorem State.setQueue_clk (s : State) (d i : Nat) (q : Queue) : (s.setQueue d i q).clk = s.clk := rfl
@[simp] theorem State.setQueue_ft (s : State) (d i : Nat) (q : Queue) : (s.setQueue d i q).ft = s.ft := rfl
@[simp] theorem State.setQueue_desc (s : State) (d i : Nat) (q : Queue) : (s.setQueue d i q).desc = s.desc := rfl
@[simp] theorem State.setQueue_drive (s : State) (d i : Nat) (q : Queue) : (s.setQueue d i q).drive = s.drive := rfl
@[simp] theorem State.setQueue_sense (s : State) (d i : Nat) (q : Queue) : (s.setQueue d i q).sense = s.sense := rfl
@[simp] theorem State.setQueue_loops (s : State) (d i : Nat) (q : Queue) : (s.setQueue d i q).loops = s.loops := rfl
@[simp] theorem State.setQueue_burin (s : State) (d i : Nat) (q : Queue) : (s.setQueue d i q).burin = s.burin := rfl
@[simp] theorem State.setQueue_imp (s : State) (d i : Nat) (q : Queue) : (s.setQueue d i q).imp = s.imp := rfl
@[simp] theorem State.setQueue_pair (s : State) (d i : Nat) (q : Queue) : (s.setQueue d i q).pair = s.pair := rfl
@[simp] theorem State.setQueue_mirror (s : State) (d i : Nat) (q : Queue) : (s.setQueue d i q).mirror = s.mirror := rfl
@[simp] theorem State.setQueue_faults (s : State) (d i : Nat) (q : Queue) : (s.setQueue d i q).faults = s.faults := rfl
@[simp] theorem State.setQueue_cal (s : State) (d i : Nat) (q : Queue) : (s.setQueue d i q).cal = s.cal := rfl
@[simp] theorem State.setQueue_sys (s : State) (d i : Nat) (q : Queue) : (s.setQueue d i q).sys = s.sys := rfl
@[simp] theorem State.setQueue_host (s : State) (d i : Nat) (q : Queue) : (s.setQueue d i q).host = s.host := rfl
@[simp] theorem State.setQueue_sched_domains (s : State) (d i : Nat) (q : Queue) : (s.setQueue d i q).sched.domains = s.sched.domains := rfl
@[simp] theorem State.setQueue_sched_v (s : State) (d i : Nat) (q : Queue) : (s.setQueue d i q).sched.v = s.sched.v := rfl
@[simp] theorem State.setQueue_sched_batches (s : State) (d i : Nat) (q : Queue) : (s.setQueue d i q).sched.batches = s.sched.batches := rfl
@[simp] theorem State.setQueue_sched_nextBatch (s : State) (d i : Nat) (q : Queue) : (s.setQueue d i q).sched.nextBatch = s.sched.nextBatch := rfl
@[simp] theorem State.setQueue_sched_returned (s : State) (d i : Nat) (q : Queue) : (s.setQueue d i q).sched.returned = s.sched.returned := rfl
@[simp] theorem State.setQueue_sched_cpls (s : State) (d i : Nat) (q : Queue) : (s.setQueue d i q).sched.cpls = s.sched.cpls := rfl
@[simp] theorem State.setQueue_sched_batchMax (s : State) (d i : Nat) (q : Queue) : (s.setQueue d i q).sched.batchMax = s.sched.batchMax := rfl
@[simp] theorem State.setQueue_sched_budget (s : State) (d i : Nat) (q : Queue) : (s.setQueue d i q).sched.budget = s.sched.budget := rfl
@[simp] theorem State.setQueue_sched_deferMax (s : State) (d i : Nat) (q : Queue) : (s.setQueue d i q).sched.deferMax = s.sched.deferMax := rfl
@[simp] theorem State.setQueue_sched_slotA (s : State) (d i : Nat) (q : Queue) : (s.setQueue d i q).sched.slotA = s.sched.slotA := rfl
@[simp] theorem State.setQueue_sched_slotB (s : State) (d i : Nat) (q : Queue) : (s.setQueue d i q).sched.slotB = s.sched.slotB := rfl
@[simp] theorem State.setQueue_sched_active (s : State) (d i : Nat) (q : Queue) : (s.setQueue d i q).sched.active = s.sched.active := rfl
@[simp] theorem State.setQueue_sched_running (s : State) (d i : Nat) (q : Queue) : (s.setQueue d i q).sched.running = s.sched.running := rfl
@[simp] theorem State.setQueue_sched_current (s : State) (d i : Nat) (q : Queue) : (s.setQueue d i q).sched.current = s.sched.current := rfl
@[simp] theorem State.setQueue_sched_next (s : State) (d i : Nat) (q : Queue) : (s.setQueue d i q).sched.next = s.sched.next := rfl
@[simp] theorem State.setQueue_sched_cycle (s : State) (d i : Nat) (q : Queue) : (s.setQueue d i q).sched.cycle = s.sched.cycle := rfl
@[simp] theorem State.setQueue_sched_boundary (s : State) (d i : Nat) (q : Queue) : (s.setQueue d i q).sched.boundary = s.sched.boundary := rfl
@[simp] theorem State.setQueue_sched_op (s : State) (d i : Nat) (q : Queue) : (s.setQueue d i q).sched.op = s.sched.op := rfl

/-! ### State.setDch -/

@[simp] theorem State.setDch_pending (s : State) (i : Nat) (c : DriveCh) : (s.setDch i c).pending = s.pending := rfl
@[simp] theorem State.setDch_atTick (s : State) (i : Nat) (c : DriveCh) : (s.setDch i c).atTick = s.atTick := rfl
@[simp] theorem State.setDch_clk (s : State) (i : Nat) (c : DriveCh) : (s.setDch i c).clk = s.clk := rfl
@[simp] theorem State.setDch_ft (s : State) (i : Nat) (c : DriveCh) : (s.setDch i c).ft = s.ft := rfl
@[simp] theorem State.setDch_desc (s : State) (i : Nat) (c : DriveCh) : (s.setDch i c).desc = s.desc := rfl
@[simp] theorem State.setDch_sense (s : State) (i : Nat) (c : DriveCh) : (s.setDch i c).sense = s.sense := rfl
@[simp] theorem State.setDch_loops (s : State) (i : Nat) (c : DriveCh) : (s.setDch i c).loops = s.loops := rfl
@[simp] theorem State.setDch_burin (s : State) (i : Nat) (c : DriveCh) : (s.setDch i c).burin = s.burin := rfl
@[simp] theorem State.setDch_imp (s : State) (i : Nat) (c : DriveCh) : (s.setDch i c).imp = s.imp := rfl
@[simp] theorem State.setDch_sched (s : State) (i : Nat) (c : DriveCh) : (s.setDch i c).sched = s.sched := rfl
@[simp] theorem State.setDch_pair (s : State) (i : Nat) (c : DriveCh) : (s.setDch i c).pair = s.pair := rfl
@[simp] theorem State.setDch_mirror (s : State) (i : Nat) (c : DriveCh) : (s.setDch i c).mirror = s.mirror := rfl
@[simp] theorem State.setDch_faults (s : State) (i : Nat) (c : DriveCh) : (s.setDch i c).faults = s.faults := rfl
@[simp] theorem State.setDch_cal (s : State) (i : Nat) (c : DriveCh) : (s.setDch i c).cal = s.cal := rfl
@[simp] theorem State.setDch_sys (s : State) (i : Nat) (c : DriveCh) : (s.setDch i c).sys = s.sys := rfl
@[simp] theorem State.setDch_host (s : State) (i : Nat) (c : DriveCh) : (s.setDch i c).host = s.host := rfl
@[simp] theorem State.setDch_drive_closed (s : State) (i : Nat) (c : DriveCh) : (s.setDch i c).drive.closed = s.drive.closed := rfl
@[simp] theorem State.setDch_drive_holding (s : State) (i : Nat) (c : DriveCh) : (s.setDch i c).drive.holding = s.drive.holding := rfl
@[simp] theorem State.setDch_drive_rbPos (s : State) (i : Nat) (c : DriveCh) : (s.setDch i c).drive.rbPos = s.drive.rbPos := rfl
@[simp] theorem State.setDch_drive_rbRetry (s : State) (i : Nat) (c : DriveCh) : (s.setDch i c).drive.rbRetry = s.drive.rbRetry := rfl
@[simp] theorem State.setDch_drive_bankFails (s : State) (i : Nat) (c : DriveCh) : (s.setDch i c).drive.bankFails = s.drive.bankFails := rfl
@[simp] theorem State.setDch_drive_vhtrOpen (s : State) (i : Nat) (c : DriveCh) : (s.setDch i c).drive.vhtrOpen = s.drive.vhtrOpen := rfl
@[simp] theorem State.setDch_drive_bankFault (s : State) (i : Nat) (c : DriveCh) : (s.setDch i c).drive.bankFault = s.drive.bankFault := rfl
@[simp] theorem State.setDch_drive_vhtrFault (s : State) (i : Nat) (c : DriveCh) : (s.setDch i c).drive.vhtrFault = s.drive.vhtrFault := rfl
@[simp] theorem State.setDch_drive_convSuspect (s : State) (i : Nat) (c : DriveCh) : (s.setDch i c).drive.convSuspect = s.drive.convSuspect := rfl

/-! ### State.modDch -/

@[simp] theorem State.modDch_pending (s : State) (i : Nat) (f : DriveCh → DriveCh) : (s.modDch i f).pending = s.pending := rfl
@[simp] theorem State.modDch_atTick (s : State) (i : Nat) (f : DriveCh → DriveCh) : (s.modDch i f).atTick = s.atTick := rfl
@[simp] theorem State.modDch_clk (s : State) (i : Nat) (f : DriveCh → DriveCh) : (s.modDch i f).clk = s.clk := rfl
@[simp] theorem State.modDch_ft (s : State) (i : Nat) (f : DriveCh → DriveCh) : (s.modDch i f).ft = s.ft := rfl
@[simp] theorem State.modDch_desc (s : State) (i : Nat) (f : DriveCh → DriveCh) : (s.modDch i f).desc = s.desc := rfl
@[simp] theorem State.modDch_sense (s : State) (i : Nat) (f : DriveCh → DriveCh) : (s.modDch i f).sense = s.sense := rfl
@[simp] theorem State.modDch_loops (s : State) (i : Nat) (f : DriveCh → DriveCh) : (s.modDch i f).loops = s.loops := rfl
@[simp] theorem State.modDch_burin (s : State) (i : Nat) (f : DriveCh → DriveCh) : (s.modDch i f).burin = s.burin := rfl
@[simp] theorem State.modDch_imp (s : State) (i : Nat) (f : DriveCh → DriveCh) : (s.modDch i f).imp = s.imp := rfl
@[simp] theorem State.modDch_sched (s : State) (i : Nat) (f : DriveCh → DriveCh) : (s.modDch i f).sched = s.sched := rfl
@[simp] theorem State.modDch_pair (s : State) (i : Nat) (f : DriveCh → DriveCh) : (s.modDch i f).pair = s.pair := rfl
@[simp] theorem State.modDch_mirror (s : State) (i : Nat) (f : DriveCh → DriveCh) : (s.modDch i f).mirror = s.mirror := rfl
@[simp] theorem State.modDch_faults (s : State) (i : Nat) (f : DriveCh → DriveCh) : (s.modDch i f).faults = s.faults := rfl
@[simp] theorem State.modDch_cal (s : State) (i : Nat) (f : DriveCh → DriveCh) : (s.modDch i f).cal = s.cal := rfl
@[simp] theorem State.modDch_sys (s : State) (i : Nat) (f : DriveCh → DriveCh) : (s.modDch i f).sys = s.sys := rfl
@[simp] theorem State.modDch_host (s : State) (i : Nat) (f : DriveCh → DriveCh) : (s.modDch i f).host = s.host := rfl
@[simp] theorem State.modDch_drive_closed (s : State) (i : Nat) (f : DriveCh → DriveCh) : (s.modDch i f).drive.closed = s.drive.closed := rfl
@[simp] theorem State.modDch_drive_holding (s : State) (i : Nat) (f : DriveCh → DriveCh) : (s.modDch i f).drive.holding = s.drive.holding := rfl
@[simp] theorem State.modDch_drive_rbPos (s : State) (i : Nat) (f : DriveCh → DriveCh) : (s.modDch i f).drive.rbPos = s.drive.rbPos := rfl
@[simp] theorem State.modDch_drive_rbRetry (s : State) (i : Nat) (f : DriveCh → DriveCh) : (s.modDch i f).drive.rbRetry = s.drive.rbRetry := rfl
@[simp] theorem State.modDch_drive_bankFails (s : State) (i : Nat) (f : DriveCh → DriveCh) : (s.modDch i f).drive.bankFails = s.drive.bankFails := rfl
@[simp] theorem State.modDch_drive_vhtrOpen (s : State) (i : Nat) (f : DriveCh → DriveCh) : (s.modDch i f).drive.vhtrOpen = s.drive.vhtrOpen := rfl
@[simp] theorem State.modDch_drive_bankFault (s : State) (i : Nat) (f : DriveCh → DriveCh) : (s.modDch i f).drive.bankFault = s.drive.bankFault := rfl
@[simp] theorem State.modDch_drive_vhtrFault (s : State) (i : Nat) (f : DriveCh → DriveCh) : (s.modDch i f).drive.vhtrFault = s.drive.vhtrFault := rfl
@[simp] theorem State.modDch_drive_convSuspect (s : State) (i : Nat) (f : DriveCh → DriveCh) : (s.modDch i f).drive.convSuspect = s.drive.convSuspect := rfl

/-! ### State.setSch -/

@[simp] theorem State.setSch_pending (s : State) (i : Nat) (c : SenseCh) : (s.setSch i c).pending = s.pending := rfl
@[simp] theorem State.setSch_atTick (s : State) (i : Nat) (c : SenseCh) : (s.setSch i c).atTick = s.atTick := rfl
@[simp] theorem State.setSch_clk (s : State) (i : Nat) (c : SenseCh) : (s.setSch i c).clk = s.clk := rfl
@[simp] theorem State.setSch_ft (s : State) (i : Nat) (c : SenseCh) : (s.setSch i c).ft = s.ft := rfl
@[simp] theorem State.setSch_desc (s : State) (i : Nat) (c : SenseCh) : (s.setSch i c).desc = s.desc := rfl
@[simp] theorem State.setSch_drive (s : State) (i : Nat) (c : SenseCh) : (s.setSch i c).drive = s.drive := rfl
@[simp] theorem State.setSch_loops (s : State) (i : Nat) (c : SenseCh) : (s.setSch i c).loops = s.loops := rfl
@[simp] theorem State.setSch_burin (s : State) (i : Nat) (c : SenseCh) : (s.setSch i c).burin = s.burin := rfl
@[simp] theorem State.setSch_imp (s : State) (i : Nat) (c : SenseCh) : (s.setSch i c).imp = s.imp := rfl
@[simp] theorem State.setSch_sched (s : State) (i : Nat) (c : SenseCh) : (s.setSch i c).sched = s.sched := rfl
@[simp] theorem State.setSch_pair (s : State) (i : Nat) (c : SenseCh) : (s.setSch i c).pair = s.pair := rfl
@[simp] theorem State.setSch_mirror (s : State) (i : Nat) (c : SenseCh) : (s.setSch i c).mirror = s.mirror := rfl
@[simp] theorem State.setSch_faults (s : State) (i : Nat) (c : SenseCh) : (s.setSch i c).faults = s.faults := rfl
@[simp] theorem State.setSch_cal (s : State) (i : Nat) (c : SenseCh) : (s.setSch i c).cal = s.cal := rfl
@[simp] theorem State.setSch_sys (s : State) (i : Nat) (c : SenseCh) : (s.setSch i c).sys = s.sys := rfl
@[simp] theorem State.setSch_host (s : State) (i : Nat) (c : SenseCh) : (s.setSch i c).host = s.host := rfl
@[simp] theorem State.setSch_sense_bankNow (s : State) (i : Nat) (c : SenseCh) : (s.setSch i c).sense.bankNow = s.sense.bankNow := rfl
@[simp] theorem State.setSch_sense_bankPrev (s : State) (i : Nat) (c : SenseCh) : (s.setSch i c).sense.bankPrev = s.sense.bankPrev := rfl
@[simp] theorem State.setSch_sense_cores (s : State) (i : Nat) (c : SenseCh) : (s.setSch i c).sense.cores = s.sense.cores := rfl
@[simp] theorem State.setSch_sense_spare (s : State) (i : Nat) (c : SenseCh) : (s.setSch i c).sense.spare = s.sense.spare := rfl
@[simp] theorem State.setSch_sense_capture (s : State) (i : Nat) (c : SenseCh) : (s.setSch i c).sense.capture = s.sense.capture := rfl
@[simp] theorem State.setSch_sense_test (s : State) (i : Nat) (c : SenseCh) : (s.setSch i c).sense.test = s.sense.test := rfl
@[simp] theorem State.setSch_sense_testFails (s : State) (i : Nat) (c : SenseCh) : (s.setSch i c).sense.testFails = s.sense.testFails := rfl
@[simp] theorem State.setSch_sense_testStop (s : State) (i : Nat) (c : SenseCh) : (s.setSch i c).sense.testStop = s.sense.testStop := rfl
@[simp] theorem State.setSch_sense_dacSuspect (s : State) (i : Nat) (c : SenseCh) : (s.setSch i c).sense.dacSuspect = s.sense.dacSuspect := rfl
@[simp] theorem State.setSch_sense_inject (s : State) (i : Nat) (c : SenseCh) : (s.setSch i c).sense.inject = s.sense.inject := rfl
@[simp] theorem State.setSch_sense_rangeBack (s : State) (i : Nat) (c : SenseCh) : (s.setSch i c).sense.rangeBack = s.sense.rangeBack := rfl

/-! ### State.modSch -/

@[simp] theorem State.modSch_pending (s : State) (i : Nat) (f : SenseCh → SenseCh) : (s.modSch i f).pending = s.pending := rfl
@[simp] theorem State.modSch_atTick (s : State) (i : Nat) (f : SenseCh → SenseCh) : (s.modSch i f).atTick = s.atTick := rfl
@[simp] theorem State.modSch_clk (s : State) (i : Nat) (f : SenseCh → SenseCh) : (s.modSch i f).clk = s.clk := rfl
@[simp] theorem State.modSch_ft (s : State) (i : Nat) (f : SenseCh → SenseCh) : (s.modSch i f).ft = s.ft := rfl
@[simp] theorem State.modSch_desc (s : State) (i : Nat) (f : SenseCh → SenseCh) : (s.modSch i f).desc = s.desc := rfl
@[simp] theorem State.modSch_drive (s : State) (i : Nat) (f : SenseCh → SenseCh) : (s.modSch i f).drive = s.drive := rfl
@[simp] theorem State.modSch_loops (s : State) (i : Nat) (f : SenseCh → SenseCh) : (s.modSch i f).loops = s.loops := rfl
@[simp] theorem State.modSch_burin (s : State) (i : Nat) (f : SenseCh → SenseCh) : (s.modSch i f).burin = s.burin := rfl
@[simp] theorem State.modSch_imp (s : State) (i : Nat) (f : SenseCh → SenseCh) : (s.modSch i f).imp = s.imp := rfl
@[simp] theorem State.modSch_sched (s : State) (i : Nat) (f : SenseCh → SenseCh) : (s.modSch i f).sched = s.sched := rfl
@[simp] theorem State.modSch_pair (s : State) (i : Nat) (f : SenseCh → SenseCh) : (s.modSch i f).pair = s.pair := rfl
@[simp] theorem State.modSch_mirror (s : State) (i : Nat) (f : SenseCh → SenseCh) : (s.modSch i f).mirror = s.mirror := rfl
@[simp] theorem State.modSch_faults (s : State) (i : Nat) (f : SenseCh → SenseCh) : (s.modSch i f).faults = s.faults := rfl
@[simp] theorem State.modSch_cal (s : State) (i : Nat) (f : SenseCh → SenseCh) : (s.modSch i f).cal = s.cal := rfl
@[simp] theorem State.modSch_sys (s : State) (i : Nat) (f : SenseCh → SenseCh) : (s.modSch i f).sys = s.sys := rfl
@[simp] theorem State.modSch_host (s : State) (i : Nat) (f : SenseCh → SenseCh) : (s.modSch i f).host = s.host := rfl
@[simp] theorem State.modSch_sense_bankNow (s : State) (i : Nat) (f : SenseCh → SenseCh) : (s.modSch i f).sense.bankNow = s.sense.bankNow := rfl
@[simp] theorem State.modSch_sense_bankPrev (s : State) (i : Nat) (f : SenseCh → SenseCh) : (s.modSch i f).sense.bankPrev = s.sense.bankPrev := rfl
@[simp] theorem State.modSch_sense_cores (s : State) (i : Nat) (f : SenseCh → SenseCh) : (s.modSch i f).sense.cores = s.sense.cores := rfl
@[simp] theorem State.modSch_sense_spare (s : State) (i : Nat) (f : SenseCh → SenseCh) : (s.modSch i f).sense.spare = s.sense.spare := rfl
@[simp] theorem State.modSch_sense_capture (s : State) (i : Nat) (f : SenseCh → SenseCh) : (s.modSch i f).sense.capture = s.sense.capture := rfl
@[simp] theorem State.modSch_sense_test (s : State) (i : Nat) (f : SenseCh → SenseCh) : (s.modSch i f).sense.test = s.sense.test := rfl
@[simp] theorem State.modSch_sense_testFails (s : State) (i : Nat) (f : SenseCh → SenseCh) : (s.modSch i f).sense.testFails = s.sense.testFails := rfl
@[simp] theorem State.modSch_sense_testStop (s : State) (i : Nat) (f : SenseCh → SenseCh) : (s.modSch i f).sense.testStop = s.sense.testStop := rfl
@[simp] theorem State.modSch_sense_dacSuspect (s : State) (i : Nat) (f : SenseCh → SenseCh) : (s.modSch i f).sense.dacSuspect = s.sense.dacSuspect := rfl
@[simp] theorem State.modSch_sense_inject (s : State) (i : Nat) (f : SenseCh → SenseCh) : (s.modSch i f).sense.inject = s.sense.inject := rfl
@[simp] theorem State.modSch_sense_rangeBack (s : State) (i : Nat) (f : SenseCh → SenseCh) : (s.modSch i f).sense.rangeBack = s.sense.rangeBack := rfl

/-! ### State.setCore -/

@[simp] theorem State.setCore_pending (s : State) (c : Nat) (x : AdcCore) : (s.setCore c x).pending = s.pending := rfl
@[simp] theorem State.setCore_atTick (s : State) (c : Nat) (x : AdcCore) : (s.setCore c x).atTick = s.atTick := rfl
@[simp] theorem State.setCore_clk (s : State) (c : Nat) (x : AdcCore) : (s.setCore c x).clk = s.clk := rfl
@[simp] theorem State.setCore_ft (s : State) (c : Nat) (x : AdcCore) : (s.setCore c x).ft = s.ft := rfl
@[simp] theorem State.setCore_desc (s : State) (c : Nat) (x : AdcCore) : (s.setCore c x).desc = s.desc := rfl
@[simp] theorem State.setCore_drive (s : State) (c : Nat) (x : AdcCore) : (s.setCore c x).drive = s.drive := rfl
@[simp] theorem State.setCore_loops (s : State) (c : Nat) (x : AdcCore) : (s.setCore c x).loops = s.loops := rfl
@[simp] theorem State.setCore_burin (s : State) (c : Nat) (x : AdcCore) : (s.setCore c x).burin = s.burin := rfl
@[simp] theorem State.setCore_imp (s : State) (c : Nat) (x : AdcCore) : (s.setCore c x).imp = s.imp := rfl
@[simp] theorem State.setCore_sched (s : State) (c : Nat) (x : AdcCore) : (s.setCore c x).sched = s.sched := rfl
@[simp] theorem State.setCore_pair (s : State) (c : Nat) (x : AdcCore) : (s.setCore c x).pair = s.pair := rfl
@[simp] theorem State.setCore_mirror (s : State) (c : Nat) (x : AdcCore) : (s.setCore c x).mirror = s.mirror := rfl
@[simp] theorem State.setCore_faults (s : State) (c : Nat) (x : AdcCore) : (s.setCore c x).faults = s.faults := rfl
@[simp] theorem State.setCore_cal (s : State) (c : Nat) (x : AdcCore) : (s.setCore c x).cal = s.cal := rfl
@[simp] theorem State.setCore_sys (s : State) (c : Nat) (x : AdcCore) : (s.setCore c x).sys = s.sys := rfl
@[simp] theorem State.setCore_host (s : State) (c : Nat) (x : AdcCore) : (s.setCore c x).host = s.host := rfl
@[simp] theorem State.setCore_sense_ch (s : State) (c : Nat) (x : AdcCore) : (s.setCore c x).sense.ch = s.sense.ch := rfl
@[simp] theorem State.setCore_sense_bankNow (s : State) (c : Nat) (x : AdcCore) : (s.setCore c x).sense.bankNow = s.sense.bankNow := rfl
@[simp] theorem State.setCore_sense_bankPrev (s : State) (c : Nat) (x : AdcCore) : (s.setCore c x).sense.bankPrev = s.sense.bankPrev := rfl
@[simp] theorem State.setCore_sense_spare (s : State) (c : Nat) (x : AdcCore) : (s.setCore c x).sense.spare = s.sense.spare := rfl
@[simp] theorem State.setCore_sense_capture (s : State) (c : Nat) (x : AdcCore) : (s.setCore c x).sense.capture = s.sense.capture := rfl
@[simp] theorem State.setCore_sense_test (s : State) (c : Nat) (x : AdcCore) : (s.setCore c x).sense.test = s.sense.test := rfl
@[simp] theorem State.setCore_sense_testFails (s : State) (c : Nat) (x : AdcCore) : (s.setCore c x).sense.testFails = s.sense.testFails := rfl
@[simp] theorem State.setCore_sense_testStop (s : State) (c : Nat) (x : AdcCore) : (s.setCore c x).sense.testStop = s.sense.testStop := rfl
@[simp] theorem State.setCore_sense_dacSuspect (s : State) (c : Nat) (x : AdcCore) : (s.setCore c x).sense.dacSuspect = s.sense.dacSuspect := rfl
@[simp] theorem State.setCore_sense_inject (s : State) (c : Nat) (x : AdcCore) : (s.setCore c x).sense.inject = s.sense.inject := rfl
@[simp] theorem State.setCore_sense_rangeBack (s : State) (c : Nat) (x : AdcCore) : (s.setCore c x).sense.rangeBack = s.sense.rangeBack := rfl

/-! ### State.setScope -/

@[simp] theorem State.setScope_pending (s : State) (n : Nat) (x : Scope) : (s.setScope n x).pending = s.pending := rfl
@[simp] theorem State.setScope_atTick (s : State) (n : Nat) (x : Scope) : (s.setScope n x).atTick = s.atTick := rfl
@[simp] theorem State.setScope_clk (s : State) (n : Nat) (x : Scope) : (s.setScope n x).clk = s.clk := rfl
@[simp] theorem State.setScope_ft (s : State) (n : Nat) (x : Scope) : (s.setScope n x).ft = s.ft := rfl
@[simp] theorem State.setScope_desc (s : State) (n : Nat) (x : Scope) : (s.setScope n x).desc = s.desc := rfl
@[simp] theorem State.setScope_drive (s : State) (n : Nat) (x : Scope) : (s.setScope n x).drive = s.drive := rfl
@[simp] theorem State.setScope_sense (s : State) (n : Nat) (x : Scope) : (s.setScope n x).sense = s.sense := rfl
@[simp] theorem State.setScope_loops (s : State) (n : Nat) (x : Scope) : (s.setScope n x).loops = s.loops := rfl
@[simp] theorem State.setScope_burin (s : State) (n : Nat) (x : Scope) : (s.setScope n x).burin = s.burin := rfl
@[simp] theorem State.setScope_imp (s : State) (n : Nat) (x : Scope) : (s.setScope n x).imp = s.imp := rfl
@[simp] theorem State.setScope_sched (s : State) (n : Nat) (x : Scope) : (s.setScope n x).sched = s.sched := rfl
@[simp] theorem State.setScope_pair (s : State) (n : Nat) (x : Scope) : (s.setScope n x).pair = s.pair := rfl
@[simp] theorem State.setScope_mirror (s : State) (n : Nat) (x : Scope) : (s.setScope n x).mirror = s.mirror := rfl
@[simp] theorem State.setScope_faults (s : State) (n : Nat) (x : Scope) : (s.setScope n x).faults = s.faults := rfl
@[simp] theorem State.setScope_sys (s : State) (n : Nat) (x : Scope) : (s.setScope n x).sys = s.sys := rfl
@[simp] theorem State.setScope_host (s : State) (n : Nat) (x : Scope) : (s.setScope n x).host = s.host := rfl
@[simp] theorem State.setScope_cal_adc (s : State) (n : Nat) (x : Scope) : (s.setScope n x).cal.adc = s.cal.adc := rfl
@[simp] theorem State.setScope_cal_tia (s : State) (n : Nat) (x : Scope) : (s.setScope n x).cal.tia = s.cal.tia := rfl
@[simp] theorem State.setScope_cal_bank (s : State) (n : Nat) (x : Scope) : (s.setScope n x).cal.bank = s.cal.bank := rfl
@[simp] theorem State.setScope_cal_rb (s : State) (n : Nat) (x : Scope) : (s.setScope n x).cal.rb = s.cal.rb := rfl
@[simp] theorem State.setScope_cal_dt (s : State) (n : Nat) (x : Scope) : (s.setScope n x).cal.dt = s.cal.dt := rfl
@[simp] theorem State.setScope_cal_tempTrigger (s : State) (n : Nat) (x : Scope) : (s.setScope n x).cal.tempTrigger = s.cal.tempTrigger := rfl
@[simp] theorem State.setScope_cal_powerup (s : State) (n : Nat) (x : Scope) : (s.setScope n x).cal.powerup = s.cal.powerup := rfl
@[simp] theorem State.setScope_cal_persist (s : State) (n : Nat) (x : Scope) : (s.setScope n x).cal.persist = s.cal.persist := rfl
@[simp] theorem State.setScope_cal_haveRecord (s : State) (n : Nat) (x : Scope) : (s.setScope n x).cal.haveRecord = s.cal.haveRecord := rfl
@[simp] theorem State.setScope_cal_convDue (s : State) (n : Nat) (x : Scope) : (s.setScope n x).cal.convDue = s.cal.convDue := rfl
@[simp] theorem State.setScope_cal_fabDue (s : State) (n : Nat) (x : Scope) : (s.setScope n x).cal.fabDue = s.cal.fabDue := rfl
@[simp] theorem State.setScope_cal_cells (s : State) (n : Nat) (x : Scope) : (s.setScope n x).cal.cells = s.cal.cells := rfl
@[simp] theorem State.setScope_cal_voas (s : State) (n : Nat) (x : Scope) : (s.setScope n x).cal.voas = s.cal.voas := rfl
@[simp] theorem State.setScope_cal_loss (s : State) (n : Nat) (x : Scope) : (s.setScope n x).cal.loss = s.cal.loss := rfl
@[simp] theorem State.setScope_cal_patterns (s : State) (n : Nat) (x : Scope) : (s.setScope n x).cal.patterns = s.cal.patterns := rfl
@[simp] theorem State.setScope_cal_excluded (s : State) (n : Nat) (x : Scope) : (s.setScope n x).cal.excluded = s.cal.excluded := rfl
@[simp] theorem State.setScope_cal_fabric (s : State) (n : Nat) (x : Scope) : (s.setScope n x).cal.fabric = s.cal.fabric := rfl
@[simp] theorem State.setScope_cal_map (s : State) (n : Nat) (x : Scope) : (s.setScope n x).cal.map = s.cal.map := rfl
@[simp] theorem State.setScope_cal_hatchSets (s : State) (n : Nat) (x : Scope) : (s.setScope n x).cal.hatchSets = s.cal.hatchSets := rfl
@[simp] theorem State.setScope_cal_hatchBack (s : State) (n : Nat) (x : Scope) : (s.setScope n x).cal.hatchBack = s.cal.hatchBack := rfl
@[simp] theorem State.setScope_cal_runs (s : State) (n : Nat) (x : Scope) : (s.setScope n x).cal.runs = s.cal.runs := rfl
@[simp] theorem State.setScope_cal_fabricNext (s : State) (n : Nat) (x : Scope) : (s.setScope n x).cal.fabricNext = s.cal.fabricNext := rfl
@[simp] theorem State.setScope_cal_lastStart (s : State) (n : Nat) (x : Scope) : (s.setScope n x).cal.lastStart = s.cal.lastStart := rfl
@[simp] theorem State.setScope_cal_all (s : State) (n : Nat) (x : Scope) : (s.setScope n x).cal.all = s.cal.all := rfl
@[simp] theorem State.setScope_cal_phase (s : State) (n : Nat) (x : Scope) : (s.setScope n x).cal.phase = s.cal.phase := rfl
@[simp] theorem State.setScope_cal_due (s : State) (n : Nat) (x : Scope) : (s.setScope n x).cal.due = s.cal.due := rfl
@[simp] theorem State.setScope_cal_lit (s : State) (n : Nat) (x : Scope) : (s.setScope n x).cal.lit = s.cal.lit := rfl

/-! ### State.setFunit -/

@[simp] theorem State.setFunit_pending (s : State) (k i : Nat) (u : FUnit) : (s.setFunit k i u).pending = s.pending := rfl
@[simp] theorem State.setFunit_atTick (s : State) (k i : Nat) (u : FUnit) : (s.setFunit k i u).atTick = s.atTick := rfl
@[simp] theorem State.setFunit_clk (s : State) (k i : Nat) (u : FUnit) : (s.setFunit k i u).clk = s.clk := rfl
@[simp] theorem State.setFunit_ft (s : State) (k i : Nat) (u : FUnit) : (s.setFunit k i u).ft = s.ft := rfl
@[simp] theorem State.setFunit_desc (s : State) (k i : Nat) (u : FUnit) : (s.setFunit k i u).desc = s.desc := rfl
@[simp] theorem State.setFunit_drive (s : State) (k i : Nat) (u : FUnit) : (s.setFunit k i u).drive = s.drive := rfl
@[simp] theorem State.setFunit_sense (s : State) (k i : Nat) (u : FUnit) : (s.setFunit k i u).sense = s.sense := rfl
@[simp] theorem State.setFunit_loops (s : State) (k i : Nat) (u : FUnit) : (s.setFunit k i u).loops = s.loops := rfl
@[simp] theorem State.setFunit_burin (s : State) (k i : Nat) (u : FUnit) : (s.setFunit k i u).burin = s.burin := rfl
@[simp] theorem State.setFunit_imp (s : State) (k i : Nat) (u : FUnit) : (s.setFunit k i u).imp = s.imp := rfl
@[simp] theorem State.setFunit_sched (s : State) (k i : Nat) (u : FUnit) : (s.setFunit k i u).sched = s.sched := rfl
@[simp] theorem State.setFunit_pair (s : State) (k i : Nat) (u : FUnit) : (s.setFunit k i u).pair = s.pair := rfl
@[simp] theorem State.setFunit_mirror (s : State) (k i : Nat) (u : FUnit) : (s.setFunit k i u).mirror = s.mirror := rfl
@[simp] theorem State.setFunit_cal (s : State) (k i : Nat) (u : FUnit) : (s.setFunit k i u).cal = s.cal := rfl
@[simp] theorem State.setFunit_sys (s : State) (k i : Nat) (u : FUnit) : (s.setFunit k i u).sys = s.sys := rfl
@[simp] theorem State.setFunit_host (s : State) (k i : Nat) (u : FUnit) : (s.setFunit k i u).host = s.host := rfl
@[simp] theorem State.setFunit_faults_queue (s : State) (k i : Nat) (u : FUnit) : (s.setFunit k i u).faults.queue = s.faults.queue := rfl
@[simp] theorem State.setFunit_faults_missed (s : State) (k i : Nat) (u : FUnit) : (s.setFunit k i u).faults.missed = s.faults.missed := rfl
@[simp] theorem State.setFunit_faults_overflow (s : State) (k i : Nat) (u : FUnit) : (s.setFunit k i u).faults.overflow = s.faults.overflow := rfl
@[simp] theorem State.setFunit_faults_overflowPeriod (s : State) (k i : Nat) (u : FUnit) : (s.setFunit k i u).faults.overflowPeriod = s.faults.overflowPeriod := rfl
@[simp] theorem State.setFunit_faults_queueMax (s : State) (k i : Nat) (u : FUnit) : (s.setFunit k i u).faults.queueMax = s.faults.queueMax := rfl
@[simp] theorem State.setFunit_faults_pins (s : State) (k i : Nat) (u : FUnit) : (s.setFunit k i u).faults.pins = s.faults.pins := rfl
@[simp] theorem State.setFunit_faults_recordDue (s : State) (k i : Nat) (u : FUnit) : (s.setFunit k i u).faults.recordDue = s.faults.recordDue := rfl
@[simp] theorem State.setFunit_faults_degraded (s : State) (k i : Nat) (u : FUnit) : (s.setFunit k i u).faults.degraded = s.faults.degraded := rfl
@[simp] theorem State.setFunit_faults_log (s : State) (k i : Nat) (u : FUnit) : (s.setFunit k i u).faults.log = s.faults.log := rfl
@[simp] theorem State.setFunit_faults_logNext (s : State) (k i : Nat) (u : FUnit) : (s.setFunit k i u).faults.logNext = s.faults.logNext := rfl
@[simp] theorem State.setFunit_faults_wrapRaised (s : State) (k i : Nat) (u : FUnit) : (s.setFunit k i u).faults.wrapRaised = s.faults.wrapRaised := rfl
@[simp] theorem State.setFunit_faults_late (s : State) (k i : Nat) (u : FUnit) : (s.setFunit k i u).faults.late = s.faults.late := rfl
@[simp] theorem State.setFunit_faults_tempHigh (s : State) (k i : Nat) (u : FUnit) : (s.setFunit k i u).faults.tempHigh = s.faults.tempHigh := rfl
@[simp] theorem State.setFunit_faults_procDrift (s : State) (k i : Nat) (u : FUnit) : (s.setFunit k i u).faults.procDrift = s.faults.procDrift := rfl
@[simp] theorem State.setFunit_faults_vhtrNominal (s : State) (k i : Nat) (u : FUnit) : (s.setFunit k i u).faults.vhtrNominal = s.faults.vhtrNominal := rfl
@[simp] theorem State.setFunit_faults_tempAlarm (s : State) (k i : Nat) (u : FUnit) : (s.setFunit k i u).faults.tempAlarm = s.faults.tempAlarm := rfl
@[simp] theorem State.setFunit_faults_thermalLimit (s : State) (k i : Nat) (u : FUnit) : (s.setFunit k i u).faults.thermalLimit = s.faults.thermalLimit := rfl
@[simp] theorem State.setFunit_faults_supplyFault (s : State) (k i : Nat) (u : FUnit) : (s.setFunit k i u).faults.supplyFault = s.faults.supplyFault := rfl
@[simp] theorem State.setFunit_faults_volts (s : State) (k i : Nat) (u : FUnit) : (s.setFunit k i u).faults.volts = s.faults.volts := rfl
@[simp] theorem State.setFunit_faults_voltOut (s : State) (k i : Nat) (u : FUnit) : (s.setFunit k i u).faults.voltOut = s.faults.voltOut := rfl
@[simp] theorem State.setFunit_faults_voltIn (s : State) (k i : Nat) (u : FUnit) : (s.setFunit k i u).faults.voltIn = s.faults.voltIn := rfl
@[simp] theorem State.setFunit_faults_voltFar (s : State) (k i : Nat) (u : FUnit) : (s.setFunit k i u).faults.voltFar = s.faults.voltFar := rfl
@[simp] theorem State.setFunit_faults_voltAlarm (s : State) (k i : Nat) (u : FUnit) : (s.setFunit k i u).faults.voltAlarm = s.faults.voltAlarm := rfl
@[simp] theorem State.setFunit_faults_procBase (s : State) (k i : Nat) (u : FUnit) : (s.setFunit k i u).faults.procBase = s.faults.procBase := rfl
@[simp] theorem State.setFunit_faults_procAlarm (s : State) (k i : Nat) (u : FUnit) : (s.setFunit k i u).faults.procAlarm = s.faults.procAlarm := rfl
@[simp] theorem State.setFunit_faults_healthy (s : State) (k i : Nat) (u : FUnit) : (s.setFunit k i u).faults.healthy = s.faults.healthy := rfl
@[simp] theorem State.setFunit_faults_report (s : State) (k i : Nat) (u : FUnit) : (s.setFunit k i u).faults.report = s.faults.report := rfl
@[simp] theorem State.setFunit_faults_reports (s : State) (k i : Nat) (u : FUnit) : (s.setFunit k i u).faults.reports = s.faults.reports := rfl
@[simp] theorem State.setFunit_faults_transient (s : State) (k i : Nat) (u : FUnit) : (s.setFunit k i u).faults.transient = s.faults.transient := rfl
@[simp] theorem State.setFunit_faults_permanents (s : State) (k i : Nat) (u : FUnit) : (s.setFunit k i u).faults.permanents = s.faults.permanents := rfl
@[simp] theorem State.setFunit_faults_rbJudged (s : State) (k i : Nat) (u : FUnit) : (s.setFunit k i u).faults.rbJudged = s.faults.rbJudged := rfl
@[simp] theorem State.setFunit_faults_rbFailed (s : State) (k i : Nat) (u : FUnit) : (s.setFunit k i u).faults.rbFailed = s.faults.rbFailed := rfl
@[simp] theorem State.setFunit_faults_pathTests (s : State) (k i : Nat) (u : FUnit) : (s.setFunit k i u).faults.pathTests = s.faults.pathTests := rfl
@[simp] theorem State.setFunit_faults_pathFailed (s : State) (k i : Nat) (u : FUnit) : (s.setFunit k i u).faults.pathFailed = s.faults.pathFailed := rfl
@[simp] theorem State.setFunit_faults_tempMax (s : State) (k i : Nat) (u : FUnit) : (s.setFunit k i u).faults.tempMax = s.faults.tempMax := rfl
@[simp] theorem State.setFunit_faults_tempMaxSensor (s : State) (k i : Nat) (u : FUnit) : (s.setFunit k i u).faults.tempMaxSensor = s.faults.tempMaxSensor := rfl
@[simp] theorem State.setFunit_faults_proofFail (s : State) (k i : Nat) (u : FUnit) : (s.setFunit k i u).faults.proofFail = s.faults.proofFail := rfl
@[simp] theorem State.setFunit_faults_silentRaised (s : State) (k i : Nat) (u : FUnit) : (s.setFunit k i u).faults.silentRaised = s.faults.silentRaised := rfl
@[simp] theorem State.setFunit_faults_voltSampled (s : State) (k i : Nat) (u : FUnit) : (s.setFunit k i u).faults.voltSampled = s.faults.voltSampled := rfl

/-! ### State.setCs -/

@[simp] theorem State.setCs_pending (s : State) (i : Nat) (b : BitVec 512) : (s.setCs i b).pending = s.pending := rfl
@[simp] theorem State.setCs_atTick (s : State) (i : Nat) (b : BitVec 512) : (s.setCs i b).atTick = s.atTick := rfl
@[simp] theorem State.setCs_clk (s : State) (i : Nat) (b : BitVec 512) : (s.setCs i b).clk = s.clk := rfl
@[simp] theorem State.setCs_ft (s : State) (i : Nat) (b : BitVec 512) : (s.setCs i b).ft = s.ft := rfl
@[simp] theorem State.setCs_desc (s : State) (i : Nat) (b : BitVec 512) : (s.setCs i b).desc = s.desc := rfl
@[simp] theorem State.setCs_drive (s : State) (i : Nat) (b : BitVec 512) : (s.setCs i b).drive = s.drive := rfl
@[simp] theorem State.setCs_sense (s : State) (i : Nat) (b : BitVec 512) : (s.setCs i b).sense = s.sense := rfl
@[simp] theorem State.setCs_burin (s : State) (i : Nat) (b : BitVec 512) : (s.setCs i b).burin = s.burin := rfl
@[simp] theorem State.setCs_imp (s : State) (i : Nat) (b : BitVec 512) : (s.setCs i b).imp = s.imp := rfl
@[simp] theorem State.setCs_sched (s : State) (i : Nat) (b : BitVec 512) : (s.setCs i b).sched = s.sched := rfl
@[simp] theorem State.setCs_pair (s : State) (i : Nat) (b : BitVec 512) : (s.setCs i b).pair = s.pair := rfl
@[simp] theorem State.setCs_mirror (s : State) (i : Nat) (b : BitVec 512) : (s.setCs i b).mirror = s.mirror := rfl
@[simp] theorem State.setCs_faults (s : State) (i : Nat) (b : BitVec 512) : (s.setCs i b).faults = s.faults := rfl
@[simp] theorem State.setCs_cal (s : State) (i : Nat) (b : BitVec 512) : (s.setCs i b).cal = s.cal := rfl
@[simp] theorem State.setCs_sys (s : State) (i : Nat) (b : BitVec 512) : (s.setCs i b).sys = s.sys := rfl
@[simp] theorem State.setCs_host (s : State) (i : Nat) (b : BitVec 512) : (s.setCs i b).host = s.host := rfl
@[simp] theorem State.setCs_loops_hatch (s : State) (i : Nat) (b : BitVec 512) : (s.setCs i b).loops.hatch = s.loops.hatch := rfl
@[simp] theorem State.setCs_loops_temps (s : State) (i : Nat) (b : BitVec 512) : (s.setCs i b).loops.temps = s.loops.temps := rfl
@[simp] theorem State.setCs_loops_engine (s : State) (i : Nat) (b : BitVec 512) : (s.setCs i b).loops.engine = s.loops.engine := rfl
@[simp] theorem State.setCs_loops_moved (s : State) (i : Nat) (b : BitVec 512) : (s.setCs i b).loops.moved = s.loops.moved := rfl
@[simp] theorem State.setCs_loops_changedAt (s : State) (i : Nat) (b : BitVec 512) : (s.setCs i b).loops.changedAt = s.loops.changedAt := rfl
@[simp] theorem State.setCs_loops_window (s : State) (i : Nat) (b : BitVec 512) : (s.setCs i b).loops.window = s.loops.window := rfl
@[simp] theorem State.setCs_loops_unlocked (s : State) (i : Nat) (b : BitVec 512) : (s.setCs i b).loops.unlocked = s.loops.unlocked := rfl
@[simp] theorem State.setCs_loops_unlockedRaised (s : State) (i : Nat) (b : BitVec 512) : (s.setCs i b).loops.unlockedRaised = s.loops.unlockedRaised := rfl
@[simp] theorem State.setCs_loops_prevState (s : State) (i : Nat) (b : BitVec 512) : (s.setCs i b).loops.prevState = s.loops.prevState := rfl
@[simp] theorem State.setCs_loops_dwell (s : State) (i : Nat) (b : BitVec 512) : (s.setCs i b).loops.dwell = s.loops.dwell := rfl
@[simp] theorem State.setCs_loops_unfinished (s : State) (i : Nat) (b : BitVec 512) : (s.setCs i b).loops.unfinished = s.loops.unfinished := rfl
@[simp] theorem State.setCs_loops_degraded (s : State) (i : Nat) (b : BitVec 512) : (s.setCs i b).loops.degraded = s.loops.degraded := rfl
@[simp] theorem State.setCs_loops_toneAssigned (s : State) (i : Nat) (b : BitVec 512) : (s.setCs i b).loops.toneAssigned = s.loops.toneAssigned := rfl

end Sys2Proof.Machine
end

