-- ==== Sys2Proof/Laws/Steps.lean ====
section
/-! SUPPORT. Steps: what a command and a step leave of the part of Laws/Still.lean, and how a meaning that ends is put together.
-/

namespace Sys2Proof.Machine

def PerfOf (s u : State) : Prop := ∃ p, u = { s with host := { s.host with perf := p } }

theorem PerfOf.tallyIf {s u : State} (h : PerfOf s u) (ev q n) : PerfOf s (u.tallyIf ev q n) := by
  obtain ⟨p, rfl⟩ := h; exact ⟨_, rfl⟩

theorem PerfOf.tally {s u : State} (h : PerfOf s u) (ev n) : PerfOf s (u.tally ev n) := h.tallyIf _ _ _

theorem perf_cycles (s : State) (n : Nat) : PerfOf s (s.tallyCycles n) := by
  unfold State.tallyCycles
  extract_lets ready s1 s2
  have h1 : PerfOf s s1 := PerfOf.tallyIf (PerfOf.tallyIf (PerfOf.tally ⟨_, rfl⟩ _ _) _ _ _) _ _ _
  have h2 : PerfOf s s2 := by
    simp only [s2]; split
    · exact PerfOf.tally h1 _ _
    · exact h1
  have h3 : ∀ (l : List Nat) (u : State), PerfOf s u → PerfOf s (l.foldl (fun t r => if (s.host.portWaits.any fun w => decide (w.requester = r)) = true then t.tally (0x300 + r) n else t) u) := by
    intro l
    induction l with
    | nil => exact fun _ h => h
    | cons r l ih =>
      intro u hu
      apply ih
      show PerfOf s (if _ then _ else _)
      split
      · exact PerfOf.tally hu _ _
      · exact hu
  exact h3 _ _ h2

theorem exec_calm (i : Instr) (s t : State) (h : exec i s = .next t) :
    (Calm s.still t.still ∨ (Keeps s.still t.still ∧ ((∃ inp, i = .frameTick inp) ∨ i = .lpllLock ∨ i = .rstNAssert ∨ i = .coreSupplyCollapse))) := by
  have key : Lands (fun t => (Calm s.still t.still ∨ (Keeps s.still t.still ∧ ((∃ inp, i = .frameTick inp) ∨ i = .lpllLock ∨ i = .rstNAssert ∨ i = .coreSupplyCollapse)))) (exec i s) := by
    have mono : ∀ o, Lands (fun t => Calm s.still t.still) o → Lands (fun t => (Calm s.still t.still ∨ (Keeps s.still t.still ∧ ((∃ inp, i = .frameTick inp) ∨ i = .lpllLock ∨ i = .rstNAssert ∨ i = .coreSupplyCollapse)))) o := by
      intro o ho; cases o with
      | next t => exact .inl ho
      | fault => trivial
      | refused => trivial
    have mono2 : ∀ o, ((∃ inp, i = .frameTick inp) ∨ i = .lpllLock ∨ i = .rstNAssert ∨ i = .coreSupplyCollapse) → Lands (fun t => Keeps s.still t.still) o → Lands (fun t => (Calm s.still t.still ∨ (Keeps s.still t.still ∧ ((∃ inp, i = .frameTick inp) ∨ i = .lpllLock ∨ i = .rstNAssert ∨ i = .coreSupplyCollapse)))) o := by
      intro o hi ho; cases o with
      | next t => exact .inr ⟨ho, hi⟩
      | fault => trivial
      | refused => trivial
    cases i <;> unfold exec
    · exact mono _ (execGetInfo_calm ..)
    · exact mono _ (execGetHealth_calm ..)
    · exact mono _ (execSetMode_calm ..)
    · exact mono _ (execLoadDescriptor_calm ..)
    · exact mono _ (execReadDescriptor_calm ..)
    · exact mono _ (execPlateWrite_calm ..)
    · exact mono _ (execPlateRead_calm ..)
    · exact mono _ (execPlateRoute_calm ..)
    · exact mono _ (execPlateRouteDelta_calm ..)
    · exact mono _ (execImpress_calm ..)
    · exact mono _ (execProofRead_calm ..)
    · exact mono _ (execSlotTableWrite_calm ..)
    · exact mono _ (execSlotTableSwap_calm ..)
    · exact mono _ (execGateConfig_calm ..)
    · exact mono _ (execDomainConfig_calm ..)
    · exact mono _ (execQueueConfig_calm ..)
    · exact mono _ (execQueueReset_calm ..)
    · exact mono _ (execLoopConfig_calm ..)
    · exact mono _ (execLoopRead_calm ..)
    · exact mono _ (execToneAssign_calm ..)
    · exact mono _ (execHatchLoad_calm ..)
    · exact mono _ (execChannelRead_calm ..)
    · exact mono _ (execChannelForce_calm ..)
    · exact mono _ (execChannelRetire_calm ..)
    · exact mono _ (execChannelRestore_calm ..)
    · exact mono _ (execCalRun_calm ..)
    · exact mono _ (execCalStatus_calm ..)
    · exact mono _ (execCalPolicy_calm ..)
    · exact mono _ (execTimeConfig_calm ..)
    · exact mono _ (execTimeStatus_calm ..)
    · exact mono _ (execPairConfig_calm ..)
    · exact mono _ (execPairStatus_calm ..)
    · exact mono _ (execPairSwap_calm ..)
    · exact mono _ (execRefereeConfig_calm ..)
    · exact mono _ (execFwStage_calm ..)
    · exact mono _ (execFwActivate_calm ..)
    · exact mono _ (execFuseRead_calm ..)
    · exact mono _ (execFuseProgram_calm ..)
    · exact mono _ (execEventConfig_calm ..)
    · exact mono _ (execFaultLogRead_calm ..)
    · exact mono _ (execPerfConfig_calm ..)
    · exact mono _ (execXlateConfig_calm ..)
    · exact mono _ (execXlateResume_calm ..)
    · exact mono _ (execMgmtDatagram_calm ..)
    · exact mono _ (execMbRspAck_calm ..)
    · exact mono _ (execQdTail_calm ..)
    · exact mono _ (execQdCplHead_calm ..)
    · exact mono _ (execTmNsRead_calm ..)
    · exact mono _ (execTmAdj_calm ..)
    · exact mono _ (execEvStatusClear_calm ..)
    · exact mono _ (execEvRingHead_calm ..)
    · exact mono _ (execPaCommit_calm ..)
    · exact mono _ (execPcCycleLoRead_calm ..)
    · exact mono _ (execCountLoRead_calm ..)
    · exact mono _ (execClearedByRead_calm ..)
    · exact mono _ (execMsixUnmask_calm ..)
    · exact mono _ (execBarBadAccess_calm ..)
    · exact mono _ (execRegisterWrite_calm ..)
    · exact mono _ (execFlashEraseSector_calm ..)
    · exact mono _ (execFlashProgramSector_calm ..)
    · exact mono _ (execFlashReadSector_calm ..)
    · exact mono _ (execRepeatBoot_calm ..)
    · exact mono _ (execFlashOpDone_calm ..)
    · exact mono _ (execFlashWriteDone_calm ..)
    · exact mono2 _ (.inr (.inr (.inl rfl))) (execRstNAssert_keeps ..)
    · exact mono _ (execRstNRelease_calm ..)
    · exact mono2 _ (.inr (.inl rfl)) (execLpllLock_keeps ..)
    · exact mono _ (execBootComplete_calm ..)
    · exact mono _ (execClockLoss_calm ..)
    · exact mono _ (execEthrefLoss_calm ..)
    · exact mono2 _ (.inr (.inr (.inr rfl))) (execCoreSupplyCollapse_keeps ..)
    · exact mono _ (execVddLeaseLoss_calm ..)
    · exact mono _ (execFlrVf_calm ..)
    · exact mono _ (execFlrPf_calm ..)
    · exact mono _ (execConventionalReset_calm ..)
    · exact mono _ (execVfEnable_calm ..)
    · exact mono _ (execPowerStateChange_calm ..)
    · exact mono _ (execMasterResetMidBurst_calm ..)
    · exact mono _ (execBusErrorAccess_calm ..)
    · exact mono2 _ (.inl ⟨_, rfl⟩) (execFrameTick_keeps ..)
    · exact mono _ (execCommitPoint_calm ..)
    · exact mono _ (execConversionBoundary_calm ..)
    · exact mono _ (execReadbackConversion_calm ..)
    · exact mono _ (execRangeChangeRelease_calm ..)
    · exact mono _ (execSnapshotComplete_calm ..)
    · exact mono _ (execProofResult_calm ..)
    · exact mono _ (execLocalisationEnd_calm ..)
    · exact mono _ (execSlotLatch_calm ..)
    · exact mono _ (execSlotStart_calm ..)
    · exact mono _ (execTokenRefill_calm ..)
    · exact mono _ (execHealthReport_calm ..)
    · exact mono _ (execVoltSample_calm ..)
    · exact mono _ (execProcMonitorCount_calm ..)
    · exact mono _ (execCalTempCheck_calm ..)
    · exact mono _ (execCalStart_calm ..)
    · exact mono _ (execCalInForce_calm ..)
    · exact mono _ (execStartupCalEnd_calm ..)
    · exact mono _ (execCaptureEnd_calm ..)
    · exact mono _ (execDescriptorFetched_calm ..)
    · exact mono _ (execDescriptorCheck_calm ..)
    · exact mono _ (execArbitrationDecision_calm ..)
    · exact mono _ (execBatchSubmit_calm ..)
    · exact mono _ (execRouteJobStart_calm ..)
    · exact mono _ (execRouteJobComplete_calm ..)
    · exact mono _ (execCompletionWrite_calm ..)
    · exact mono _ (execHdmaBurst_calm ..)
    · exact mono _ (execTranslationWalkDone_calm ..)
    · exact mono _ (execFaultEntryHandled_calm ..)
    · exact mono _ (execGo_calm ..)
    · exact mono _ (execArm_calm ..)
    · exact mono _ (execRenew_calm ..)
    · exact mono _ (execDisarm_calm ..)
    · exact mono _ (execRefStatus_calm ..)
    · exact mono _ (execRefLinkDown_calm ..)
    · exact mono _ (execRefIsolated_calm ..)
    · exact mono _ (execLeaseEnd_calm ..)
    · exact mono _ (execClaimSend_calm ..)
    · exact mono _ (execStatusSend_calm ..)
    · exact mono _ (execHeartbeatStale_calm ..)
    · exact mono _ (execRecoveredClockLoss_calm ..)
    · exact mono _ (execRefereeStart_calm ..)
    · exact mono _ (execRefereeClaim_calm ..)
    · exact mono _ (execRefereeRelease_calm ..)
    · exact mono _ (execRefereeStatusDriving_calm ..)
    · exact mono _ (execRefereeExpiry_calm ..)
    · exact mono _ (execRefereeArm_calm ..)
    · exact mono _ (execRefereeGo_calm ..)
    · exact mono _ (execMirrorFrame_calm ..)
    · exact mono _ (execMirrorImpression_calm ..)
    · exact mono _ (execMirrorRequest_calm ..)
    · exact mono _ (execMirrorCompletion_calm ..)
    · exact mono _ (execMirrorProof_calm ..)
    · exact mono _ (execMirrorPin_calm ..)
    · exact mono _ (execMirrorImage_calm ..)
    · exact mono _ (execMirrorLoopset_calm ..)
    · exact mono _ (execMirrorPlate_calm ..)
    · exact mono _ (execMirrorResyncData_calm ..)
    · exact mono _ (execStandbyStatus_calm ..)
    · exact mono _ (execSwapReady_calm ..)
    · exact mono _ (execMirrorBadCheck_calm ..)
    · exact mono _ (execMirrorLaneDown_calm ..)
    · exact mono _ (execMirrorResyncEnd_calm ..)
    · exact mono _ (execImageInstall_calm ..)
    · exact mono _ (execLoopsetInstall_calm ..)
    · exact mono _ (execSwapCapture_calm ..)
    · exact mono _ (execSwapHandover_calm ..)
    · exact mono _ (execSwapTimeout_calm ..)
    · exact mono _ (execRevertDelay_calm ..)
    · exact mono _ (execSwapInterval_calm ..)
    · exact mono _ (execPtpSync_calm ..)
    · exact mono _ (execPtpFollowUp_calm ..)
    · exact mono _ (execPtpDelayResp_calm ..)
    · exact mono _ (execPtpAnnounce_calm ..)
    · exact mono _ (execPtpPdelayReq_calm ..)
    · exact mono _ (execPtpPdelayResp_calm ..)
    · exact mono _ (execPtpPdelayRespFollowUp_calm ..)
    · exact mono _ (execDelayReqSend_calm ..)
    · exact mono _ (execAnnounceTimeout_calm ..)
    · exact mono _ (execTimeStep_calm ..)
    · exact mono _ (execPpsInEdge_calm ..)
    · exact mono _ (execPpsInAccept_calm ..)
    · exact mono _ (execPpsLoss_calm ..)
    · exact mono _ (execPpsOutRise_calm ..)
    · exact mono _ (execPpsOutFall_calm ..)
    · exact mono _ (execSyncInEdge_calm ..)
    · exact mono _ (execSyncStuck_calm ..)
    · exact mono _ (execWatchdogExpiry_calm ..)
    · exact mono _ (execHotRestartEnd_calm ..)
    · exact mono _ (execRestartFallback_calm ..)
    · exact mono _ (execSmbusRead_calm ..)
    · exact mono _ (execMbDoorbell_calm ..)
    · exact mono _ (execIsoRelease_calm ..)
    · exact mono _ (execRefereeStatusReceived_calm ..)
    · exact mono _ (execMirrorLaneUp_calm ..)
    · exact mono _ (execEthrefRestored_calm ..)
    · exact mono _ (execEthPortDown_calm ..)
    · exact mono _ (execEthPortUp_calm ..)
    · exact mono _ (execVddLeaseApply_calm ..)
    · exact mono _ (execPcieLinkTrained_calm ..)
    · exact mono _ (execFuseProgramDone_calm ..)
    · exact mono _ (execFuseEnDeassert_calm ..)
    · exact mono _ (execCommandBufferReadDone_calm ..)
    · exact mono _ (execPlateReadCopyEnd_calm ..)
    · exact mono _ (execSmbusClockLowTimeout_calm ..)
    · exact mono _ (execBar2WindowRead_calm ..)
    · exact mono _ (execJtagDebugAccess_calm ..)
    · exact mono _ (execMirrorDelayEcho_calm ..)
  rw [h] at key
  exact key

theorem step_keeps (s t : State) (h : step s = .next t) : ∃ p, Keeps { s.still with pending := p } t.still := by
  unfold step at h
  split at h
  · injection h with h
    subst h
    refine ⟨s.pending, ?_⟩
    have : s.idle.still = s.still := by simp
    rw [this]
    exact .refl _
  · rename_i c rest hp
    refine ⟨rest, ?_⟩
    rcases exec_calm _ _ _ h with h | ⟨h, -⟩
    · exact h.toKeeps
    · exact h

def Ends (i : Instr) (o : Host.Outcome State Fault Refusal) : Prop := (∃ t, o = .next t) ∨ (WellFormed i = false ∧ o = .fault .noSuchUnit)

theorem Ends.ite {i : Instr} {c : Prop} [Decidable c] {a b} (ha : c → Ends i a) (hb : ¬c → Ends i b) : Ends i (if c then a else b) := by split <;> rename_i h; exacts [ha h, hb h]

theorem Ends.next {i : Instr} {t : State} : Ends i (.next t) := .inl ⟨_, rfl⟩

theorem isScope_of_wf (n : Nat) (h : wfScope n = true) : isScope n = true := by
  have h' : (n < 8 ∨ 0x100 ≤ n ∧ n < 0x1A0) ∨ (0x200 ≤ n ∧ n < 0x208) ∨ n = 0x300 := by
    simp [wfScope] at h; omega
  simp only [isScope, converterScopes, List.contains_iff_mem, List.mem_append, List.mem_range, List.mem_map, Bool.or_eq_true, decide_eq_true_eq]
  rcases h' with (h | h) | h | h
  · exact .inl (.inl (.inl h))
  · exact .inl (.inl (.inr ⟨n - 0x100, by omega, by omega⟩))
  · exact .inl (.inr ⟨n - 0x200, by omega, by omega⟩)
  · exact .inr h

theorem fld_back {k n x : Nat} (b : BitVec k) (hx : fld x n k = b.toNat) : BitVec.ofNat k (fld x n k) = b := by
  rw [hx]; simp

end Sys2Proof.Machine
end

