-- ==== Sys2Proof/Laws/Units.lean ====
section
/-! SUPPORT. The frame, conversions, captures, range changes, impressions and slots: what each shared operation of them does. -/

namespace Sys2Proof.Machine

structure Fr (x y : Still) : Prop where
  frame : y.frame = x.frame

@[simp] theorem Fr.refl (x : Still) : Fr x x := ⟨rfl⟩
theorem Fr.trans {x y z : Still} (h : Fr x y) (g : Fr y z) : Fr x z := ⟨g.frame.trans h.frame⟩

theorem Fr.of_mode {x y : Still} (h : y = { x with mode := y.mode }) : Fr x y := by rw [h]; exact ⟨rfl⟩

theorem Calm.fr {x y : Still} (h : Calm x y) : Fr x y := ⟨h.frame⟩

theorem foldl_fr {α : Type} (f : State → α → State) (h : ∀ t x, Fr t.still (f t x).still) (l : List α) (s : State) :
    Fr s.still (l.foldl f s).still := by
  induction l generalizing s with
  | nil => exact .refl _
  | cons x r ih => exact (h s x).trans (ih _)

theorem enterMode_fr (s : State) (m : Mode) : Fr s.still (s.enterMode m).still := by
  unfold State.enterMode
  split
  · exact .refl _
  · rw [State.raiseMode_still]
    exact .of_mode rfl

theorem changeMode_fr (s : State) (m : Mode) : Fr s.still (s.changeMode m).still := by
  have h := enterMode_fr (s.leave m) m
  rw [State.leave_still] at h
  unfold State.changeMode
  split
  · exact .refl _
  · simp only
    split <;> simpa using h

theorem startLease_fr (s : State) (epoch len now : Nat) : Fr s.still (s.startLease epoch len now).still := by
  have h : ∀ u : State, u.still = { s.still with closed := u.still.closed, held := true } → Fr s.still u.still := fun u hu => by
    rw [hu]
    exact ⟨rfl⟩
  unfold State.startLease
  simp only
  split
  · rw [State.raiseCore_still, State.driveStand_still]; exact h _ rfl
  · exact h _ rfl

theorem soloStart_fr (s : State) (c : CmdRef) : Fr s.still (s.soloStart c).still := by
  have h := changeMode_fr (s.modeLost c) .isolated
  rw [State.modeLost_still] at h
  unfold State.soloStart
  (repeat' split)
  · exact h
  · simp
  · exact startLease_fr ..

theorem performMode_fr (s : State) (o : TickOp) : Fr s.still (s.performMode o).still := by
  unfold State.performMode
  split
  · rename_i m
    have h := changeMode_fr s m
    simp only
    split
    · exact h.trans (changeMode_fr _ _)
    · split <;> simpa using h
  · split
    · exact changeMode_fr ..
    · exact .refl _
  · rename_i c m
    split
    · exact soloStart_fr ..
    · split
      · rw [State.modeDone_still]
        exact (Calm.fr s.giveUp_calm).trans (changeMode_fr _ _)
      · rw [State.modeDone_still]
        exact changeMode_fr _ _
  · exact .refl _

theorem modeOp_fr (s : State) (win : Nat) (o : TickOp) : Fr s.still (s.modeOp win o).still := by
  unfold State.modeOp
  split
  · exact performMode_fr ..
  · simp

theorem firstEver_fr (s : State) (m : Mode) (hs : s.pair.held = true) : Fr s.still (s.firstEver m).still := by
  have h : Fr s.still (({ s with drive := { s.drive with closed := true } } : State).changeMode m).still :=
    Fr.trans (y := ({ s with drive := { s.drive with closed := true } } : State).still) ⟨rfl⟩ (changeMode_fr _ m)
  unfold State.firstEver
  simp only
  split <;> simpa using h

theorem takeover_fr (s : State) (m : Mode) : Fr s.still (s.takeover m).still := by
  have h := changeMode_fr s.applyNamed.driveStand m
  rw [State.driveStand_still, State.applyNamed_still] at h
  unfold State.takeover
  simp only
  (repeat' split) <;> simpa using h

theorem leaseEnter_fr (s : State) (hs : s.pair.held = true) : Fr s.still s.leaseEnter.still := by
  have h : ∀ (u : State) (m : Mode) (b : Bool), u.still = s.still →
      Fr s.still (if b then u.takeover m else u.firstEver m).still := fun u m b h1 => by
    have h2 : u.pair.held = true := (congrArg Still.held h1).trans hs
    rw [← h1]
    cases b
    · exact firstEver_fr u m h2
    · exact takeover_fr u m
  have g : ∀ v : State, v.still = s.still → ({ v with pair := { v.pair with firstTick := false } } : State).still = s.still :=
    fun _ hv => hv
  exact h _ s.leaseMode s.pair.takeover (g _ (State.stopTests_still s))

theorem leaseTick_fr (s : State) : Fr s.still s.leaseTick.still := by
  unfold State.leaseTick
  split
  · exact .refl _
  · rename_i hg
    have hs : s.pair.held = true := by
      cases hh : s.pair.held <;> simp_all
    simpa using leaseEnter_fr s hs

theorem settingOp_fr (s : State) (win : Nat) (o : TickOp) : Fr s.still (s.settingOp win o).still := by
  cases o with
  | setMode c m => exact modeOp_fr ..
  | overflowHold => exact modeOp_fr ..
  | enter m => exact modeOp_fr ..
  | pair item index v => exact (State.pairItem_calm s item index v).fr
  | _ =>
    simp only [State.settingOp]
    (repeat' split) <;> simp [foldl_still]

theorem tickSettings_fr (s : State) (l : List TickOp) : Fr s.still (s.tickSettings l).still := by
  have h := (foldl_fr (fun t o => t.settingOp (winningRank l) o) (fun t o => settingOp_fr t _ o) l s).trans
    (leaseTick_fr _)
  simpa [State.tickSettings] using h

structure Timed_ (s t : State) : Prop where
  clk : t.clk = s.clk
  ft : t.ft = s.ft

theorem Timed_.refl (s : State) : Timed_ s s := ⟨rfl, rfl⟩

theorem Timed_.trans {s t u : State} (h : Timed_ s t) (g : Timed_ t u) : Timed_ s u := ⟨g.clk.trans h.clk, g.ft.trans h.ft⟩

theorem Timed_.ite {s t u : State} {c : Prop} [Decidable c] (h : Timed_ s t) (g : Timed_ s u) : Timed_ s (if c then t else u) := by
  split <;> assumption

theorem Timed_.foldl {α : Type} (f : State → α → State) (h : ∀ t x, Timed_ t (f t x)) (l : List α) (s : State) : Timed_ s (l.foldl f s) := by
  induction l generalizing s with
  | nil => exact .refl s
  | cons x r ih => exact (h s x).trans (ih _)

theorem Timed_.work {s t : State} (h : Work s t) : Timed_ s t := by
  obtain ⟨a, b, c, d, e, f, i, sc, w, rfl⟩ := h; exact ⟨rfl, rfl⟩

theorem Timed_.side {s t : State} (h : Side s t) : Timed_ s t := .work (.side h)

theorem Timed_.imp {s u : State} {i : Imp} (h : Timed_ s u) : Timed_ s { u with imp := i } := ⟨h.clk, h.ft⟩

theorem putCode_timed (s : State) (i : Nat) (w : Writer) (c : Nat) : Timed_ s (s.putCode i w c) := by
  unfold State.putCode State.putIn
  extract_lets d lim
  split
  · exact .refl s
  · exact .ite (.refl s) ⟨rfl, rfl⟩

theorem refresh_timed (s : State) (c i : Nat) : Timed_ s (s.refreshTrace c i) := by
  unfold State.refreshTrace
  refine .foldl _ (fun t x => ?_) _ _
  have h := putCode_timed t x .impression (cg (t.cs x) (if tb c x then 0x12 else 0x10) 2)
  exact ⟨h.clk, h.ft⟩

theorem commitImpression_timed (s : State) : Timed_ s s.commitImpression := by
  unfold State.commitImpression
  extract_lets n retry wait pick ready taken s0 s1 sel
  have h0 : Timed_ s s0 := .side (State.tally_side ..)
  have h1 : Timed_ s s1 := h0.trans (.foldl _ (fun t x => .ite (.work (State.discardArmed_work ..)) (.refl t)) _ _)
  clear_value s1 pick retry
  cases pick with
  | none =>
    cases retry with
    | none => exact h1
    | some r =>
      refine h1.trans (Timed_.trans (.foldl _ (fun t x => refresh_timed ..) _ _) ⟨rfl, rfl⟩)
  | some a =>
    dsimp only
    split
    · exact h1
    · refine Timed_.imp (Timed_.trans h1 ?_)
      have hw : ∀ (b : Bool) (u : State), Timed_ u (when b (fun v => v.raise 45 .m) u) := fun b u => by
        unfold when; exact .ite (.side (State.raise_side ..)) (.refl u)
      refine Timed_.trans ?_ (hw _ _)
      exact Timed_.trans (Timed_.foldl _ (fun t x => putCode_timed ..) _ _) (Timed_.foldl _ (fun t x => refresh_timed ..) _ _)

theorem restartLoops_timed (s : State) : Timed_ s s.restartLoops := by
  unfold State.restartLoops
  refine .foldl _ (fun t i => ?_) _ _
  exact .ite (.refl t) (.ite ⟨rfl, rfl⟩ ⟨rfl, rfl⟩)

theorem swapCommit_timed (s : State) : Timed_ s s.swapCommit := by
  unfold State.swapCommit
  split
  · exact .ite ⟨(restartLoops_timed _).clk, (restartLoops_timed _).ft⟩ (.refl s)
  · exact .refl s

theorem overruns_timed (s : State) : Timed_ s s.overruns := by
  unfold State.overruns
  have h : Timed_ s { s with loops := { s.loops with unfinished := [] } } := ⟨rfl, rfl⟩
  exact h.trans (.foldl _ (fun t e => .side (State.fail_side ..)) _ _)

/-- The commit point's work leaves the clock but for its own mark, and fabric time. -/
theorem commit_spec (s : State) : s.commit.clk = { s.clk with committed := true } ∧ s.commit.ft = s.ft := by
  unfold State.commit
  split
  · rename_i h
    refine ⟨?_, rfl⟩
    rw [← h]
  · rename_i h
    have h1 := (swapCommit_timed s).trans (overruns_timed _)
    unfold State.commitWork
    rw [if_neg (by rw [h1.clk]; exact h)]
    have h2 := commitImpression_timed s.swapCommit.overruns
    dsimp only
    rw [h2.clk, h1.clk, h2.ft, h1.ft]
    exact ⟨rfl, rfl⟩

theorem tallyCycles_side (s : State) (n : Nat) : Side s (s.tallyCycles n) := by
  unfold State.tallyCycles
  extract_lets ready s1 s2
  have h1 : Side s s1 := ((s.tally_side ..).trans (State.tallyIf_side ..)).trans (State.tallyIf_side ..)
  have h2 : Side s s2 := .ite (h1.trans (State.tally_side ..)) h1
  exact h2.trans (.foldl _ (fun t r => .ite (t.tally_side ..) (.refl t)) _ _)

theorem advance_spec (s : State) (n : Nat) :
    (s.advance n).clk = { s.clk with
      cycle := s.clk.cycle + n, cycles := s.clk.cycles + n, pcCycle := s.clk.pcCycle + BitVec.ofNat 64 n } ∧
    (s.advance n).ft = { s.ft with
      t := (s.ft.t + n * s.ft.inc) % 2 ^ 112,
      rem := if s.ft.state = .holdover then s.ft.rem else s.ft.rem - (n : Int) * s.slewInc } := by
  obtain ⟨a, p, m, f, y, h, e⟩ := tallyCycles_side s n
  unfold State.advance
  rw [e]
  exact ⟨rfl, rfl⟩

theorem endFrame_timed (s : State) : Timed_ s s.endFrame := by
  unfold State.endFrame
  extract_lets s1
  have h1 : Timed_ s s1 := by
    refine Timed_.trans ?_ (.side (State.tallyIf_side ..))
    unfold State.frameMessages
    refine .foldl _ (fun t e => ?_) _ _
    extract_lets f waits t1 g
    have h1 : Timed_ t t1 := .ite (.side (.told (Told.trans (t.setFn_told ..) (State.msix_told ..)))) (.refl t)
    exact h1.trans (.ite (.side (.told (Told.trans (t1.setFn_told ..) (State.msix_told ..)))) (.refl _))
  exact ⟨h1.clk, h1.ft⟩

theorem toNextFrame_frame (s : State) : s.toNextFrame.clk.frame = (s.ft.t + s.toTick * s.ft.inc) % 2 ^ 112 / 2 ^ 48 / 2000 := by
  have h := advance_spec s s.toTick
  show (s.advance s.toTick).ft.t / 2 ^ 48 / 2000 = _
  rw [h.2]

theorem toTick_congr {s t : State} (hc : t.clk = { s.clk with committed := true }) (hf : t.ft = s.ft) : t.toTick = s.toTick := by
  unfold State.toTick State.cyclesTo
  rw [hc, hf]

def tickBody (i : TickIn) (s1 : State) : State :=
    let s2 := s1.toNextFrame.takeDue.heartbeat.swapBanks.tempTick i.temps
    let s3 := i.ecc.foldl State.eccError (s2.tickSettings s1.atTick)
    let s4 := s3.tickCodes.latchLoads s3 i.charge
    ((s1.atTick.foldl State.lateOp s4).rangeWaits.tickUnits i s1.clk.frame).tickMessages

theorem tickBody_frame (i : TickIn) (s1 : State) : (tickBody i s1).clk.frame = s1.toNextFrame.clk.frame := by
  unfold tickBody
  extract_lets s2 s3 s4
  have g1 := tickSettings_fr s2 s1.atTick
  have g3 : s2.still = s1.toNextFrame.still := by simp [s2]
  have g4 : s4.still.frame = s1.toNextFrame.clk.frame := by
    simp only [s4, s3]
    rw [State.latchLoads_still, State.tickCodes_still, foldl_still _ (fun t x => State.eccError_still t x), g1.frame, g3]; rfl
  have g2 := (State.tickMessages_calm ((s1.atTick.foldl State.lateOp s4).rangeWaits.tickUnits i s1.clk.frame)).frame
  have hf : ∀ u : State, u.clk.frame = u.still.frame := fun _ => rfl
  rw [hf, g2, State.tickUnits_still, State.rangeWaits_still, foldl_still _ (fun t x => State.lateOp_still t x)]
  exact g4

structure Kp (c : Nat) (s t : State) : Prop where
  bd : (t.core c).boundary = (s.core c).boundary
  pd : (t.core c).pending = (s.core c).pending
  ch : t.sense.ch = s.sense.ch
  bn : t.sense.bankNow = s.sense.bankNow

theorem Kp.refl (c : Nat) (s : State) : Kp c s s := ⟨rfl, rfl, rfl, rfl⟩

theorem Kp.trans {c : Nat} {s t u : State} (h : Kp c s t) (g : Kp c t u) : Kp c s u :=
  ⟨g.bd.trans h.bd, g.pd.trans h.pd, g.ch.trans h.ch, g.bn.trans h.bn⟩

theorem Kp.ite {k : Nat} {s t u : State} {c : Prop} [Decidable c] (h : Kp k s t) (g : Kp k s u) : Kp k s (if c then t else u) := by
  split <;> assumption

theorem Kp.side {c : Nat} {s t : State} (h : Side s t) : Kp c s t := by
  obtain ⟨a, b, p, d, e, f, rfl⟩ := h; exact ⟨rfl, rfl, rfl, rfl⟩

theorem core_setCore (s : State) (c d : Nat) (x : AdcCore) : (s.setCore c x).core d = if c = d then x else s.core d := by
  unfold State.core State.setCore
  dsimp only [rd]
  rw [find?_wr]
  split <;> rfl

theorem setCore_kp (s : State) (c d : Nat) (x : AdcCore) (hb : x.boundary = (s.core d).boundary) (hp : x.pending = (s.core d).pending) :
    Kp c s (s.setCore d x) := by
  refine ⟨?_, ?_, rfl, rfl⟩ <;> rw [core_setCore] <;> split
  · subst_vars; exact hb
  · rfl
  · subst_vars; exact hp
  · rfl

theorem askUrgent_kp (s : State) (c d : Nat) (u : Urgent) : Kp c s (s.askUrgent d u) := by
  unfold State.askUrgent
  exact .ite (setCore_kp _ _ _ _ rfl rfl) (.refl ..)

theorem anomaly_kp (s : State) (c d : Nat) (r : Nat × Nat) : Kp c s (s.anomaly d r) :=
  (Kp.side (State.raise_side ..)).trans (askUrgent_kp ..)

theorem check_kp (s : State) (c d : Nat) (raw : Int) (r : Option (Nat × Nat)) (p : Nat) : Kp c s (s.check d raw r p) := by
  unfold State.check
  extract_lets v ok src s1 n
  have h1 : Kp c s s1 := setCore_kp _ _ _ _ rfl rfl
  refine h1.trans ?_
  split
  · exact .ite (.refl ..) ((Kp.side (State.fail_side ..)).trans (anomaly_kp ..))
  · refine .ite (.ite (.refl ..) (.side (State.fail_side ..))) (.ite (.side (State.fail_side ..)) ?_)
    exact (Kp.side (State.fail_side ..)).trans (.side (State.fail_side ..))

/-- A stored conversion sets the sample and the last word of its channel, and keeps the lists of the cores. -/
theorem convert_spec (s : State) (c d x : Nat) (raw : Int) (f u st pr : Bool) :
    ((s.convert d x raw f u st pr).core c).boundary = (s.core c).boundary ∧
    ((s.convert d x raw f u st pr).core c).pending = (s.core c).pending ∧
    (st = true → rd (s.convert d x raw f u st pr).sense.bankNow x 0 = s.sampleOf d x raw f u ∧
      ((s.convert d x raw f u st pr).sch x).last = s.sampleOf d x raw f u) := by
  unfold State.convert
  extract_lets w src s1 s2
  have h1 : (s1.core c).boundary = (s.core c).boundary ∧ (s1.core c).pending = (s.core c).pending ∧
      (st = true → rd s1.sense.bankNow x 0 = w ∧ (s1.sch x).last = w) := by
    simp only [s1]
    split
    · refine ⟨rfl, rfl, fun _ => ⟨?_, ?_⟩⟩
      · show rd (wr s.sense.bankNow x w) x 0 = w
        simp
      · unfold State.modSch State.setSch State.sch
        simp
    · rename_i h
      exact ⟨rfl, rfl, fun h' => absurd h' h⟩
  have h2 : Kp c s1 s2 := .ite ⟨rfl, rfl, rfl, rfl⟩ (.refl ..)
  have h3 : ∀ t : State, Kp c s2 t → (t.core c).boundary = (s.core c).boundary ∧ (t.core c).pending = (s.core c).pending ∧
      (st = true → rd t.sense.bankNow x 0 = w ∧ (t.sch x).last = w) := fun t ht => by
    have g := h2.trans ht
    refine ⟨g.bd.trans h1.1, g.pd.trans h1.2.1, fun h => ?_⟩
    have g2 : t.sch x = s1.sch x := by unfold State.sch; rw [g.ch]
    rw [g.bn, g2]
    exact h1.2.2 h
  exact h3 _ (.ite (anomaly_kp ..) (.refl ..))

theorem modCore_bd (u : State) (c n : Nat) (f : AdcCore → AdcCore) (hf : ∀ x, (f x).boundary = x.boundary) (hu : (u.core c).boundary = n) :
    ((u.modCore c f).core c).boundary = n := by
  unfold State.modCore; rw [core_setCore, if_pos rfl, hf]; exact hu

theorem tally_bd (u : State) (c n e m : Nat) (hu : (u.core c).boundary = n) : ((u.tally e m).core c).boundary = n :=
  ((Kp.side (u.tally_side e m)).bd).trans hu

theorem serveProof_bd (u : State) (c n e : Nat) (raw : Int) (t : List W16) (x : Urgent) (hu : (u.core c).boundary = n) :
    ((u.serveProof c raw t x e).core c).boundary = n := by
  unfold State.serveProof
  rw [(convert_spec _ c _ _ _ _ _ _ _).1]
  exact modCore_bd _ _ _ _ (fun _ => rfl) (tally_bd _ _ _ _ _ hu)

theorem serveUrgent_bd (u : State) (c n : Nat) (raw : Int) (x : Urgent) (hu : (u.core c).boundary = n) :
    ((u.serveUrgent c raw x).core c).boundary = n := by
  unfold State.serveUrgent
  extract_lets s1
  have h1 : (s1.core c).boundary = n := modCore_bd _ _ _ _ (fun _ => rfl) (tally_bd _ _ _ _ _ hu)
  clear_value s1
  split
  · rw [(convert_spec _ c _ _ _ _ _ _ _).1]; exact h1
  · rw [(check_kp _ c _ _ _ _).bd]; exact h1

theorem serveEntry_bd (u : State) (c n : Nat) (raw : Int) (t : List W16) (k : AdcCore) (hu : (u.core c).boundary = n) :
    ((u.serveEntry c raw t k).core c).boundary = n := by
  unfold State.serveEntry
  split
  · extract_lets s1
    have h1 : (s1.core c).boundary = n := modCore_bd _ _ _ _ (fun _ => rfl) hu
    clear_value s1
    split
    · rw [(convert_spec _ c _ _ _ _ _ _ _).1]
      exact h1
    · exact h1
  · split
    · exact hu
    · rw [(check_kp _ c _ _ _ _).bd]
      exact modCore_bd _ _ _ _ (fun _ => rfl) hu

theorem pick_bd (n c : Nat) (raw : Int) (t : List W16) (k : AdcCore) (s0 : State) (l : List Urgent) (o : Option Urgent) (g : Urgent → Nat)
    (h0 : (s0.core c).boundary = n) :
    ((match l with
      | u :: _ => s0.serveProof c raw t u (g u)
      | [] => match o with | some u => s0.serveUrgent c raw u | none => s0.serveEntry c raw t k : State).core c).boundary = n := by
  cases l with
  | cons u r => exact serveProof_bd _ _ _ _ _ _ _ h0
  | nil =>
    cases o with
    | some u => exact serveUrgent_bd _ _ _ _ _ h0
    | none => exact serveEntry_bd _ _ _ _ _ _ h0

theorem boundary_bd (s : State) (c : Nat) (raw : Int) (len : Nat) : ((s.boundary c raw len).core c).boundary = (s.core c).boundary + 120 :=
  pick_bd _ c raw _ _ _ _ _ _ (congrArg AdcCore.boundary ((core_setCore s c c _).trans (if_pos rfl)))

theorem advance_side (s : State) (n : Nat) : (s.advance n).sense = s.sense ∧ (s.advance n).cal = s.cal := by
  obtain ⟨a, p, m, f, y, h, e⟩ := tallyCycles_side s n
  unfold State.advance
  rw [e]
  exact ⟨rfl, rfl⟩

theorem atCycle_sense (s : State) (n : Nat) : (s.atCycle n).sense = s.sense := by
  unfold State.atCycle
  split
  · exact (advance_side ..).1
  · rfl

theorem newXfer_list (s : State) (d : Nat) (u : XferUse) (a b : Bool) (i l : Nat) (x : List Byte) :
    ∃ y, (s.newXfer d u a b i l x).host.xfers = s.host.xfers ++ [y] ∧ y.write = b ∧ y.iova = i ∧ y.len = l ∧ y.data = x :=
  ⟨_, rfl, rfl, rfl, rfl, rfl⟩

theorem advanceEpoch_only (s : State) (x : Nat) : (s.advanceEpoch x).host = s.host ∧ (s.advanceEpoch x).clk = s.clk ∧
    (s.advanceEpoch x).drive = s.drive ∧ (s.advanceEpoch x).sense.capture = s.sense.capture := ⟨rfl, rfl, rfl, rfl⟩

theorem foldEpochs_only (l : List Nat) (s : State) : (l.foldl State.advanceEpoch s).host = s.host ∧ (l.foldl State.advanceEpoch s).clk = s.clk ∧
    (l.foldl State.advanceEpoch s).drive = s.drive ∧ (l.foldl State.advanceEpoch s).sense.capture = s.sense.capture := by
  induction l generalizing s with
  | nil => exact ⟨rfl, rfl, rfl, rfl⟩
  | cons x r ih =>
    have h := ih (s.advanceEpoch x)
    have g := advanceEpoch_only s x
    rw [List.foldl_cons]
    exact ⟨h.1.trans g.1, h.2.1.trans g.2.1, h.2.2.1.trans g.2.2.1, h.2.2.2.trans g.2.2.2⟩

theorem pairEpochs_only (s : State) (p : Nat) : (s.pairEpochs p).host = s.host ∧ (s.pairEpochs p).clk = s.clk ∧
    (s.pairEpochs p).drive = s.drive ∧ (s.pairEpochs p).sense.capture = s.sense.capture := foldEpochs_only _ s

/-- A capture whose 16,384 conversions stand ends at a tick. -/
theorem captureEnd_eq (s : State) (cap : Capture) (h : s.sense.capture = some cap) (hl : 16384 ≤ cap.words.length)
    (hn : TickOp.captureEnd ∉ s.atTick) : execCaptureEnd s = .next (s.atTickNow .captureEnd State.stopCapture) := by
  unfold execCaptureEnd
  rw [h]
  dsimp only
  rw [if_neg (by simp [hn]; omega)]

theorem setTia_only (s : State) (x r : Nat) : (s.setTia x r).host = s.host ∧ (s.setTia x r).clk = s.clk ∧
    (s.setTia x r).drive = s.drive ∧ (s.setTia x r).sense.capture = s.sense.capture := by
  unfold State.setTia
  split <;> exact ⟨rfl, rfl, rfl, rfl⟩

theorem returnTia_only (s : State) (x : Nat) : (s.returnTia x).host = s.host ∧ (s.returnTia x).clk = s.clk ∧
    (s.returnTia x).drive = s.drive ∧ (s.returnTia x).sense.capture = s.sense.capture := by
  unfold State.returnTia
  split
  · exact ⟨rfl, rfl, rfl, rfl⟩
  · split
    · exact ⟨rfl, rfl, rfl, rfl⟩
    · have h := setTia_only ({ s with sense := { s.sense with rangeBack := del s.sense.rangeBack x } } : State) x
      exact ⟨(h _).1, (h _).2.1, (h _).2.2.1, (h _).2.2.2⟩

/-- The end of a capture (R133, R522): the words leave for the command's buffer, and the capture is over. -/
theorem stopCapture_spec (s : State) (cap : Capture) (h : s.sense.capture = some cap) :
    ∃ u : State, s.stopCapture = u.newXfer (srcDom cap.cmd.src)
        (.write cap.cmd stOk [(0, cap.startFrame % 2 ^ 32), (4, cap.pair)]) false true cap.iova 65536
        (cap.words.flatMap (fun w => bytesLE 4 w.toNat)) ∧
      u.host = s.host ∧ u.clk = s.clk ∧ u.drive = s.drive ∧ u.sense.capture = none := by
  unfold State.stopCapture
  rw [h]
  dsimp only
  have g := pairEpochs_only ({ s with sense := { s.sense with capture := none } } : State) cap.pair
  have k := returnTia_only ((({ s with sense := { s.sense with capture := none } } : State).pairEpochs cap.pair)) cap.sense
  exact ⟨_, rfl, k.1.trans g.1, k.2.1.trans g.2.1, k.2.2.1.trans g.2.2.1, k.2.2.2.trans g.2.2.2⟩

structure Rb (s t : State) : Prop where
  ch : t.drive.ch = s.drive.ch
  pos : t.drive.rbPos = s.drive.rbPos
  rt : t.drive.rbRetry = s.drive.rbRetry

theorem Rb.refl (s : State) : Rb s s := ⟨rfl, rfl, rfl⟩

theorem Rb.trans {s t u : State} (h : Rb s t) (g : Rb t u) : Rb s u := ⟨g.ch.trans h.ch, g.pos.trans h.pos, g.rt.trans h.rt⟩

theorem Rb.ite {s t u : State} {c : Prop} [Decidable c] (h : Rb s t) (g : Rb s u) : Rb s (if c then t else u) := by split <;> assumption

theorem Rb.foldl {α : Type} (f : State → α → State) (h : ∀ t x, Rb t (f t x)) (l : List α) (s : State) : Rb s (l.foldl f s) := by
  induction l generalizing s with
  | nil => exact .refl s
  | cons x r ih => exact (h s x).trans (ih _)

theorem Rb.side {s t : State} (h : Side s t) : Rb s t := by obtain ⟨a, b, p, d, e, f, rfl⟩ := h; exact ⟨rfl, rfl, rfl⟩

theorem withdrawAll_rb (s : State) (l : List Nat) : Rb s (s.withdrawAll l) := Rb.foldl _ (fun t x => .side (State.withdraw_side ..)) _ _

theorem bankCheck_rb (s : State) (b : Nat) : Rb s (s.bankCheck b) := by
  have step : ∀ (u v : State) (n : Nat) (sc : EvScope) (e : Ev) (l : List Nat), Rb u v → Rb u ((v.raise n sc e).withdrawAll l) :=
    fun u v n sc e l h => (h.trans (.side (State.raise_side ..))).trans (withdrawAll_rb ..)
  unfold State.bankCheck
  split
  · dsimp only
    split
    · apply step
      have h : ∀ u : State, Rb s u → ∀ w, Rb s ({ u with drive := { u.drive with convSuspect := w } } : State) :=
        fun u h w => ⟨h.ch, h.pos, h.rt⟩
      apply h
      apply step
      exact ⟨rfl, rfl, rfl⟩
    · apply step
      exact ⟨rfl, rfl, rfl⟩
  · exact .refl s

theorem vhtrCheck_rb (s : State) (g : Nat) : Rb s (s.vhtrCheck g) := by
  unfold State.vhtrCheck
  refine .ite ?_ (.refl s)
  extract_lets chans src s1 cells ports
  have h1 : Rb s s1 := ⟨rfl, rfl, rfl⟩
  exact (h1.trans (.side (State.raise_side ..))).trans (withdrawAll_rb ..)

theorem vhtr_after {s u : State} (g : Nat) (h : Rb s u) : Rb s (u.vhtrCheck g) := h.trans (vhtrCheck_rb ..)

theorem readbackFail_rb (s : State) (i cls : Nat) :
    ∃ f : DriveCh → DriveCh, (∀ c, ∃ v, f c = { c with sticky := v }) ∧ Rb (s.modDch i f) (s.readbackFail i cls) := by
  refine ⟨fun c => { c with sticky := c.sticky ||| (if cls = 1 then 64 else if cls = 2 then 128 else 256) }, fun c => ⟨_, rfl⟩, ?_⟩
  unfold State.readbackFail
  extract_lets b s1 bank src srcf s2 s3 g l srcd s4 stands
  have h2 : Rb s1 s2 := ⟨rfl, rfl, rfl⟩
  have h3 : Rb s1 s3 := h2.trans (bankCheck_rb ..)
  have h4 : Rb s1 s4 := .ite (h3.trans (vhtr_after _ ⟨rfl, rfl, rfl⟩)) h3
  exact h4.trans (.side (State.fail_side ..))

/-- The converter moves on. -/
theorem readbackNext_spec (s : State) (r i : Nat) : (s.readbackNext r i).drive.ch = s.drive.ch ∧
    (s.readbackNext r i).drive.rbPos = wr s.drive.rbPos r ((i % 1280 + 1) % 1280) ∧
    (s.readbackNext r i).drive.rbRetry = wr s.drive.rbRetry r false := by
  unfold State.readbackNext
  extract_lets src s1 b srcb s2 standing srcc s3
  have h2 : Rb s1 s2 := .ite ⟨rfl, rfl, rfl⟩ (.refl s1)
  have h3 : Rb s2 s3 := ⟨rfl, rfl, rfl⟩
  have h : ∀ t, Rb s1 t → t.drive.ch = s.drive.ch ∧ t.drive.rbPos = wr s.drive.rbPos r ((i % 1280 + 1) % 1280) ∧
      t.drive.rbRetry = wr s.drive.rbRetry r false := fun t ht => ⟨ht.ch, ht.pos, ht.rt⟩
  refine h _ (.ite ((h2.trans h3).trans ?_) h2)
  refine .foldl _ (fun t g => ?_) _ _
  exact .ite ⟨rfl, rfl, rfl⟩ (.refl t)

theorem dch_of_ch {s t : State} (h : t.drive.ch = s.drive.ch) (j : Nat) : t.dch j = s.dch j := by unfold State.dch; rw [h]

theorem dch_setDch (s : State) (i j : Nat) (c : DriveCh) : (s.setDch i c).dch j = if i = j then c else s.dch j := by
  unfold State.dch State.setDch
  dsimp only [rd]
  rw [find?_wr]
  split <;> rfl

theorem rangeDone_spoke (s : State) (l : List CmdRef) : Spoke s (s.rangeDone l) := by
  unfold State.rangeDone
  exact Spoke.foldl _ (fun t c => .ite (.refl t) (State.answer_spoke ..)) _ _

theorem work_keeps {s t : State} (h : Work s t) : t.drive = s.drive ∧ t.sense = s.sense ∧ t.clk = s.clk ∧ t.ft = s.ft := by
  obtain ⟨a, b, c, d, e, f, i, sc, w, rfl⟩ := h; exact ⟨rfl, rfl, rfl, rfl⟩

theorem side_keeps {s t : State} (h : Side s t) : t.drive = s.drive ∧ t.sense = s.sense ∧ t.clk = s.clk ∧ t.imp = s.imp ∧ t.sched = s.sched := by
  obtain ⟨a, b, c, d, e, f, rfl⟩ := h; exact ⟨rfl, rfl, rfl, rfl, rfl⟩

theorem returnReqs_imp (s : State) (l : List (Req × Nat)) : (s.returnReqs l).imp = s.imp := by
  unfold State.returnReqs
  extract_lets up keep src s1
  have h : ∀ (m : List (Req × Nat)) (u : State), (m.foldl (fun t x => t.completeBare x.1 stTimeout x.2) u).imp = u.imp := by
    intro m
    induction m with
    | nil => intro u; rfl
    | cons x r ih =>
      intro u
      rw [List.foldl_cons, ih]
      unfold State.completeBare State.complete State.landed
      split <;> rfl
  rw [h]

theorem discardArmed_imp (s : State) (a : Armed) (st : Nat) (e : Bool) :
    ∀ x ∈ (s.discardArmed a st e).imp.armed, x ∈ s.imp.armed ∧ x.order ≠ a.order := by
  unfold State.discardArmed when
  extract_lets s1 s2
  have h1 : s1.imp = (s.dropArmed a.order).imp := by
    simp only [s1]
    split
    · exact (side_keeps (State.raise_side ..)).2.2.2.1
    · rfl
  have h2 : s2.imp = (s.dropArmed a.order).imp := by
    simp only [s2]
    split
    · exact (side_keeps (State.answer_side ..)).2.2.2.1.trans h1
    · exact h1
  have h0 : ∀ x ∈ (s.dropArmed a.order).imp.armed, x ∈ s.imp.armed ∧ x.order ≠ a.order := by
    intro x hx
    have hx' : x ∈ s.imp.armed.filter (fun x => decide (x.order ≠ a.order)) := hx
    simpa using hx'
  split
  · intro x hx
    unfold State.discardBatches at hx
    dsimp only at hx
    rw [returnReqs_imp] at hx
    have hx' : x ∈ s2.imp.armed := List.mem_of_mem_filter hx
    rw [h2] at hx'
    exact h0 x hx'
  · rw [h2]; exact h0

theorem atCycle_only (s : State) (n : Nat) : (s.atCycle n).drive = s.drive ∧ (s.atCycle n).sense = s.sense ∧
    (s.atCycle n).clk.frame = s.clk.frame ∧ (s.atCycle n).clk.cycle = max s.clk.cycle n := by
  unfold State.atCycle
  split
  · have g := advance_spec s (n - s.clk.cycle)
    have h : (s.advance (n - s.clk.cycle)).drive = s.drive := by
      obtain ⟨a, p, m, f, y, h, e⟩ := tallyCycles_side s (n - s.clk.cycle)
      unfold State.advance
      rw [e]
    refine ⟨h, (advance_side ..).1, ?_, ?_⟩
    · rw [g.1]
    · rw [g.1]; dsimp only; omega
  · exact ⟨rfl, rfl, rfl, by omega⟩

theorem proofResult_eq (s : State) (h : s.pair.held = true) (hr : s.runs = true) (due early : List Nat) (plain : Bool)
    (hd : due = s.resultsDue) (he : early = due.filter (fun q => !s.resultLate q))
    (hp : plain = s.sched.batches.any (fun (b : Batch) => match b.state with
         | .applied seq _ => b.reqs.any (fun r => !s.outstanding seq (dIngress r.desc))
         | _ => false)) :
    execProofResult s = .next (if early ≠ [] ∨ plain = true then early.foldl State.resultsOf ((s.atCycle 1800).completePlain)
      else if due = [] then s else due.foldl State.resultsOf (s.atCycle 3420)) := by
  unfold execProofResult
  rw [if_neg (by simp [h, hr])]
  dsimp only
  rw [← hd, ← he]
  generalize hq : s.sched.batches.any _ = q
  have hpq : plain = q := hp.trans hq
  rw [← hpq]
  by_cases h1 : early ≠ [] ∨ plain = true
  · rw [if_pos (by simpa using h1), if_pos h1]
  · rw [if_neg (by simpa using h1), if_neg h1]
    cases due with
    | nil => rfl
    | cons x r => rfl

structure Hd (s t : State) : Prop where
  nx : t.sched.next = s.sched.next
  cu : t.sched.current = s.sched.current
  op : t.sched.op = s.sched.op
  ac : t.sched.active = s.sched.active
  ru : t.sched.running = s.sched.running
  cy : t.sched.cycle = s.sched.cycle

theorem Hd.refl (s : State) : Hd s s := ⟨rfl, rfl, rfl, rfl, rfl, rfl⟩

theorem Hd.trans {s t u : State} (h : Hd s t) (g : Hd t u) : Hd s u :=
  ⟨g.nx.trans h.nx, g.cu.trans h.cu, g.op.trans h.op, g.ac.trans h.ac, g.ru.trans h.ru, g.cy.trans h.cy⟩

theorem Hd.ite {s t u : State} {c : Prop} [Decidable c] (h : Hd s t) (g : Hd s u) : Hd s (if c then t else u) := by split <;> assumption

theorem Hd.foldl {α : Type} (f : State → α → State) (h : ∀ t x, Hd t (f t x)) (l : List α) (s : State) : Hd s (l.foldl f s) := by
  induction l generalizing s with
  | nil => exact .refl s
  | cons x r ih => exact (h s x).trans (ih _)

theorem Hd.side {s t : State} (h : Side s t) : Hd s t := by obtain ⟨a, b, p, d, e, f, rfl⟩ := h; exact ⟨rfl, rfl, rfl, rfl, rfl, rfl⟩

theorem setQueue_hd (s : State) (d i : Nat) (q : Queue) : Hd s (s.setQueue d i q) := ⟨rfl, rfl, rfl, rfl, rfl, rfl⟩

theorem fetch_hd (s : State) (d i : Nat) : Hd s (s.fetch d i) := by
  unfold State.fetch
  refine .ite (.refl s) (.ite (.refl s) ?_)
  exact ⟨rfl, rfl, rfl, rfl, rfl, rfl⟩

theorem refuse_hd (s : State) (d i st : Nat) (l : Bool) : Hd s (s.refuse d i st l) := by
  unfold State.refuse
  extract_lets q
  split
  · exact .refl s
  · refine .ite (.refl s) ?_
    refine Hd.trans ?_ (fetch_hd ..)
    refine Hd.trans ?_ (.side (State.mirrorRequestOf_side ..))
    unfold State.complete
    exact .ite ⟨rfl, rfl, rfl, rfl, rfl, rfl⟩ ⟨rfl, rfl, rfl, rfl, rfl, rfl⟩

theorem checkHead_hd (s : State) (d i : Nat) : Hd s (s.checkHead d i) := by
  unfold State.checkHead
  extract_lets q
  repeat' (first | exact .refl s | exact setQueue_hd .. | exact refuse_hd .. | refine Hd.ite ?_ ?_ | split)

theorem recheck_hd (s : State) : Hd s s.recheckHeads := Hd.foldl _ (fun t x => .ite (checkHead_hd ..) (.refl t)) _ _

theorem latchOcc_spec (s : State) (e st cy : Nat) :
    (s.latchOcc e st cy).sched.active = s.sched.active ∧ (s.latchOcc e st cy).sched.current = s.sched.current ∧
    (s.latchOcc e st cy).sched.next =
      some { bank := s.sched.active, entry := e, word := s.slotEntry s.sched.active e, start := st, cycle := cy } := by
  unfold State.latchOcc
  extract_lets o src s1
  have h : Hd s1 (when (!o.hold) (fun t => t.armSlot o.plate st) s1) := by
    unfold when
    exact .ite ⟨rfl, rfl, rfl, rfl, rfl, rfl⟩ (.refl s1)
  have g := h.trans (recheck_hd _)
  exact ⟨g.ac, g.cu, g.nx⟩

theorem finishOp_spec (s : State) (st time : Nat) : (s.finishOp st time).sched = { s.sched with op := none } := by
  unfold State.finishOp
  split
  · rename_i h
    rw [← h]
  · exact (side_keeps (State.answerAt_side ..)).2.2.2.2

theorem setDomain_domain (s : State) (d e : Nat) (x : Domain) : (s.setDomain d x).domain e = if d = e then x else s.domain e := by
  unfold State.domain State.setDomain
  dsimp only [rd]
  rw [find?_wr]
  split <;> rfl

theorem refill_fold (f : State → Nat → State) (g : Domain → Domain)
    (hf : ∀ t d, ((f t d).domain d = g (t.domain d)) ∧ (∀ e, e ≠ d → (f t d).domain e = t.domain e) ∧ (f t d).clk = t.clk) :
    ∀ (l : List Nat) (s : State), l.Nodup → (l.foldl f s).clk = s.clk ∧
      ∀ e, (l.foldl f s).domain e = if e ∈ l then g (s.domain e) else s.domain e := by
  intro l
  induction l with
  | nil => intro s _; exact ⟨rfl, fun e => by simp⟩
  | cons d r ih =>
    intro s hn
    rw [List.nodup_cons] at hn
    obtain ⟨h1, h2⟩ := ih (f s d) hn.2
    obtain ⟨g1, g2, g3⟩ := hf s d
    refine ⟨h1.trans g3, fun e => ?_⟩
    rw [List.foldl_cons, h2]
    by_cases he : e = d
    · subst he
      rw [if_neg hn.1, g1]; simp
    · rw [g2 e he]
      simp [he]

theorem sched_eta (s : State) (n c : Option Occ) (o : Option SlotOp) (hn : s.sched.next = n) (hc : s.sched.current = c) (ho : s.sched.op = o) :
    s = { s with sched := { s.sched with next := n, current := c, op := o } } := by
  subst hn hc ho; rfl

theorem latch_run (s : State) (c : Occ) (hr : s.sched.running = true) (hs : c.stop ≤ s.clk.frame + 1) (o : Option SlotOp) (entry start cycle : Nat)
    (h1 : start = max c.stop (s.clk.frame + 1)) (h3 : entry = (if c.last || decide (c.entry = 511) then 0 else c.entry + 1))
    (h4 : cycle = (if c.last || decide (c.entry = 511) then (c.cycle + 1) % 2 ^ 32 else c.cycle)) (u : State)
    (hu : u = { s with sched := { s.sched with next := none, current := some c, op := o } }) :
    (o = none → u.latchDue = u.latchOcc entry start cycle) ∧
    (∀ p, o = some p → p.op = 0 → p.latched = false → (c.last || decide (c.entry = 511)) = true → p.accepted < s.clk.frame → p.at_ ≤ start →
      u.latchDue = ({ u with sched := { u.sched with op := some { p with latched := true, fire := start, old := u.sched.active }, active := !u.sched.active } } : State).latchOcc entry start cycle) ∧
    (∀ p, o = some p → p.op = 2 → p.accepted < s.clk.frame →
      u.latchDue = ({ u with sched := { u.sched with op := some { p with latched := true, fire := start } } } : State).recheckHeads) := by
  subst hu
  have hg : ¬ ((!s.sched.running || decide (s.clk.frame + 1 < c.stop)) = true) := by rw [hr]; simp; omega
  refine ⟨fun h => ?_, fun p h h5 h6 h7 h8 h9 => ?_, fun p h h5 h6 => ?_⟩
  · subst h
    unfold State.latchDue
    dsimp only [Option.isSome]
    rw [if_neg (by decide), if_neg hg, ← h1, ← h3, ← h4]
  · subst h
    unfold State.latchDue
    dsimp only [Option.isSome]
    rw [if_neg (by decide), if_neg hg, ← h1, ← h3, ← h4, if_neg (by omega), if_pos ⟨h5, by rw [h6]; decide, h7, h8, h9⟩]
  · subst h
    unfold State.latchDue
    dsimp only [Option.isSome]
    rw [if_neg (by decide), if_neg hg, ← h1, if_pos ⟨h5, h6⟩]

theorem latch_start (s u : State) (p : SlotOp) (hu : u = { s with sched := { s.sched with next := none, current := none, op := some p } })
    (h4 : p.op = 1) (h5 : p.latched = false) (h6 : p.at_ ≤ s.clk.frame + 1) (h7 : p.accepted < s.clk.frame) :
    u.latchDue = ({ u with sched := { u.sched with op := some { p with latched := true, fire := max p.at_ (s.clk.frame + 1), old := u.sched.active }, active := p.bank } } : State).latchOcc
      0 (max p.at_ (s.clk.frame + 1)) 0 := by
  subst hu
  unfold State.latchDue
  dsimp only [Option.isSome]
  rw [if_neg (by decide), if_pos ⟨h4, by rw [h5]; decide, h6, h7⟩]

theorem latch_idle (s u : State) (c : Occ) (o : Option SlotOp) (hu : u = { s with sched := { s.sched with next := none, current := some c, op := o } })
    (h : s.sched.running = false ∨ s.clk.frame + 1 < c.stop) : u.latchDue = u := by
  subst hu
  have hk : (!s.sched.running || decide (s.clk.frame + 1 < c.stop)) = true := by
    rcases h with h | h
    · rw [h]; rfl
    · simp [h]
  unfold State.latchDue
  dsimp only [Option.isSome]
  rw [if_neg (by decide)]
  cases o <;> dsimp only <;> rw [if_pos hk]

end Sys2Proof.Machine
end

