-- ==== Sys2Proof/Machine/Contacts.lean ====
section
/-! DEFINITION. The contacts of the fabric field (R48, R583, R584): their names, their places, the lines that the drive lease switches. -/

namespace Sys2Proof.Machine

/-- The groups of R584, with the number of a contact or of its group. -/
inductive Contact where
  | de (n : Nat)
  | dt (n : Nat)
  | sn (n : Nat)
  | pdb (g : Nat)
  | eortn (b : Nat)
  | htrrtn (g : Nat)
  | sngrd (p : Nat)
  | fgnd
  deriving DecidableEq, Repr

/-- The contact of a drive index and of a sense index (R48). -/
def driveContact (i : Nat) : Contact := if i < 4608 then .de i else .dt (i - 4608)

def senseContact (x : Nat) : Contact := .sn x

/-- Rows 0 to 35: two EO banks of 66 contacts between columns of ground. -/
def eoContact (x y : Nat) : Contact :=
  if x < 2 ∨ 134 ≤ x then .fgnd
  else
    let b := 2 * y + (x - 2) / 66
    let o := (x - 2) % 66
    if o = 0 ∨ o = 65 then .eortn b else .de (64 * b + o - 1)

/-- Rows 36 to 79: two thermal banks of 68 contacts; g counts the thermal banks. -/
def thermalContact (x y : Nat) : Contact :=
  let g := 2 * (y - 36) + x / 68
  let o := x % 68
  if o < 2 ∨ 66 ≤ o then .htrrtn g else .dt (64 * g + o - 2)

/-- Rows 80 to 123: four sense groups of 34 contacts. -/
def sensePad (x y : Nat) : Contact :=
  let p := 4 * (y - 80) + x / 34
  let o := x % 34
  if o = 0 then .sngrd p else if o = 17 then .pdb p else if o < 17 then .sn (32 * p + o - 1) else .sn (32 * p + o - 2)

/-- The contact at column x and row y of the 136 × 128 field (R583). -/
def contactAt (x y : Nat) : Option Contact :=
  if 136 ≤ x ∨ 128 ≤ y then none
  else some (if y < 36 then eoContact x y else if y < 80 then thermalContact x y else if y < 124 then sensePad x y else .fgnd)

/-- The contacts that the isolation switches open (R94, R584); the others stand at GND in every mode. -/
def Contact.switched : Contact → Bool
  | .de _ | .dt _ | .sn _ | .pdb _ => true
  | .eortn _ | .htrrtn _ | .sngrd _ | .fgnd => false

/-- The photodiode bias group of a sense contact (R584). -/
def pdbOf (x : Nat) : Contact := .pdb (x / 32)

end Sys2Proof.Machine
end

