-- ==== Sys2Proof/Tests/Slice0.lean ====
section
/-! SUPPORT. Tests: commands that name no unit of the module, results that the manual works out, and for every statement with hypotheses
states and operands that meet them, one for each of its clauses. -/

set_option Elab.async false

namespace Sys2Proof.Tests

open Sys2Proof Sys2Proof.Machine

/-! ## Small states and commands -/

/-- A module in Standby with its mailbox open, its clock locked and its fuses blank. -/
def base : State :=
  { State.reset with
    clk := { Clk.init with rstN := true, lpll := true, frame := 10, cycle := 0, tickTime := 20000 }
    ft := { FabTime.init with t := 20000 * 2 ^ 48 }
    sys := { Sys.init with mode := .standby, mailboxOpen := true, standbySeen := true, fuses := 0, fusesInForce := 0 }
    host := { HostIf.init with linkUp := true } }

/-- The module of `base` with a lease, in a mode. -/
def leased (m : Mode) : State :=
  { base with pair := { base.pair with held := true, solo := true, epoch := 1 }, sys := { base.sys with mode := m } }

/-- The module of `base` in a mode. -/
def inMode (m : Mode) : State := { base with sys := { base.sys with mode := m } }

/-- A payload: values at byte offsets. -/
def bytes (l : List (Nat × Nat)) : BitVec 320 := BitVec.ofNat 320 (l.foldl (fun a e => a + e.2 * 2 ^ (8 * e.1)) 0)

/-- A mailbox command of the PF: LENGTH, BUF_LENGTH, payload. -/
def cmd (len buf : Nat) (l : List (Nat × Nat)) : MbCmd :=
  { src := .fn 0, length := BitVec.ofNat 8 len, notify := false, token := 7, bufAddr := 0x1000, bufLength := BitVec.ofNat 25 buf,
    payload := bytes l }

/-- `State.Admits` as a Bool. -/
def admitsB (s : State) (m : MbCmd) (remote : Bool) (modes : List Mode) (interval legacy : Bool) : Bool :=
  s.reached m.src && s.mayTake m.src && !s.sys.bootFailed && (!srcRemote m.src || (remote && decide (m.buf = 0))) &&
    s.modeOk m.src modes interval legacy

theorem admits {s : State} {m : MbCmd} {remote : Bool} {modes : List Mode} {interval legacy : Bool}
    (h : admitsB s m remote modes interval legacy = true) : s.Admits m remote modes interval legacy := by
  simp only [admitsB, Bool.and_eq_true, Bool.not_eq_true', Bool.or_eq_true, decide_eq_true_eq] at h
  obtain ⟨⟨⟨⟨a, b⟩, c⟩, d⟩, e⟩ := h
  refine ⟨⟨a, b, c⟩, fun r => ?_, e⟩
  rcases d with d | d
  · rw [d] at r; cases r
  · exact d

theorem takes {s : State} {m : MbCmd} (h : (s.reached m.src && s.mayTake m.src && !s.sys.bootFailed) = true) : s.Takes m := by
  simp only [Bool.and_eq_true, Bool.not_eq_true'] at h
  exact ⟨h.1.1, h.1.2, h.2⟩

/-- A descriptor is in force, and the module may ask for a lease. -/
def described (s : State) : State :=
  { s with desc := { s.desc with loaded := true, bytes := [0] }, pair := { s.pair with enable := true } }

/-- The Boot ROM found no image. -/
def unbooted : State := { base with sys := { base.sys with mode := .boot, bootFailed := true } }

/-- A paired holder whose partner is ready and armed. -/
def holder : State :=
  { described (leased .active) with
    pair := { (described (leased .active)).pair with solo := false }
    mirror := { Mirror.init with lane0 := true, status := some ⟨true, true, true, true, false, 0, 0⟩ } }

/-- A paired module in Standby without a lease. -/
def partner : State := { described base with mirror := { Mirror.init with lane0 := true } }

/-- A control block at a flash address: ACTIVATION 1, IMAGE_LENGTH 513, and its CHECK (R442). -/
def control (a : Nat) : Mem :=
  Mem.store flashDefault [] a (bytesLE 4 1 ++ bytesLE 4 513 ++ bytesLE 4 (crc32 (bytesLE 4 1 ++ bytesLE 4 513)))

/-- The PF's registers changed. -/
def pf (f : Fn → Fn) : State := base.setFn 0 (f (base.fn 0))

/-- The VFs enabled. -/
def vfs : State := { base with host := { base.host with vfEnable := true } }


/-! ## Witnesses: mailbox commands -/

theorem witness_ModuleCommandsComplete_reads :
    (base.Admits (cmd 0 0 []) true anyMode true true ∧ (cmd 0 0 []).length.toNat = 0 ∧ (cmd 0 0 []).buf = 0) ∧
    (base.Admits (cmd 0 64 []) true anyMode true true ∧ (cmd 0 64 []).buf = 64 ∧ base.faults.report ≠ []) ∧
    (base.Admits (cmd 4 16576 [(0, 1)]) false [.standby, .service, .isolated] true false ∧ (cmd 4 16576 []).buf = 16576 ∧
      base.desc.reading = false) ∧
    (base.Admits (cmd 0 16576 []) false anyMode true true ∧ base.desc.loaded = false) ∧
    ((described base).Admits (cmd 0 16576 []) false anyMode true true ∧ (described base).desc.loaded = true ∧ (described base).desc.bytes ≠ []) :=
  ⟨⟨admits (by decide +kernel), by decide +kernel⟩, ⟨admits (by decide +kernel), by decide +kernel⟩, ⟨admits (by decide +kernel), by decide +kernel⟩, ⟨admits (by decide +kernel), by decide +kernel⟩,
    ⟨admits (by decide +kernel), by decide +kernel⟩⟩

/-- SET_MODE to the mode in force, to a mode that needs a lease without one, and to Service. -/
theorem witness_ModuleCommandsComplete_setMode :
    (base.Admits (cmd 8 0 [(0, 3)]) true anyMode false true ∧ (cmd 8 0 [(0, 3)]).length.toNat = 8 ∧ Mode.ofNum ((cmd 8 0 [(0, 3)]).f 0 1) = some .standby ∧
      base.sys.modePending = none ∧ base.pair.swap = none ∧ tb ((cmd 8 0 [(0, 3)]).f 1 1) 0 = false) ∧
    ((described base).Admits (cmd 8 0 [(0, 4)]) true anyMode false true ∧ Mode.ofNum ((cmd 8 0 [(0, 4)]).f 0 1) = some .active ∧
      (described base).mayName .active = true ∧ (described base).modeCondition .active false = stOk ∧ Mode.active.named = true ∧
      base.pair.held = false ∧ base.pair.solo = false) ∧
    (base.Admits (cmd 8 0 [(0, 8)]) true anyMode false true ∧ Mode.ofNum ((cmd 8 0 [(0, 8)]).f 0 1) = some .service ∧
      base.mayName .service = true ∧ base.modeCondition .service false = stOk ∧ Mode.service.named = false ∧ base.sys.mode ≠ .service) :=
  ⟨⟨admits (by decide +kernel), by decide +kernel⟩, ⟨admits (by decide +kernel), by decide +kernel⟩, ⟨admits (by decide +kernel), by decide +kernel⟩⟩

theorem witness_PlateCommandsComplete_plates :
    (base.Admits (cmd 8 4096 [(0, 479)]) false anyNoRf false true ∧ (cmd 8 4096 [(0, 479)]).length.toNat = 8 ∧ (cmd 8 4096 [(0, 479)]).f 0 2 < 480 ∧
      1 ≤ (cmd 8 4096 [(0, 479)]).buf ∧ (cmd 8 4096 [(0, 479)]).f 2 2 + (cmd 8 4096 [(0, 479)]).buf ≤ 4096 ∧ base.inWindow 0 479 = true) ∧
    (base.Admits (cmd 8 1 [(0, 511), (2, 4095)]) false anyNoRf false true ∧ (cmd 8 1 [(0, 511), (2, 4095)]).f 0 2 = 511 ∧
      (cmd 8 1 [(0, 511), (2, 4095)]).f 2 2 + (cmd 8 1 [(0, 511), (2, 4095)]).buf = 4096 ∧ (cmd 8 1 [(0, 511), (2, 4095)]).dom = 0 ∧
      base.legacyGeo = false) :=
  ⟨⟨admits (by decide +kernel), by decide +kernel⟩, ⟨admits (by decide +kernel), by decide +kernel⟩⟩

theorem witness_PlateCommandsComplete_routes :
    ((described base).Admits (cmd 4 0 [(0, 0), (2, 0xFFFF)]) false anyNoRf false true ∧ (cmd 4 0 [(0, 0), (2, 0xFFFF)]).f 2 2 = 0xFFFF ∧
      (cmd 4 0 [(0, 0), (2, 0xFFFF)]).length.toNat = 4 ∧ (cmd 4 0 [(0, 0), (2, 0xFFFF)]).buf = 0 ∧ base.inWindow 0 0 = true ∧
      (described base).desc.loaded = true ∧ base.burin.queue.length + bit base.burin.running.isSome < 9) ∧
    ((described base).Admits (cmd 40 0 [(0, 0), (2, 0xFFFE), (4, 4)]) false anyNoRf false false ∧
      (cmd 40 0 [(0, 0), (2, 0xFFFE), (4, 4)]).f 4 2 = 4 ∧ (cmd 40 0 [(0, 0), (2, 0xFFFE), (4, 4)]).length.toNat = 8 + 8 * 4 ∧
      actionsOk (inlineChanges (cmd 40 0 [(0, 0), (2, 0xFFFE), (4, 4)]) 4) = true ∧
      portsOk (inlineChanges (cmd 40 0 [(0, 0), (2, 0xFFFE), (4, 4)]) 4) = true ∧
      (described base).changesMask 0 (inlineChanges (cmd 40 0 [(0, 0), (2, 0xFFFE), (4, 4)]) 4) = true) ∧
    ((described base).Admits (cmd 8 4096 [(0, 1), (2, 511), (4, 512)]) false anyNoRf false false ∧ (described base).inWindow 0 1 = true ∧
      (cmd 8 4096 [(0, 1), (2, 0xFFFE), (4, 512)]).buf = 8 * 512 ∧ (cmd 8 4096 [(0, 1), (2, 0xFFFE), (4, 512)]).f 4 2 = 512) :=
  ⟨⟨admits (by decide +kernel), by decide +kernel⟩, ⟨admits (by decide +kernel), by decide +kernel⟩, ⟨admits (by decide +kernel), by decide +kernel⟩⟩

/-- IMPRESS as soon as possible, at a time two ticks ahead with STRICT, and at the next edge of SYNC_IN. -/
theorem witness_PlateCommandsComplete_impress :
    ((leased .active).Admits (cmd 16 0 []) true [.standby, .active, .legacy] false true ∧ (leased .active).inWindow 0 0 = true ∧
      (leased .active).pair.held = true ∧ (leased .active).sharedTaken < 4 ∧ (cmd 16 0 []).f 2 1 = 0) ∧
    ((leased .active).Admits (cmd 16 0 [(2, 1), (3, 1), (8, 24000)]) true [.standby, .active, .legacy] false true ∧
      (cmd 16 0 [(2, 1), (3, 1), (8, 24000)]).f 2 1 = 1 ∧ tb ((cmd 16 0 [(2, 1), (3, 1), (8, 24000)]).f 3 1) 0 = true ∧
      (leased .active).clk.frame + 2 = ceilDiv ((cmd 16 0 [(2, 1), (3, 1), (8, 24000)]).f 8 8) 2000) ∧
    ((leased .active).Admits (cmd 16 0 [(2, 2)]) true [.standby, .active, .legacy] false true ∧ (cmd 16 0 [(2, 2)]).f 2 1 = 2 ∧
      (leased .active).imp.armed.all (fun a => a.trigger != .onSync) = true) :=
  ⟨⟨admits (by decide +kernel), by decide +kernel⟩, ⟨admits (by decide +kernel), by decide +kernel⟩, ⟨admits (by decide +kernel), by decide +kernel⟩⟩

/-- A proof record of impression 5. -/
def proved : State :=
  { base with imp := { base.imp with
    records := [⟨5, 1, 0, 9, 0, 0, 0, 0, 0, 0, 0, 0, 0, 0, [], 0, 0xFFFFFFFF, [], none, false, true⟩] } }

theorem witness_PlateCommandsComplete_proofRead :
    (base.Admits (cmd 4 576 []) false anyNoRf false true ∧ (cmd 4 576 []).buf = 576 ∧ base.proofRec ((cmd 4 576 []).f 0 4) = none) ∧
    (proved.Admits (cmd 4 576 [(0, 5)]) false anyNoRf false true ∧ (proved.proofRec ((cmd 4 576 [(0, 5)]).f 0 4)).isSome = true ∧
      ∀ r, proved.proofRec 5 = some r → (r.bytes (fun i => (cmd 4 576 []).pf || proved.inMask 0 i)).length = 576) := by
  refine ⟨⟨admits (by decide +kernel), by decide +kernel⟩, ⟨admits (by decide +kernel), by decide +kernel, ?_⟩⟩
  intro r h
  cases h
  decide +kernel

/-- The slot table runs entry 0 of bank A. -/
def running : State :=
  { base with sched := { base.sched with running := true, current := some ⟨false, 0, 2, 8, 0⟩ } }

theorem witness_ScheduleCommandsComplete_slots :
    (base.Admits (cmd 8 4096 [(0, 1), (4, 512)]) false anyNoRf false true ∧ (cmd 8 4096 [(0, 1), (4, 512)]).f 0 1 = 1 ∧
      (cmd 8 4096 [(0, 1), (4, 512)]).buf = 8 * 512 ∧ decide ((cmd 8 4096 [(0, 1), (4, 512)]).f 0 1 = 1) ≠ base.sched.active) ∧
    (base.Admits (cmd 32 0 [(1, 1), (2, 509), (4, 3)]) false anyNoRf false true ∧ (cmd 32 0 [(1, 1), (2, 509), (4, 3)]).length.toNat = 8 + 8 * 3 ∧
      (cmd 32 0 [(1, 1), (2, 509), (4, 3)]).f 2 2 + 3 = 512 ∧ tb ((cmd 32 0 [(1, 1), (2, 509), (4, 3)]).f 1 1) 0 = true) ∧
    (base.Admits (cmd 8 0 []) true anyNoRf false true ∧ (cmd 8 0 []).length.toNat = 8 ∧ base.atTick = []) :=
  ⟨⟨admits (by decide +kernel), by decide +kernel⟩, ⟨admits (by decide +kernel), by decide +kernel⟩, ⟨admits (by decide +kernel), by decide +kernel⟩⟩

/-- A start, a stop of a table that runs, a stop of one that does not, and a swap at a time, of both. -/
theorem witness_ScheduleCommandsComplete_swap :
    (base.Admits (cmd 16 0 [(0, 1), (1, 1), (2, 1), (8, 24000)]) true anyNoRf false true ∧ base.sched.op = none ∧ base.sched.running = false ∧
      base.sched.next = none ∧ base.clk.frame + 2 = ceilDiv ((cmd 16 0 [(0, 1), (1, 1), (2, 1), (8, 24000)]).f 8 8) 2000) ∧
    (running.Admits (cmd 16 0 [(0, 2)]) true anyNoRf false true ∧ running.sched.op = none ∧ running.sched.running = true) ∧
    (base.Admits (cmd 16 0 [(0, 2)]) true anyNoRf false true ∧ (cmd 16 0 [(0, 2)]).f 0 1 = 2 ∧ base.sched.next = none) ∧
    (base.Admits (cmd 16 0 [(1, 1), (8, 20001)]) true anyNoRf false true ∧ base.clk.frame + 1 = ceilDiv ((cmd 16 0 [(1, 1), (8, 20001)]).f 8 8) 2000) ∧
    (running.Admits (cmd 16 0 [(1, 1)]) true anyNoRf false true ∧ tb ((cmd 16 0 [(1, 1)]).f 1 1) 0 = true ∧ running.sched.boundary = none) :=
  ⟨⟨admits (by decide +kernel), by decide +kernel⟩, ⟨admits (by decide +kernel), by decide +kernel⟩, ⟨admits (by decide +kernel), by decide +kernel⟩, ⟨admits (by decide +kernel), by decide +kernel⟩,
    ⟨admits (by decide +kernel), by decide +kernel⟩⟩

/-- OP 0 to 3 of DOMAIN_CONFIG at the last domain and with the largest window. -/
theorem witness_ScheduleCommandsComplete_domains :
    (base.Admits (cmd 24 0 [(0, 127), (0x12, 480)]) false anyNoRf false false ∧ (cmd 24 0 [(0, 127), (0x12, 480)]).f 0 1 = 127 ∧
      (cmd 24 0 [(0, 127), (0x12, 480)]).f 0x10 2 + (cmd 24 0 [(0, 127), (0x12, 480)]).f 0x12 2 = 480) ∧
    (base.Admits (cmd 24 0 [(1, 1), (0x10, 16)]) false anyNoRf false false ∧ (cmd 24 0 [(1, 1), (0x10, 16)]).f 1 1 = 1 ∧
      (base.domain 0).cReserved = 0 ∧ (base.domain 0).cHead = (base.domain 0).cWrite) ∧
    (base.Admits (cmd 24 0 [(0, 127), (1, 2)]) false anyNoRf false false ∧ (cmd 24 0 [(0, 127), (1, 2)]).f 1 1 = 2) ∧
    (base.Admits (cmd 24 0 [(1, 3)]) false anyNoRf false false ∧ (cmd 24 0 [(1, 3)]).f 0 1 = (cmd 24 0 [(1, 3)]).dom) :=
  ⟨⟨admits (by decide +kernel), by decide +kernel⟩, ⟨admits (by decide +kernel), by decide +kernel⟩, ⟨admits (by decide +kernel), by decide +kernel⟩, ⟨admits (by decide +kernel), by decide +kernel⟩⟩

theorem witness_ScheduleCommandsComplete_queues :
    (base.Admits (cmd 16 0 [(0, 511), (2, 1)]) false anyNoRf false true ∧ (cmd 16 0 [(0, 511), (2, 1)]).f 0 2 = 511 ∧ base.inMask 0 511 = true ∧
      (cmd 16 0 [(0, 511), (2, 1)]).f 2 1 = 1) ∧
    (base.Admits (cmd 16 0 [(0, 511)]) false anyNoRf false true ∧ (base.queue 0 511).on = false) ∧
    (base.Admits (cmd 8 0 [(0, 511)]) false anyNoRf false true ∧ (cmd 8 0 [(0, 511)]).length.toNat = 8 ∧ base.inMask 0 511 = true) :=
  ⟨⟨admits (by decide +kernel), by decide +kernel⟩, ⟨admits (by decide +kernel), by decide +kernel⟩, ⟨admits (by decide +kernel), by decide +kernel⟩⟩

/-- QUEUE_RESET of the last queue of the PF. -/
theorem witness_QueueResetActs :
    base.Admits (cmd 8 0 [(0, 511)]) false anyNoRf false true ∧ (cmd 8 0 [(0, 511)]).length.toNat = 8 ∧ (cmd 8 0 [(0, 511)]).buf = 0 ∧
      511 = (cmd 8 0 [(0, 511)]).f 0 2 ∧ base.inMask 0 511 = true :=
  ⟨admits (by decide +kernel), by decide +kernel⟩

/-- A failed capture stands nowhere; LOOP_CONFIG of the last range, with item 7 at its last byte. -/
theorem witness_ChannelCommandsComplete_loops :
    (base.Admits (cmd 16 0 [(0, 0), (2, 10240), (4, 7), (5, 4), (6, 60)]) false anyNoRf false true ∧
      (cmd 16 0 [(0, 0), (2, 10240), (4, 7), (5, 4), (6, 60)]).f 4 1 = 7 ∧ (cmd 16 0 [(0, 0), (2, 10240), (4, 7), (5, 4), (6, 60)]).f 2 2 = 10240 ∧
      (cmd 16 0 [(0, 0), (2, 10240), (4, 7), (5, 4), (6, 60)]).f 6 1 + (cmd 16 0 [(0, 0), (2, 10240), (4, 7), (5, 4), (6, 60)]).f 5 1 = 64) ∧
    (base.Admits (cmd 16 0 [(0, 10239), (2, 1), (4, 1)]) false anyNoRf false true ∧ (cmd 16 0 [(0, 10239), (2, 1), (4, 1)]).f 4 1 = 1 ∧
      (cmd 16 0 [(0, 10239), (2, 1), (4, 1)]).f 0 2 + 1 = 10240) ∧
    (base.Admits (cmd 4 655360 [(2, 10240)]) false anyNoRf false true ∧ (cmd 4 655360 [(2, 10240)]).buf = 64 * 10240) ∧
    (base.Admits (cmd 4 180224 [(2, 5632)]) false anyNoRf false true ∧ (cmd 4 180224 [(2, 5632)]).buf = 32 * 5632) :=
  ⟨⟨admits (by decide +kernel), by decide +kernel⟩, ⟨admits (by decide +kernel), by decide +kernel⟩,
    ⟨admits (by decide +kernel), by decide +kernel⟩, ⟨admits (by decide +kernel), by decide +kernel⟩⟩

theorem witness_ChannelCommandsComplete_tones :
    (base.Admits (cmd 12 0 [(4, 1)]) false anyNoRf false true ∧ tb ((cmd 12 0 [(4, 1)]).f 4 1) 0 = true) ∧
    (base.Admits (cmd 12 0 [(0, 4608), (2, 5632), (4, 2)]) false anyNoRf false true ∧ tb ((cmd 12 0 [(0, 4608), (2, 5632), (4, 2)]).f 4 1) 1 = true ∧
      (cmd 12 0 [(0, 4608), (2, 5632), (4, 2)]).f 0 2 + (cmd 12 0 [(0, 4608), (2, 5632), (4, 2)]).f 2 2 = 10240) ∧
    (base.Admits (cmd 12 4 [(0, 10239), (2, 1)]) false anyNoRf false true ∧ tb ((cmd 12 4 [(0, 10239), (2, 1)]).f 4 1) 1 = false ∧
      (cmd 12 4 [(0, 10239), (2, 1)]).buf = 4 * 1) :=
  ⟨⟨admits (by decide +kernel), by decide +kernel⟩, ⟨admits (by decide +kernel), by decide +kernel⟩,
    ⟨admits (by decide +kernel), by decide +kernel⟩⟩

/-- CHANNEL_READ of the last drive and sense channel, and of a capture in Service. -/
theorem witness_ChannelCommandsComplete_reads :
    (base.Admits (cmd 8 0 [(2, 10239)]) false anyNoRf false true ∧ (cmd 8 0 [(2, 10239)]).f 0 1 = 0 ∧ (cmd 8 0 [(2, 10239)]).f 2 2 < 10240) ∧
    (base.Admits (cmd 8 0 [(0, 1), (2, 5631)]) false anyNoRf false true ∧ (cmd 8 0 [(0, 1), (2, 5631)]).f 2 2 < 5632) ∧
    ((inMode .service).Admits (cmd 8 65536 [(0, 2), (2, 5631)]) false [.characterize, .service, .standby, .isolated] false true ∧
      (cmd 8 65536 [(0, 2), (2, 5631)]).buf = 65536 ∧ (inMode .service).sense.capture = none ∧ (inMode .service).atTick = [] ∧
      (inMode .service).mayCapture 5631 = true) :=
  ⟨⟨admits (by decide +kernel), by decide +kernel⟩, ⟨admits (by decide +kernel), by decide +kernel⟩,
    ⟨admits (by decide +kernel), by decide +kernel⟩⟩

/-- The last drive channel, cell and restorable unit. -/
theorem witness_ChannelCommandsComplete_retire :
    ((inMode .service).Admits (cmd 8 0 [(0, 10239), (2, 65535)]) false [.service] false false ∧ (inMode .service).retired 1 10239 = false) ∧
    ((inMode .service).Admits (cmd 4 0 [(0, 2), (2, 4607)]) true [.service] false false ∧ 4607 < kindCount 2 ∧
      (inMode .service).retired 3 4607 = false) ∧
    ((inMode .service).Admits (cmd 4 0 [(0, 2), (2, 4607)]) true [.service] false false ∧ (inMode .service).desc.loaded = false) ∧
    ((inMode .service).Admits (cmd 4 0 [(0, 4), (2, 17)]) true [.service] false false ∧ (cmd 4 0 [(0, 4), (2, 17)]).f 2 2 < kindCount 4) :=
  ⟨⟨admits (by decide +kernel), by decide +kernel⟩, ⟨admits (by decide +kernel), by decide +kernel⟩,
    ⟨admits (by decide +kernel), by decide +kernel⟩, ⟨admits (by decide +kernel), by decide +kernel⟩⟩

theorem witness_CalibrationAndTimeCommandsComplete_cal :
    ((inMode .standby).Admits (cmd 8 0 [(0, 0x207)]) true (calModes 0x207) false false ∧ isScope 0x207 = true ∧ (inMode .standby).calBusy 0x207 = false) ∧
    ((leased .characterize).Admits (cmd 8 0 [(0, 0x300), (3, 1)]) true [.characterize] false false ∧ (leased .characterize).calBusy 0x300 = false ∧
      (leased .characterize).pair.held = true) ∧
    ((inMode .standby).Admits (cmd 8 0 [(0, 0x400)]) true (calModes 0x400) false false ∧ converterScopes.any (inMode .standby).calBusy = false) ∧
    (base.Admits (cmd 4 0 [(0, 0x19F)]) true anyMode true true ∧ isScope 0x19F = true ∧ (cmd 4 0 [(0, 0x19F)]).f 0 2 = 0x19F) ∧
    (base.Admits (cmd 4 9792 [(0, 0x300)]) true anyMode true true ∧ (cmd 4 9792 [(0, 0x300)]).buf = 9792) ∧
    (base.Admits (cmd 8 0 []) true anyMode true false ∧ base.atTick = [] ∧ tb ((cmd 8 0 []).f 0 1) 0 = false) ∧
    (base.Admits (cmd 8 0 [(0, 3), (4, 32)]) true anyMode true false ∧ tb ((cmd 8 0 [(0, 3), (4, 32)]).f 0 1) 0 = true ∧
      base.sys.mode ≠ .startupCal) :=
  ⟨⟨admits (by decide +kernel), by decide +kernel⟩, ⟨admits (by decide +kernel), by decide +kernel⟩,
    ⟨admits (by decide +kernel), by decide +kernel⟩, ⟨admits (by decide +kernel), by decide +kernel⟩,
    ⟨admits (by decide +kernel), by decide +kernel⟩, ⟨admits (by decide +kernel), by decide +kernel⟩,
    ⟨admits (by decide +kernel), by decide +kernel⟩⟩

/-- A module whose time follows the host. -/
def hosted : State := { base with ft := { base.ft with source := .host } }

/-- TIME_CONFIG reads its last item of settings, writes its first, steps, and takes an offset. -/
theorem witness_CalibrationAndTimeCommandsComplete_time :
    (base.Admits (cmd 16 0 [(0, 13), (1, 1), (2, 1)]) true anyMode false true ∧ tb ((cmd 16 0 [(0, 13), (1, 1), (2, 1)]).f 2 1) 0 = true ∧
      (cmd 16 0 [(0, 13), (1, 1), (2, 1)]).f 1 1 ≤ 1) ∧
    (base.Admits (cmd 16 0 [(0, 1), (8, 3)]) true anyMode false true ∧ (cmd 16 0 [(0, 1), (8, 3)]).f 0 1 = 1) ∧
    (base.Admits (cmd 16 0 [(0, 14), (8, 1)]) true anyMode false true ∧ base.pair.held = false ∧ base.ft.step = none) ∧
    (base.Admits (cmd 16 0 [(0, 15), (8, 2 ^ 64 - 1)]) true anyMode false true ∧ signed 64 ((cmd 16 0 [(0, 15), (8, 2 ^ 64 - 1)]).f 8 8) = -1) ∧
    (hosted.Admits (cmd 16 0 [(0, 16)]) true anyMode false true ∧ hosted.ft.source = .host ∧ (cmd 16 0 [(0, 16)]).f 0 1 = 16) ∧
    (base.Admits (cmd 0 0 []) true anyMode false true ∧ (cmd 0 0 []).buf = 0) ∧
    (base.Admits (cmd 0 128 []) true anyMode false true ∧ (cmd 0 128 []).buf = 128 ∧ (srcRemote (cmd 0 128 []).src = false)) :=
  ⟨⟨admits (by decide +kernel), by decide +kernel⟩, ⟨admits (by decide +kernel), by decide +kernel⟩,
    ⟨admits (by decide +kernel), by decide +kernel⟩, ⟨admits (by decide +kernel), by decide +kernel⟩,
    ⟨admits (by decide +kernel), by decide +kernel⟩, ⟨admits (by decide +kernel), by decide +kernel⟩,
    ⟨admits (by decide +kernel), by decide +kernel⟩⟩

theorem witness_PairCommandsComplete_config :
    (base.Admits (cmd 40 0 [(0, 1), (2, 1)]) true [.standby, .isolated, .service] false false ∧ base.pair.held = false ∧
      tb ((cmd 40 0 [(0, 1), (2, 1)]).f 2 1) 0 = true) ∧
    (holder.Admits (cmd 40 0 [(0, 7), (1, 7)]) true anyNoRf false false ∧ (cmd 40 0 [(0, 7), (1, 7)]).f 1 1 = 7 ∧
      (cmd 40 0 [(0, 7), (1, 7)]).length.toNat = 40 ∧ tb ((cmd 40 0 [(0, 7), (1, 7)]).f 2 1) 0 = false) ∧
    (base.Admits (cmd 40 0 [(0, 1)]) true [.standby, .isolated, .service] false false ∧ tb ((cmd 40 0 [(0, 1)]).f 8 32) 0 = false) ∧
    (base.Admits (cmd 0 0 []) true anyMode false true ∧ (cmd 0 0 []).length.toNat = 0) :=
  ⟨⟨admits (by decide +kernel), by decide +kernel⟩, ⟨admits (by decide +kernel), by decide +kernel⟩,
    ⟨admits (by decide +kernel), by decide +kernel⟩, ⟨admits (by decide +kernel), by decide +kernel⟩⟩

theorem witness_PairCommandsComplete_swap :
    (holder.Admits (cmd 0 0 []) true ([Mode.standby, .active, .hold, .dark, .characterize, .legacy] ++ if holder.pair.held then [.service] else [])
        false true ∧ holder.pair.solo = false ∧ holder.pair.held = true ∧ holder.pair.swap = none ∧ holder.partnerReady = true) ∧
    (partner.Admits (cmd 0 0 []) true ([Mode.standby, .active, .hold, .dark, .characterize, .legacy] ++ if partner.pair.held then [.service] else [])
        false true ∧ partner.pair.solo = false ∧ partner.pair.held = false ∧ partner.pair.swapReq = none) :=
  ⟨⟨admits (by decide +kernel), by decide +kernel⟩, ⟨admits (by decide +kernel), by decide +kernel⟩⟩

theorem witness_PairCommandsComplete_referee :
    ((inMode .referee).Admits (cmd 8 0 []) true [.referee] false false ∧ tb ((cmd 8 0 []).f 0 1) 0 = false) ∧
    ((inMode .referee).Admits (cmd 8 0 [(0, 1), (4, 6250)]) true [.referee] false false ∧ (cmd 8 0 [(0, 1), (4, 6250)]).f 4 4 = 6250 ∧
      tb ((cmd 8 0 [(0, 1), (4, 6250)]).f 0 1) 0 = true) ∧
    ((inMode .referee).Admits (cmd 8 0 [(0, 1), (4, 625000)]) true [.referee] false false ∧ (cmd 8 0 [(0, 1), (4, 625000)]).f 4 4 = 625000) ∧
    ((inMode .referee).Admits (cmd 8 0 [(0, 2), (1, 3)]) true [.referee] false false ∧ tb ((cmd 8 0 [(0, 2), (1, 3)]).f 0 1) 1 = true) :=
  ⟨⟨admits (by decide +kernel), by decide +kernel⟩, ⟨admits (by decide +kernel), by decide +kernel⟩,
    ⟨admits (by decide +kernel), by decide +kernel⟩, ⟨admits (by decide +kernel), by decide +kernel⟩⟩

/-- Slot B holds a control block, and slot A runs. -/
def staged : State := { base with sys := { base.sys with flash := control 0x800000 } }

/-- As `staged`, with the fuse input high in Service. -/
def fusing : State := { staged with sys := { staged.sys with mode := .service } }

/-- The smallest and the largest image; the other slot with its control block, at once and without a running command's level; fuses. -/
theorem witness_FirmwareAndHostCommandsComplete_firmware :
    (base.Admits (cmd 0 513 []) false anyMode false true ∧ (cmd 0 513 []).buf = 513 ∧ base.sys.staging = false) ∧
    (base.Admits (cmd 0 4194816 []) false anyMode false true ∧ (cmd 0 4194816 []).buf = 4194816) ∧
    (staged.Admits (cmd 4 0 [(0, 1)]) true anyMode false true ∧ decide ((cmd 4 0 [(0, 1)]).f 0 1 = 1) ≠ staged.sys.slotB ∧
      staged.slotValid true = true ∧ (cmd 4 0 [(0, 1)]).f 1 1 = 0) ∧
    ({ staged with sys := { staged.sys with configLevel := 65535 } }.Admits (cmd 4 0 [(0, 1), (1, 1)]) true anyMode false true ∧
      staged.slotLevel true = 65535 ∧ staged.sys.activate = none) ∧
    (fusing.Admits (cmd 0 320 []) false [.service] false false ∧ fusing.clk.fuseEn = true ∧ tb fusing.sys.fuses.toNat 2819 = false ∧
      fusing.sys.fuseJob = none ∧ fusing.pair.held = false) :=
  ⟨⟨admits (by decide +kernel), by decide +kernel⟩, ⟨admits (by decide +kernel), by decide +kernel⟩,
    ⟨admits (by decide +kernel), by decide +kernel⟩, ⟨admits (by decide +kernel), by decide +kernel⟩,
    ⟨admits (by decide +kernel), by decide +kernel⟩⟩

theorem witness_FuseReadReturnsArray :
    (base.Admits (cmd 4 0 [(0, 480)]) true anyMode true true ∧ (cmd 4 0 [(0, 480)]).f 0 2 = 480 ∧ (cmd 4 0 [(0, 480)]).f 0 2 % 32 = 0) ∧
    (base.Admits (cmd 4 0 [(0, 31)]) true anyMode true true ∧ (cmd 4 0 [(0, 31)]).f 0 2 % 32 ≠ 0) ∧
    (base.Admits (cmd 4 0 [(0, 512)]) true anyMode true true ∧ 480 < (cmd 4 0 [(0, 512)]).f 0 2) :=
  ⟨⟨admits (by decide +kernel), by decide +kernel⟩, ⟨admits (by decide +kernel), by decide +kernel⟩,
    ⟨admits (by decide +kernel), by decide +kernel⟩⟩

theorem witness_FirmwareAndHostCommandsComplete_events :
    (base.Admits (cmd 24 0 [(4, 9)]) true anyMode false true ∧ (cmd 24 0 [(4, 9)]).f 4 4 = 9 ∧ base.atTick = []) ∧
    (base.Admits (cmd 24 0 [(0, 1), (0x10, 16)]) true anyMode false true ∧ (cmd 24 0 [(0, 1), (0x10, 16)]).f 0 1 = 1) ∧
    (base.Admits (cmd 24 0 [(0, 2), (7, 7)]) true anyMode false true ∧ (cmd 24 0 [(0, 2), (7, 7)]).f 4 4 / 2 ^ 24 = 7) ∧
    (base.Admits (cmd 24 0 [(0, 2), (7, 0xFF)]) true anyMode false true ∧ (cmd 24 0 [(0, 2), (7, 0xFF)]).f 4 4 / 2 ^ 24 = 0xFF) ∧
    (base.Admits (cmd 24 0 [(0, 3)]) true anyMode false true ∧ (cmd 24 0 [(0, 3)]).f 0 1 = 3) ∧
    (base.Admits (cmd 8 131072 [(4, 4096)]) false anyMode false true ∧ (cmd 8 131072 [(4, 4096)]).buf = 32 * 4096) ∧
    (base.Admits (cmd 8 0 [(0, 7)]) false anyMode false false ∧ (cmd 8 0 [(0, 7)]).f 0 1 = 7) :=
  ⟨⟨admits (by decide +kernel), by decide +kernel⟩, ⟨admits (by decide +kernel), by decide +kernel⟩,
    ⟨admits (by decide +kernel), by decide +kernel⟩, ⟨admits (by decide +kernel), by decide +kernel⟩,
    ⟨admits (by decide +kernel), by decide +kernel⟩, ⟨admits (by decide +kernel), by decide +kernel⟩,
    ⟨admits (by decide +kernel), by decide +kernel⟩⟩

theorem witness_FirmwareAndHostCommandsComplete_translation :
    (base.Admits (cmd 32 0 [(0, 127), (2, 1), (4, 262144)]) false anyMode false false ∧ (cmd 32 0 [(0, 127), (2, 1), (4, 262144)]).f 0 1 = 127 ∧
      (cmd 32 0 [(0, 127), (2, 1), (4, 262144)]).f 2 1 ≠ 2) ∧
    (base.Admits (cmd 32 0 [(2, 2)]) false anyMode false false ∧ (cmd 32 0 [(2, 2)]).f 0 1 = 0) ∧
    (base.Admits (cmd 32 0 [(1, 1), (3, 1)]) false anyMode false false ∧ (cmd 32 0 [(1, 1), (3, 1)]).f 1 1 = 1) ∧
    (base.Admits (cmd 32 0 [(0, 127), (1, 2)]) false anyMode false false ∧ (cmd 32 0 [(0, 127), (1, 2)]).f 1 1 = 2) ∧
    (base.Admits (cmd 4 0 [(0, 127), (1, 1)]) false anyMode false false ∧ (cmd 4 0 [(0, 127), (1, 1)]).f 1 1 = 1) :=
  ⟨⟨admits (by decide +kernel), by decide +kernel⟩, ⟨admits (by decide +kernel), by decide +kernel⟩,
    ⟨admits (by decide +kernel), by decide +kernel⟩, ⟨admits (by decide +kernel), by decide +kernel⟩,
    ⟨admits (by decide +kernel), by decide +kernel⟩⟩

/-! ## The machine as a whole, and the mailbox -/

/-- No clock; the last cycle of a frame; the cycle before it. -/
theorem witness_IdleStepIsOneCycle :
    (State.reset.pending = [] ∧ State.reset.runs = false) ∧ ((base.atCycle 6000).pending = [] ∧ (base.atCycle 6000).toTick = 1) ∧
    ((base.atCycle 5999).runs = true ∧ (base.atCycle 5999).toTick = 2) := by
  refine ⟨⟨rfl, rfl⟩, ?_, ?_⟩ <;> decide +kernel

theorem witness_InvKept : step base = .next base.idle ∧ base.drive.closed = false ∧ Mem.wf plateDefault base.burin.store = true := by
  refine ⟨rfl, ?_, ?_⟩ <;> decide +kernel

/-- A step from a state with a programmed fuse. -/
theorem witness_FusesOnlyGrow :
    ∃ t, step { State.reset with sys := { State.reset.sys with fuses := 1 }, pending := [.rstNAssert] } = .next t ∧
      ({ State.reset with sys := { State.reset.sys with fuses := 1 } } : State).sys.fuses.getLsbD 0 = true := ⟨_, rfl, by decide +kernel⟩

/-- RST_N changes the mode. -/
theorem witness_ModeAndFrameChangeOnlyAtTicks : ∃ t, exec .rstNAssert base = .next t ∧ (t.sys.mode ≠ base.sys.mode ∨ t.clk.frame ≠ base.clk.frame) :=
  ⟨_, rfl, .inl (by decide +kernel)⟩

theorem witness_SlotSpellsCommand : (0xFFFF : Nat) < 2 ^ 16 := by decide

/-- The slot of a command in the PF's MB_CMD. -/
def slotted (op : Nat) (m : MbCmd) : State := base.setFn 0 { base.fn 0 with cmd := slotWord op m }

/-- Eight commands of the PF run. -/
def crowded : State :=
  { base with sys := { base.sys with running := List.replicate 8 { src := .fn 0, opcode := 0x0041, token := 1, notify := false } } }

theorem witness_DoorbellRunsSlotCommand :
    ((base.setFn 0 { base.fn 0 with cmdFull := true }).decodes 0 = true ∧ ((base.setFn 0 { base.fn 0 with cmdFull := true }).fn 0).cmdFull = true) ∧
    (crowded.decodes 0 = true ∧ (crowded.fn 0).cmdFull = false ∧ crowded.mayTake (.fn 0) = false) ∧
    ((slotted 0x0001 (cmd 0 0 [])).decodes 0 = true ∧ mailboxOf (.getInfo (cmd 0 0 [])) = some (0x0001, cmd 0 0 []) ∧
      ((slotted 0x0001 (cmd 0 0 [])).fn 0).cmd = slotWord 0x0001 (cmd 0 0 []) ∧ ((slotted 0x0001 (cmd 0 0 [])).fn 0).cmdFull = false ∧
      (slotted 0x0001 (cmd 0 0 [])).mayTake (.fn 0) = true) := by
  refine ⟨?_, ?_, ?_⟩ <;> decide +kernel

/-- A management port that is up, with an address and a client, and what the client was answered. -/
def managed (answered : List (Nat × BitVec 512)) : State :=
  { base with
    ft := { base.ft with port0 := { base.ft.port0 with up := true } }
    pair := { base.pair with addresses := (List.range 12).map (fun k => (k, k + 1)), clients := [(0, 9)], answered := [(9, answered)] } }

/-- A datagram of client 9. -/
def datagram (client seq : Nat) : Datagram :=
  { client := BitVec.ofNat 32 client, seq := BitVec.ofNat 32 seq, flags := 0, source := 0, body := 0 }

/-- An unknown client, a duplicate, a sequence number older than the oldest kept, and a new one. -/
theorem witness_DatagramRunsCommand :
    ((managed []).hasAddress false = true ∧ ((managed []).ptp false).up = true ∧ (managed []).sys.mailboxOpen = true ∧
      (managed []).knowsClient (datagram 8 1) = false) ∧
    ((managed [(1, 0)]).knowsClient (datagram 9 1) = true ∧
      (rd (managed [(1, 0)]).pair.answered 9 []).find? (fun e => decide (e.1 = 1)) = some (1, 0)) ∧
    ((managed [(2, 0)]).knowsClient (datagram 9 1) = true ∧ tooOld (rd (managed [(2, 0)]).pair.answered 9 []) 1 = true ∧
      (managed [(2, 0)]).sys.running = [] ∧ (managed [(2, 0)]).sys.held = []) ∧
    (tooOld (rd (managed [(2, 0)]).pair.answered 9 []) 3 = false) := by
  refine ⟨?_, ?_, ?_, ?_⟩ <;> decide +kernel

/-- The body of a datagram spells the command that its opcode names. -/
theorem witness_DatagramRunsCommand_body :
    let m : MbCmd := { cmd 0 0 [] with src := .mgmt 9 3 false }
    mailboxOf (.getInfo m) = some (0x0001, m) ∧ m.src = .mgmt 9 3 false ∧ tb (datagram 9 3).flags.toNat 0 = false ∧
      ({ datagram 9 3 with body := slotWord 0x0001 m } : Datagram).body = slotWord 0x0001 m := by decide +kernel

theorem witness_BootFailedAnswersInternal :
    mailboxOf (.getInfo (cmd 0 0 [])) = some (0x0001, cmd 0 0 []) ∧ unbooted.reached (.fn 0) = true ∧ unbooted.mayTake (.fn 0) = true ∧
      unbooted.sys.bootFailed = true := by decide +kernel

/-- A management command during a restart; a command of a function whose eight commands run; one of a VF that is not there. -/
theorem witness_UntakenCommandsWait :
    (base.reached (.fn 1) = false) ∧ (crowded.reached (.fn 0) = true ∧ crowded.mayTake (.fn 0) = false) ∧
    (let s : State := { managed [] with sys := { base.sys with restarting := true } }
     s.reached (.mgmt 9 3 false) = true ∧ s.mayTake (.mgmt 9 3 false) = false ∧ srcRemote (.mgmt 9 3 false) = true) := by
  refine ⟨?_, ?_, ?_⟩ <;> decide +kernel

theorem witness_ResponseReachesFunction :
    (cmd 0 0 []).src = .fn 0 ∧ base.sys.restarting = false ∧ refOf 0x0001 (cmd 0 0 []) ∉ base.sys.running ∧ base.sys.bufDone = [] ∧
    (base.fn 0).rspValid = false ∧ ((base.setFn 0 { base.fn 0 with rspValid := true }).fn 0).rspValid = true := by decide +kernel

/-- Each check on a command that passes those before it: the selector, the length, the index at its boundary, the source, the mode. -/
theorem witness_ChecksInOrder :
    base.Takes (cmd 16 0 []) ∧ (cmd 16 0 []).f 4 1 = 0 ∧ (cmd 16 0 [(4, 8)]).f 4 1 = 8 ∧ 2 < (cmd 4 0 [(0, 3)]).f 0 1 ∧
    5632 < (cmd 4 32 [(0, 0), (1, 22), (2, 1)]).f 0 2 + (cmd 4 32 [(0, 0), (1, 22), (2, 1)]).f 2 2 ∧
    ((cmd 4 32 [(0, 0xFF), (1, 21), (2, 1)]).f 0 2 + (cmd 4 32 [(0, 0xFF), (1, 21), (2, 1)]).f 2 2 = 5632 ∧
      base.modeOk (.fn 0) anyNoRf false true = true ∧ (inMode .referee).modeOk (.fn 0) anyNoRf false true = false ∧
      (inMode .referee).Takes (cmd 4 32 [(0, 0xFF), (1, 21), (2, 1)])) ∧
    ((managed []).Takes { cmd 4 32 [(2, 1)] with src := .mgmt 9 3 false } ∧ srcRemote (.mgmt 9 3 false) = true) ∧
    (kindCount 2 = 4608 ∧ kindCount 2 ≤ (cmd 4 0 [(0, 2), (3, 0x12)]).f 2 2 ∧ (cmd 4 0 [(0, 2), (3, 0x11), (2, 0xFF)]).f 2 2 < kindCount 2 ∧
      base.modeOk (.fn 0) [.service] false false = false) :=
  ⟨takes (by decide +kernel), by decide +kernel, by decide +kernel, by decide +kernel, by decide +kernel,
    ⟨by decide +kernel, by decide +kernel, by decide +kernel, takes (by decide +kernel)⟩,
    ⟨takes (by decide +kernel), rfl⟩, by decide +kernel⟩

/-! ## Registers, windows and ports -/

/-- SOURCE = HOST. -/
def hostTime : State := { base with ft := { base.ft with source := .host } }

/-- ACK with and without a response, with one behind it; TM_ADJ in a VF, under PTP, under HOST; the counters of the PF and of a VF. -/
theorem witness_RegisterCommandsComplete :
    (base.decodes 0 = true ∧ (base.fn 0).rspValid = false) ∧
    ((pf (fun f => { f with rspValid := true })).decodes 0 = true ∧ ((pf (fun f => { f with rspValid := true })).fn 0).rspValid = true ∧
      ((pf (fun f => { f with rspValid := true })).fn 0).waiting = []) ∧
    ((pf (fun f => { f with rspValid := true, waiting := [(5, true)] })).decodes 0 = true ∧
      ((pf (fun f => { f with rspValid := true, waiting := [(5, true)] })).fn 0).waiting = (5, true) :: []) ∧
    (vfs.decodes 127 = true ∧ (127 : BitVec 7) ≠ 0) ∧ (base.ft.source ≠ .host) ∧ (hostTime.decodes 0 = true ∧ hostTime.ft.source = .host) := by
  refine ⟨?_, ?_, ?_, ?_, ?_, ?_⟩ <;> decide +kernel

theorem witness_ReadsClearTheirFields :
    (vfs.decodes 1 = true ∧ vfs.decodes 0 = true ∧ vfs.sys.bootFailed = false) ∧ (unbooted.decodes 0 = true ∧ unbooted.sys.bootFailed = true) := by
  decide +kernel

/-- Plain reads: the bounds of each range of offsets; configuration space of a function that is absent, that waits for its answer, and that has it. -/
theorem witness_ReadsClearTheirFields_plain :
    (∀ o ∈ [0, 0x1C, 0x100, 0x13C, 0x140, 0x17C, 0x180, 0x184, 0x188, 0x18C, 0x200, 0x224, 0x240, 0x264, 0x280, 0x284, 0x288, 0x1000, 0x1004,
        0x1008, 0x100C, 0x1010, 0x2000, 0x2200, 0x2204, 0x2238, 0x223C, 0x3000, 0x300C, 0x3020, 0x302C, 0x3FFC, 0x4000, 0x7FFC, 0x8008, 0x802C, 0x8800],
        (BitVec.ofNat 16 o).toNat % 4 = 0 ∧ (BitVec.ofNat 16 o).toNat = o) ∧
    0x223C = 0x2204 + 8 * (7 : BitVec 3).toNat ∧ (1 : BitVec 16).toNat % 4 ≠ 0 ∧ (base.present 1 = false) ∧
    (let s : State := { base with sys := { base.sys with mailboxOpen := false } }
     s.present 0 = true ∧ s.sys.mailboxOpen = false ∧ s.sys.bootFailed = false) ∧
    (vfs.present 127 = true ∧ vfs.sys.mailboxOpen = true) ∧ (unbooted.present 0 = true ∧ unbooted.sys.bootFailed = true) := by
  refine ⟨?_, ?_, ?_, ?_, ?_, ?_, ?_⟩ <;> decide +kernel

theorem witness_BadAccessesAreLogged :
    (base.present 0 = true ∧ (base.fn 0).d3 = false) ∧ (vfs.present 127 = true ∧ (vfs.fn 127).d3 = false) ∧ base.present 1 = false ∧
    ((pf (fun f => { f with d3 := true })).fn 0).d3 = true := by decide +kernel

/-- A queue of the PF with its ring of 2^k entries. -/
def ringed (i k : Nat) : State := base.setQueue 0 i { base.queue 0 i with word := BitVec.ofNat 128 (16 + k) }

/-- The last entry of the smallest ring, its first value outside, the last entry of the largest ring on queue 511, a queue that is off. -/
theorem witness_QueueDoorbellsComplete :
    (base.decodes 0 = true ∧ (base.queue 0 511).on = false) ∧
    (((ringed 0 1).queue 0 0).on = true ∧ (ringed 0 1).inMask 0 0 = true ∧ 1 % 4096 < ((ringed 0 1).queue 0 0).size ∧
      ((ringed 0 1).queue 0 0).size ≤ 2 % 4096) ∧
    (((ringed 511 12).queue 0 511).on = true ∧ (ringed 511 12).inMask 0 511 = true ∧ 4095 % 4096 < ((ringed 511 12).queue 0 511).size) ∧
    (vfs.decodes 1 = true ∧ vfs.inMask 1 0 = false) := by
  refine ⟨?_, ?_, ?_, ?_⟩ <;> decide +kernel

/-- The bounds of each range of offsets; an address that is not aligned, and a function that is absent; a VF; the four operations of recovery. -/
theorem witness_RegisterWritesComplete :
    base.decodes 0 = true ∧ unbooted.decodes 0 = true ∧ unbooted.sys.bootFailed = true ∧ base.sys.bootFailed = false ∧
    (∀ o ∈ [0x100, 0x13C, 0x180, 0x188, 0x18C, 0x200, 0x224, 0x284, 0x288, 0x1004, 0x1008, 0x100C, 0x2FFC, 0x3000, 0x300C, 0x3010, 0x3014, 0x3FFC, 0x4000,
        0x47FC, 0x4800, 0x7FFC, 0x8000, 0x802C, 0x184, 0x140, 0x17C, 0x240, 0x280, 0xFC, 0x8030, 0x300000, 0x300004, 0x300008, 0x301000, 0x301FFC, 0x302000],
      (BitVec.ofNat 22 o).toNat % 4 = 0 ∧ (BitVec.ofNat 22 o).toNat = o) ∧
    0x13C = 0x100 + 4 * 15 ∧ 0x224 = 0x200 + 4 * 9 ∧ 0x47FC = 0x4000 + 4 * (511 : BitVec 9).toNat ∧ 0x802C = 0x800C + 16 * 2 ∧
    base.decodes 1 = false ∧ (1 : BitVec 22).toNat % 4 ≠ 0 ∧ (127 : BitVec 7) ≠ 0 ∧ vfs.decodes 127 = true := by decide +kernel

/-- A vector that is unmasked without a message pending, with MSI-X disabled and with the function masked. -/
theorem witness_RegisterWritesComplete_msix :
    (1 : W32).getLsbD 0 = true ∧ (0 : W32).getLsbD 0 = false ∧ (base.fn 0).vPend.getLsbD 2 = false ∧
    ((pf (fun f => { f with vPend := 4, msixEnable := false })).fn 0).msixEnable = false ∧
    ((pf (fun f => { f with vPend := 4, msixEnable := true, funcMask := true })).fn 0).funcMask = true ∧
    (4 : W32).toNat % 8 = 4 ∧ (0x301FFC : Nat) = 0x301000 + 0xFFC := by decide +kernel

/-- The link is up, and a vector of the PF is as given. -/
def vectors (mask pend : Nat) (on fm : Bool) : State :=
  pf (fun f => { f with vMask := BitVec.ofNat 3 mask, vPend := BitVec.ofNat 3 pend, msixEnable := on, funcMask := fm })

/-- The three resets; a vector masked, MSI-X disabled, the function masked, none of these; a message that is pending and none. -/
theorem witness_MsixTableActs :
    (Instr.flrVf 127 = Instr.flrVf 127 ∧ (127 : BitVec 7) ≠ 0 ∧ vfs.present 127 = true) ∧
    (((vectors 4 0 true false).fn 0).vMask.getLsbD 2 = true) ∧ (((vectors 0 0 false false).fn 0).msixEnable = false) ∧
    (((vectors 0 0 true true).fn 0).funcMask = true) ∧
    (((vectors 0 0 true false).fn 0).vMask.getLsbD 2 = false ∧ ((vectors 0 0 true false).fn 0).msixEnable = true ∧
      ((vectors 0 0 true false).fn 0).funcMask = false ∧ ((vectors 0 0 true false).fn 0).d3 = false ∧ (vectors 0 0 true false).host.linkUp = true) ∧
    ((vectors 4 4 false false).decodes 0 = true ∧ (vectors 4 4 false false).host.linkUp = true ∧
      ((vectors 4 4 false false).fn 0).vPend.getLsbD 2 = true ∧ ((vectors 4 4 false false).fn 0).vPend.getLsbD 0 = false) := by
  refine ⟨?_, ?_, ?_, ?_, ?_, ?_⟩ <;> decide +kernel

/-- The module of `base` in Reset, powered. -/
def inReset : State := inMode .reset

/-- The last word of the plate store has an uncorrectable error. -/
def badWord : State := { base with burin := { base.burin with badWords := [262143] } }

theorem witness_Bar2ReadsComplete :
    (inReset.decodes 0 = true ∧ inReset.sys.mode = .reset) ∧ ((inMode .boot).decodes 0 = true ∧ (inMode .boot).sys.mode = .boot) ∧
    (base.decodes 0 = true ∧ base.sys.mode ≠ .reset ∧ base.sys.mode ≠ .boot ∧ base.badIn (0x1FFFFC / 4096) (0x1FFFFC % 4096) 4 = false) ∧
    (badWord.badIn (0x1FFFFC / 4096) (0x1FFFFC % 4096) 4 = true) ∧
    (∀ o ∈ [0, 0x1FFFFC, 0x200000, 0x29FFFC, 0x2A0000, 0x2FFFFC, 0x300000, 0x300004, 0x300008, 0x30000C, 0x300FFC, 0x301000, 0x301FFC, 0x302000,
        0x3FFFFC],
      (BitVec.ofNat 22 o).toNat % 4 = 0 ∧ (BitVec.ofNat 22 o).toNat = o) ∧ 0x29FFFC = 0x200000 + 64 * 10239 + 60 := by
  refine ⟨?_, ?_, ?_, ?_, ?_, ?_⟩ <;> decide +kernel

/-- MIRR has 16 transactions outstanding, and a seventeenth write that waits; HDMA has one, not yet served. -/
def busy : State :=
  { base with host := { base.host with
    portWaits := [{ requester := 6, plate := 0, offset := 0, bytes := [0], job := none, id := some 128 },
                  { requester := 6, plate := 0, offset := 1, bytes := [0], job := none, id := none }]
    bus := { base.host.bus with
      txns := (List.range 16).map (fun k => BusTxn.mk (16 * 8 + k) .plateStore true false) ++ [BusTxn.mk 64 .tcm false false] } } }

theorem witness_BusMatrixComplete :
    busPermits 9 true .plateStore = false ∧ busPermits 0 true .none = false ∧ busPermits 9 false .fuse = true ∧ (4 : Nat) < 10 ∧ (8 : Nat) < 10 ∧
    base.host.bus.freeId 9 = some 144 ∧ busy.host.bus.freeId 8 = none ∧ busy.host.bus.freeId 4 = some 65 ∧
    (busy.host.bus.txns.filter (fun x => decide (x.id / 16 = 8))).length = 16 := by
  decide +kernel

/-- The straps give the second address. -/
def siteB : State := { base with clk := { base.clk with siteId := true } }

theorem witness_SmbusComplete :
    (inReset.sys.mode = .reset ∧ base.sys.mode ≠ .reset) ∧ ((0x5A : BitVec 7).toNat = (if base.clk.siteId then 0x5B else 0x5A)) ∧
    ((0x5B : BitVec 7).toNat = (if siteB.clk.siteId then 0x5B else 0x5A)) ∧
    ((0x5B : BitVec 7).toNat ≠ (if base.clk.siteId then 0x5B else 0x5A) ∧ (0x5B : BitVec 7) ≠ 0x0C) ∧
    (0x30 ≤ (0x30 : BitVec 8).toNat ∧ base.faults.volts[0x30 - 0x30]? = some 0) ∧
    ((0x47 : BitVec 8).toNat < 0x48 ∧ base.faults.volts[0x47 - 0x30]? = some 0) := by
  refine ⟨?_, ?_, ?_, ?_, ?_, ?_⟩ <;> decide +kernel

/-- DEBUG_LOCK in force. -/
def locked : State := { inMode .service with sys := { (inMode .service).sys with fuses := BitVec.ofNat 4096 (2 ^ 2816), fusesInForce := BitVec.ofNat 4096 (2 ^ 2816) } }

theorem witness_DebugPortComplete :
    (locked.fuse 2816 1 = 1) ∧ (base.sys.mode ≠ .service ∧ base.sys.mode ≠ .isolated) ∧
    ((inMode .service).fuse 2816 1 = 0 ∧ (inMode .service).sys.mode = .service ∧ busPermits 9 true .fuse = false) ∧
    ((inMode .isolated).fuse 2816 1 = 0 ∧ (inMode .isolated).sys.mode = .isolated ∧ (0x1FFFFF : Nat) < 2 ^ 21 ∧
      (inMode .isolated).badIn (0x1FFFFF / 4096) (0x1FFFFF % 4096) 4 = false) := by
  refine ⟨?_, ?_, ?_, ?_⟩ <;> decide +kernel

/-! ## Reset, clocks, supplies, boot, flash and fuses -/

theorem witness_ResetsComplete :
    (holder.pair.held = true ∧ holder.pair.solo = false ∧ holder.clk.vddLease = true) ∧ (State.reset.clk.rstN = false ∧ State.reset.clk.coreUp = true) ∧
    base.pair.held = false ∧ (leased .active).pair.solo = true ∧ base.clk.rstN = true ∧
    ({ holder with clk := { holder.clk with vddLease := false } } : State).clk.vddLease = false := by decide +kernel

theorem witness_ClocksAndSuppliesComplete :
    (let s : State := { base with clk := { base.clk with lpll := false } }
     s.clk.lpll = false ∧ s.clk.rstN = true ∧ s.clk.coreUp = true) ∧
    base.clk.lpll = true ∧ base.clk.ethref = true ∧ base.clk.vddLease = true ∧ base.pair.extended = false ∧
    (let s : State := { base with ft := { base.ft with state := .acquiring, source := .ptp } }
     s.ft.state = .acquiring ∧ s.ft.source = .ptp ∧ s.sys.restarting = false) ∧
    (let s : State := { base with ft := { base.ft with source := .pps, ppsLost := false } }
     s.ft.source = .pps ∧ s.ft.ppsLost = false) ∧
    (let s : State := { base with clk := { base.clk with ethref := false, vddLease := false } }
     s.clk.ethref = false ∧ s.clk.vddLease = false) := by decide +kernel

/-- The mailbox is open, or not yet. -/
def booted (b : Bool) : State := { base with sys := { base.sys with mailboxOpen := b } }

/-- The Boot ROM starts, over a flash. -/
def booting (flash : Mem) : State :=
  { base with sys := { base.sys with mode := .boot, mailboxOpen := false, standbySeen := false, flash := flash } }

/-- Slot A holds a control block and an image of one byte whose header has zeros in its digest. -/
def imageA : Mem :=
  Mem.store flashDefault (control 0) 4096 (bytesLE 4 0x5746504E ++ List.replicate 12 0 ++ bytesLE 4 1 ++ List.replicate 60 0)

/-- Erased slots fail; firmware runs where its signatures and digests agree, which the model leaves open. -/
theorem witness_BootComplete :
    ((booting []).sys.mode = .boot ∧ (booting []).sys.mailboxOpen = false ∧ (booting []).sys.bootFailed = false ∧ (booting []).runs = true) ∧
    ((∀ b, ((booting []).slotFault b).isSome = true) ∧ (booting []).slotFault (((booting []).slotOrder.getLast?).getD false) = some 1) ∧
    (unbooted.sys.bootFailed = true ∧ unbooted.sys.recoveryOp = 0) ∧
    (({ unbooted with sys := { unbooted.sys with recoveryOp := 4 } } : State).sys.recoveryOp ≠ 0) ∧
    (({ inMode .startupCal with cal := { base.cal with phase := 3 } } : State).cal.phase = 3) := by
  refine ⟨?_, ⟨?_, ?_⟩, ?_, ?_, ?_⟩
  · decide +kernel
  · intro b; cases b <;> decide +kernel
  all_goals decide +kernel

theorem witness_BootComplete_verified (h1 : ∀ l, Config.sha384 l = 0) (h2 : ∀ k m g, Config.ecdsaP384 k m g = true) :
    (booting imageA).slotOrder.find? (fun x => ((booting imageA).slotFault x).isNone) = some false := by
  have a : (booting imageA).slotFault false = none := by
    simp only [State.slotFault, State.imageFault, h1, h2]; decide +kernel
  have b : (booting imageA).slotOrder = [false, true] := by decide +kernel
  rw [b]; simp [List.find?, a]

theorem witness_FlashRecoveryComplete :
    (base.sys.bootFailed = false) ∧
    (let s (op n : Nat) : State := { unbooted with sys := { unbooted.sys with recoveryOp := op, sector := BitVec.ofNat 13 n } }
     ((s 0 4095).sys.bootFailed = true ∧ (s 0 4095).sys.recoveryOp = 0 ∧ (s 0 4095).sys.sector.toNat < 4096) ∧
     (s 3 0).sys.recoveryOp ≠ 0 ∧ 4096 ≤ (s 0 4096).sys.sector.toNat ∧
     (Mem.wf flashDefault (s 1 0).sys.flash = true ∧ Mem.wf 0 (s 2 0).sys.recoveryBuf = true ∧ (s 1 0).sys.recoveryOp = 1 ∧
      (s 2 0).sys.recoveryOp = 2 ∧ (s 3 0).sys.recoveryOp = 3)) := by decide +kernel

/-- The writes that wait, in their order. -/
def writing (l : List FlashJob) : State := { base with sys := { base.sys with flashJobs := l } }

/-- A staged image waits behind a record; each kind of write comes first; fuses are programmed. -/
theorem witness_FlashAndFuseWritesComplete :
    (let c := refOf 0x00A0 (cmd 0 513 [])
     let order (s : State) := s.sys.flashJobs.filter (fun x => !x.isStage) ++ s.sys.flashJobs.filter FlashJob.isStage
     order (writing []) = [] ∧ order (writing [.stage true [1] c, .retirement [1]]) = .retirement [1] :: [.stage true [1] c] ∧
     (∀ j ∈ [FlashJob.descriptor [1] c, .retirement [1], .mode none (some (1, 8)) c [], .converter [2], .fabric [3], .control true 1 c, .stage true [1] c],
       order (writing [j]) = [j])) ∧
    (let s : State := { base with sys := { base.sys with fuseJob := some (1, refOf 0x00A3 (cmd 0 320 [])) } }
     s.sys.fuseJob = some (1, refOf 0x00A3 (cmd 0 320 []))) ∧ base.sys.fuseJob = none := by
  refine ⟨?_, rfl, rfl⟩; decide +kernel

/-- A staged image without the magic number fails; one with it verifies where its digest and its signature agree, which the model leaves open. -/
theorem witness_FlashAndFuseWritesComplete_stage (h1 : ∀ l, Config.sha384 l = 0) (h2 : ∀ k m g, Config.ecdsaP384 k m g = true) :
    (base.imageFault (List.replicate 512 0) 513 [0]).isSome = true ∧
    base.imageFault (bytesLE 4 0x5746504E ++ List.replicate 508 0) 513 [0] = none := by
  simp only [State.imageFault, h1, h2]; exact ⟨by decide +kernel, by decide +kernel⟩

theorem witness_HotRestartComplete :
    (base.sys.mailboxOpen = true ∧ base.sys.restarting = false) ∧ ((booted false).sys.mailboxOpen = false) ∧
    (let s (k : Nat) : State := { base with sys := { base.sys with restarting := true, activate := some (refOf 0x00A1 (cmd 4 0 []), true) },
                                            clk := { base.clk with ticks := k } }
     (s 40000).sys.restarting = true ∧ (s 40000).sys.activate.isSome = true ∧ (s 40000).sys.restartTick + 40000 ≤ (s 40000).clk.ticks ∧
       (s 39999).clk.ticks < (s 39999).sys.restartTick + 40000) ∧
    (let s : State := { base with sys := { base.sys with restarts := [9, 8] } }
     (s.clk.frame :: s.sys.restarts.filter (fun f => decide (s.clk.frame < f + 5000000))).length = 3) := by decide +kernel

/-! ## Resets and states of the functions -/

theorem witness_VfResetComplete : (127 : BitVec 7) ≠ 0 ∧ vfs.present 127 = true ∧ (1 : BitVec 7) ≠ 0 ∧ vfs.present 1 = true := by decide +kernel

theorem witness_PfResetComplete : base.clk.rstN = true ∧ base.clk.coreUp = true := by decide +kernel

theorem witness_PowerStatesComplete :
    base.present 0 = true ∧ (base.fn 0).vPend = 0 ∧ vfs.present 127 = true ∧
    (pf (fun f => { f with d3 := true })).present 0 = true ∧ ((pf (fun f => { f with d3 := true })).fn 0).d3 = true := by decide +kernel

/-! ## The frame, conversions, impressions, slots and refills -/

theorem witness_FrameCommandsComplete : base.runs = true ∧ State.reset.runs = false := by decide +kernel

/-- A capture of pair 0 with so many words. -/
def captureOf (n : Nat) : Capture :=
  { cmd := refOf 0x0060 (cmd 8 65536 []), iova := 0x1000, pair := 0, sense := 0, filter := false, startFrame := 9, words := List.replicate n 0 }

theorem captureOf_length (n : Nat) : (captureOf n).words.length = n := by
  unfold captureOf; exact List.length_replicate

def capturing (n : Nat) : State := { base with sense := { base.sense with capture := some (captureOf n) } }

/-- The last core with a table of its own, under a lease and without one, a spare core, and a core of the captured pair; no clock, the frame's end. -/
theorem witness_ConversionsComplete :
    (let s := leased .active
     (134 : Nat) < 136 ∧ s.runs = true ∧ s.sys.mode ≠ .reset ∧ (s.core 134).boundary + 120 ≤ s.frameLen ∧ s.coreOff 134 = false ∧
      s.sense.capture = none ∧ (s.core 134).urgent = [] ∧ (s.core 134).pending.find? (s.mayConvert ((s.core 134).table s.clk.frame)) = some 0 ∧
      entryOf ((s.core 134).table s.clk.frame) 0 = some (127, false)) ∧
    ((base.core 134).urgent = [] ∧ (base.core 134).pending.find? (base.mayConvert ((base.core 134).table base.clk.frame)) = none) ∧
    (State.reset.runs = false ∧ (let s := base.setCore 134 { base.core 134 with boundary := 5999 }; s.frameLen < (s.core 134).boundary + 120)) ∧
    ((135 : Nat) < 136 ∧ 135 % 17 = 16 ∧ (base.core 135).boundary + 120 ≤ base.frameLen ∧ base.coreOff 135 = false) ∧
    ((capturing 16384).sense.capture.isSome = true ∧ pairOf 1 = 0 ∧ 1 % 17 ≠ 16 ∧ ((capturing 16384).core 1).boundary + 120 ≤ (capturing 16384).frameLen ∧
      (capturing 16384).coreOff 1 = false) := by
  refine ⟨?_, ?_, ?_, ?_, ?_⟩ <;> decide +kernel

/-- No capture; one that lacks a word; one that is full at a tick, and in mid-frame; one whose end waits for the tick. -/
theorem witness_CaptureEndCompletes :
    base.sense.capture = none ∧
    ((capturing 16383).sense.capture = some (captureOf 16383) ∧ (captureOf 16383).words.length < 16384) ∧
    ((capturing 16384).sense.capture = some (captureOf 16384) ∧ 16384 ≤ (captureOf 16384).words.length ∧ TickOp.captureEnd ∉ (capturing 16384).atTick ∧
      (capturing 16384).clk.cycle = 0) ∧
    (let s : State := { capturing 16384 with clk := { base.clk with cycle := 1 } }
     s.sense.capture = some (captureOf 16384) ∧ TickOp.captureEnd ∉ s.atTick ∧ s.clk.cycle ≠ 0) ∧
    (TickOp.captureEnd ∈ ({ capturing 16384 with atTick := [.captureEnd] } : State).atTick) :=
  ⟨rfl, ⟨rfl, by rw [captureOf_length]; omega⟩, ⟨rfl, by rw [captureOf_length], List.not_mem_nil, rfl⟩, ⟨rfl, List.not_mem_nil, by decide⟩,
    List.mem_singleton.mpr rfl⟩

/-- Drive channel 10239 in a range-change hold. -/
def inHold (release : Nat) (waiting : Option Nat) : State :=
  base.setDch 10239 { base.dch 10239 with hold := some { release := release, range := 1, waiting := waiting, force := none } }

theorem witness_ReadbackAndRangeChangesComplete :
    ((7 : Nat) < 8 ∧ base.runs = true ∧ base.sys.mode ≠ .reset ∧ base.sys.mode ≠ .boot ∧ 8960 = 1280 * 7 + rd base.drive.rbPos 7 0) ∧
    (State.reset.runs = false ∧ inReset.sys.mode = .reset ∧ (inMode .boot).sys.mode = .boot) ∧
    ((base.dch 10239).hold = none) ∧
    (((inHold 11 none).dch 10239).hold = some { release := 11, range := 1, waiting := none, force := none } ∧ (inHold 11 none).clk.frame < 11) ∧
    (((inHold 10 none).dch 10239).hold = some { release := 10, range := 1, waiting := none, force := none } ∧ 10 ≤ (inHold 10 none).clk.frame) ∧
    (((inHold 10 (some 3)).dch 10239).hold = some { release := 10, range := 1, waiting := some 3, force := none } ∧ 10 ≤ (inHold 10 (some 3)).clk.frame) := by
  refine ⟨?_, ?_, ?_, ?_, ?_, ?_⟩ <;> decide +kernel

/-- An impression whose snapshot is read from the last plate. -/
def reading : Armed :=
  { source := 2, trigger := .asap, plate := 511, due := none, order := 0, strict := false, late := false, cmd := none, batch := none, frame := none,
    read := some { plate := 511, got := [], startCycle := 0, ordinal := 0, bad := false }, snap := none }

def withReading (s : State) : State := { s with imp := { s.imp with armed := [reading] } }

/-- The record of impression 0, in frame 10; its circuit is measured with an output tap in range 3, or not at all. -/
def proving (late : Bool) : State :=
  let s := leased .active
  { s with imp := { s.imp with
      records := [{ seq := 0, epoch := 1, time := 20000, frame := 10, plate := 3, source := 2, flags := 0, changed := 1, proved := 1, pass := 0, unlit := 0,
                    fail := 0, pending := 1, cycles := 0, suspects := [], suspectCount := 0, retryOf := 0xFFFFFFFF, result := [], cmd := none,
                    late := false, reported := false }]
      items := if late then [{ seq := 0, ingress := 1, egress := 2, placed := 10, frame := 10, retried := false, first := 0, yIn := none, yOut := none,
                               applied := 0, range3 := true, noTap := false }] else [] } }

/-- A localisation that began in a frame. -/
def locating (start : Nat) : State :=
  { base with clk := { base.clk with frame := 1034 }
              imp := { base.imp with locates := [{ seq := 0, firstSeq := 0, ingress := 1, egress := 2, date := 10, start := start, trace := [], ys := [] }] } }

theorem witness_ImpressionEventsComplete :
    (base.imp.armed = []) ∧
    ((withReading base).imp.armed.find? (fun a => a.read.isSome && a.snap.isNone && !((withReading base).sys.restarting && decide (a.source = 2))) = some reading ∧
      ((withReading base).readTo { plate := 511, got := [], startCycle := 0, ordinal := 0, bad := false } 3264).bad = false) ∧
    (((withReading { base with burin := { base.burin with badWords := [511 * 512 + 8] } }).readTo
      { plate := 511, got := [], startCycle := 0, ordinal := 0, bad := false } 3264).bad = true) ∧
    (base.pair.held = false) ∧ ((proving false).pair.held = true ∧ (proving false).runs = true ∧
      (proving false).resultsDue.filter (fun q => !(proving false).resultLate q) = [0]) ∧
    ((proving true).resultsDue.filter (fun q => !(proving true).resultLate q) = [] ∧ (proving true).resultsDue = [0]) ∧
    ((locating 11).imp.locates.find? (fun l => decide (l.start + 1024 ≤ (locating 11).clk.frame)) = none) ∧
    (((locating 10).imp.locates.find? (fun l => decide (l.start + 1024 ≤ (locating 10).clk.frame))).isSome = true) := by
  refine ⟨?_, ?_, ?_, ?_, ?_, ?_, ?_, ?_⟩ <;> decide +kernel

/-- The slot table: what runs, what is latched, what is pending. -/
def slots (current next : Option Occ) (op : Option SlotOp) (running : Bool) : State :=
  let s := leased .active
  { s with sched := { s.sched with current := current, next := next, op := op, running := running } }

/-- An occurrence of an entry of one frame, from frame 10. -/
def occ (entry word start : Nat) : Occ := { bank := false, entry := entry, word := word, start := start, cycle := 0 }

def slotOp' (op accepted at' : Nat) (latched : Bool) : SlotOp :=
  { op := op, cmd := refOf 0x0031 (cmd 16 0 []), bank := true, late := false, accepted := accepted, at_ := at', latched := latched, fire := 10, old := false }

theorem witness_SlotsAndRefillComplete_latch :
    ((slots none none none false).sys.mode.ticks = true) ∧
    ((slots none (some (occ 3 1 11)) none true).sched.next = some (occ 3 1 11)) ∧
    -- the entry after one that ends at the next tick; entry 0 after the last one and after entry 511
    ((slots (some (occ 3 1 10)) none none true).sched.next = none ∧ (occ 3 1 10).stop ≤ 10 + 1 ∧ ((occ 3 1 10).last || decide ((occ 3 1 10).entry = 511)) = false) ∧
    ((occ 511 1 10).stop ≤ 10 + 1 ∧ ((occ 511 1 10).last || decide ((occ 511 1 10).entry = 511)) = true) ∧
    ((occ 3 (2 ^ 27 + 1) 10).last = true) ∧
    -- a swap at the wrap, a start, a stop
    ((slots (some (occ 511 1 10)) none (some (slotOp' 0 9 11 false)) true).sched.op = some (slotOp' 0 9 11 false) ∧ (slotOp' 0 9 11 false).accepted < 10 ∧
      (slotOp' 0 9 11 false).at_ ≤ 11) ∧
    ((slots none none (some (slotOp' 1 9 11 false)) false).sched.current = none ∧ (slotOp' 1 9 11 false).op = 1 ∧ (slotOp' 1 9 11 false).at_ ≤ 10 + 1) ∧
    ((slots (some (occ 3 1 10)) none (some (slotOp' 2 9 0 false)) true).sched.running = true ∧ (slotOp' 2 9 0 false).op = 2 ∧ (slotOp' 2 9 0 false).accepted < 10) ∧
    -- nothing to latch
    ((slots (some (occ 3 1 10)) none none false).sched.running = false) ∧ (10 + 1 < (occ 3 2 10).stop) := by
  refine ⟨?_, ?_, ?_, ?_, ?_, ?_, ?_, ?_, ?_, ?_⟩ <;> decide +kernel

theorem witness_SlotsAndRefillComplete_start :
    ((slots none (some (occ 3 1 11)) none false).clk.frame < (occ 3 1 11).start) ∧
    ((occ 3 1 10).start ≤ (slots none (some (occ 3 1 10)) none false).clk.frame) ∧
    ((slots (some (occ 3 1 9)) none (some (slotOp' 2 8 0 true)) true).sched.op = some (slotOp' 2 8 0 true) ∧ (slotOp' 2 8 0 true).latched = true ∧
      (occ 3 1 9).stop ≤ (slots (some (occ 3 1 9)) none (some (slotOp' 2 8 0 true)) true).clk.frame) ∧
    (base.clk.frame % 64 ≠ 0) ∧
    (({ base with clk := { base.clk with frame := 64 } } : State).clk.frame % 64 = 0 ∧ ({ base with clk := { base.clk with frame := 64 } } : State).clk.refilled = false) ∧
    (({ base with clk := { base.clk with frame := 64, refilled := true } } : State).clk.refilled = true) := by
  refine ⟨?_, ?_, ?_, ?_, ?_, ?_⟩ <;> decide +kernel

/-! ## Health, monitors, calibration and the fault queue -/

/-- The module of `base` in another frame. -/
def inFrame (f : Nat) : State := { base with clk := { base.clk with frame := f } }

theorem witness_HealthEventsComplete :
    ((inFrame 50000).clk.frame % 50000 = 0 ∧ (inFrame 50000).clk.reported = false ∧ (inFrame 50000).sys.restarting = false ∧ (inFrame 50000).runs = true ∧
      (inFrame 50000).sys.mode ≠ .reset ∧ (inFrame 50000).sys.mode ≠ .boot) ∧
    (base.clk.frame % 50000 ≠ 0) ∧ (State.reset.runs = false) ∧ ((List.replicate 24 0 : List Nat).length = 24) ∧ ((List.replicate 16 0 : List Nat).length = 16) := by
  refine ⟨?_, ?_, ?_, ?_, ?_⟩ <;> decide +kernel

/-- A scope as given, in the frame 128. -/
def withScope (n : Nat) (f : Scope → Scope) : State := (inFrame 128).setScope n (f ((inFrame 128).scope n))

/-- The fault queue holds one entry. -/
def faulted (overflow : Bool) : State :=
  { base with faults := { base.faults with
      queue := [{ kind := 3, index := 4607, reason := 1, frame := 10, count := 2, permanent := true, escalated := false }], overflow := overflow } }

theorem witness_CalibrationAndFaultEventsComplete :
    ((inFrame 128).clk.frame % 64 = 0 ∧ (inFrame 128).cal.tempTrigger = true ∧ (inFrame 128).sys.restarting = false ∧ (inFrame 128).sys.mode.calibrates = true) ∧
    (base.clk.frame % 64 ≠ 0) ∧ (Mode.referee.calibrates = false) ∧
    ((withScope 0x207 (fun x => { x with pending := true })).cal.lastStart ≠ some 128 ∧
      (converterScopes ++ [0x300]).find? (fun n => ((withScope 0x207 (fun x => { x with pending := true })).scope n).pending &&
        (withScope 0x207 (fun x => { x with pending := true })).canStart n) = some 0x207) ∧
    (isScope 0x207 = true ∧ ((inFrame 128).scope 0x207).running = none) ∧
    (((withScope 0x207 (fun x => { x with running := some 26 })).scope 0x207).running = some 26 ∧
      26 + (withScope 0x207 (fun x => { x with running := some 26 })).runLength 0x207 ≤ 128 + 1 ∧ (inFrame 128).cal.due = []) ∧
    ((faulted false).sys.restarting = false ∧ (faulted false).faults.queue.length = 1 ∧ (faulted false).faults.overflow = false) ∧
    ((faulted true).faults.overflow = true) := by
  refine ⟨?_, ?_, ?_, ?_, ?_, ?_, ?_, ?_⟩ <;> decide +kernel

/-! ## The scheduler, routes and transfers -/

/-- A request descriptor (R260). -/
def request (ingress egress action when_ : Nat) (strict : Bool) (value : Nat) : BitVec 256 :=
  BitVec.ofNat 256 (pack [(32, 5), (16, ingress), (16, egress), (8, action), (8, when_), (1, bit strict), (47, 0), (64, value)])

/-- A lease holder in Active whose queue i of domain 0 holds a descriptor, with a completion ring of four entries of which so many are reserved. -/
def queued (i : Nat) (e : BitVec 256) (checked : Bool) (reserved : Nat) (s : State) : State :=
  ({ s with sched := { s.sched with domains := [(0, { s.domain 0 with cBase := 0x1000, cK := 2, cReserved := reserved })] } } : State).setQueue 0 i
    { s.queue 0 i with word := BitVec.ofNat 128 (18 + 2 ^ 64 * 1), descs := [e], checked := checked }

/-- A transfer of domain d. -/
def xfer (d : Nat) (use : XferUse) (urgent write : Bool) (inFlight : Nat) (walking : Bool) : Xfer :=
  { id := 0, dom := d, use := use, urgent := urgent, write := write, iova := 0x1000, len := 64, issued := inFlight, data := [], inFlight := inFlight,
    walking := walking, preempted := false, faulted := false }

def moving (x : Xfer) : State := { leased .active with host := { (leased .active).host with xfers := [x] } }

theorem witness_SchedulerCommandsComplete_fetch :
    ((leased .active).host.xfers = []) ∧
    ((moving (xfer 0 (.fetch 511) false false 64 false)).host.xfers.find? (fun x => decide (x.dom = 0) && decide (x.use = .fetch 511) && decide (0 < x.inFlight))
        = some (xfer 0 (.fetch 511) false false 64 false) ∧
      (xfer 0 (.fetch 511) false false 64 false).inFlight / 32 ≤ [(1 : BitVec 256), 2].length ∧
      [(1 : BitVec 256)].length < (xfer 0 (.fetch 511) false false 64 false).inFlight / 32) := by
  refine ⟨?_, ?_⟩ <;> decide +kernel

/-- A head that passes: untimed; timed for the next tick and for the one after it; past; waiting for its slot. -/
theorem witness_SchedulerCommandsComplete_check :
    (((leased .active).queue 0 0).descs = []) ∧
    (let s := queued 511 (request 511 0 2 0 false 0) false 0 (leased .active)
     (s.queue 0 511).descs = request 511 0 2 0 false 0 :: [] ∧ (s.queue 0 511).checked = false ∧ (s.queue 0 511).inFlight = false ∧ s.domainOn 0 = true ∧
      s.schedRuns = true ∧ dIngress (request 511 0 2 0 false 0) = 511 ∧ dEgress (request 511 0 2 0 false 0) < 512 ∧ s.inMask 0 0 = true ∧
      dAction (request 511 0 2 0 false 0) ≤ 2 ∧ dWhen (request 511 0 2 0 false 0) = 0) ∧
    ((leased .active).timed (request 0 0 0 2 false 22000) = .due 11) ∧ ((leased .active).timed (request 0 0 0 2 false 22001) = .due 12) ∧
    ((leased .active).timed (request 0 0 0 2 false 20000) = .past ∧ dStrict (request 0 0 0 2 false 20000) = false) ∧
    ((slots none none (some (slotOp' 1 9 12 false)) false).timed (request 0 0 0 1 false (2 ^ 64 - 2 ^ 32)) = .waits) := by
  refine ⟨?_, ?_, ?_, ?_, ?_, ?_⟩ <;> decide +kernel

/-- A head that fails: its INGRESS, its EGRESS, its ACTION, its WHEN, too late and STRICT; the ring with room and without. -/
theorem witness_SchedulerCommandsComplete_fail :
    (dIngress (request 1 0 0 0 false 0) ≠ 0) ∧ (512 ≤ dEgress (request 0 512 0 0 false 0)) ∧ (2 < dAction (request 0 0 3 0 false 0)) ∧
    (2 < dWhen (request 0 0 0 3 false 0)) ∧
    ((leased .active).timed (request 0 0 0 2 true 20000) = .past ∧ dStrict (request 0 0 0 2 true 20000) = true) ∧
    (((queued 0 (request 0 0 3 0 false 0) false 2 (leased .active)).domain 0).room = true) ∧
    (((queued 0 (request 0 0 3 0 false 0) false 3 (leased .active)).domain 0).room = false) := by
  refine ⟨?_, ?_, ?_, ?_, ?_, ?_, ?_⟩ <;> decide +kernel

/-- A granted request. -/
def granted : Req :=
  { dom := 0, queue := 0, desc := request 0 1 0 2 true 22000, head := 1, yellow := false, late := false, rebased := 0, due := some 11, dropped := false }

def batch (st : BatchState) : Batch := { id := 0, reqs := [granted], dest := 480, base := 0xFFFE, state := st, disturbed := 0 }

theorem witness_SchedulerCommandsComplete_grant :
    (base.mayForm = false) ∧ ((leased .active).mayForm = true ∧ (leased .active).sched.returned = []) ∧
    (let s : State := { leased .active with sched := { (leased .active).sched with returned := [granted] } }
     s.mayForm = true ∧ s.sched.returned = granted :: [] ∧ granted.strict = true ∧ granted.due = some 11) ∧
    (let s := queued 0 (request 0 1 0 0 false 0) true 0 (leased .active)
     s.mayForm = true ∧ (s.policeHeads.smallest (s.policeHeads.eligible.filter
       (fun d => s.policeHeads.unpoliced || decide (0 < (s.policeHeads.domain d).balC)))) = some 0) ∧
    (let s : State := { leased .active with sched := { (leased .active).sched with batches := [batch .waiting] } }
     s.sched.batches.find? (fun (b : Batch) => b.state == .waiting) = some (batch .waiting) ∧ s.ringSlot = some 480 ∧ s.schedRuns = true ∧
      s.burin.queue.length < 8) := by
  refine ⟨?_, ?_, ?_, ?_, ?_⟩ <;> decide +kernel

theorem witness_SchedulerCommandsComplete_write :
    (base.pair.held = false) ∧
    (let s := queued 0 (request 0 1 0 0 false 0) true 1 (leased .active)
     let t : State := { s with sched := { s.sched with cpls := [{ dom := 0, record := 9 }] } }
     t.pair.held = true ∧ (t.xlate 0).stopped = false ∧ t.host.linkUp = true ∧ (t.fn 0).d3 = false ∧ (t.domain 0).cK ≠ 0 ∧
      takeCpl 0 t.sched.cpls = some ({ dom := 0, record := 9 }, [])) := by
  refine ⟨?_, ?_⟩ <;> decide +kernel

/-- A route job of a command, of a batch. -/
def job (owner : JobOwner) : Job := { dest := 3, base := 0xFFFF, delta := none, owner := owner }

def routing (owner : JobOwner) (bad : Bool) : Running :=
  { job := job owner, base := none, basePlate := 0xFFFF, tag := 0, perm := [], targets := [], refused := [], bytes := [0], legacy := false, pinned := 0,
    pinState := 0, bad := bad, startTime := 0, startCycle := 0 }

def engine (q : List Job) (r : Option Running) : State := { described base with burin := { base.burin with queue := q, running := r } }

/-- A PLATE_READ copy of plate 3. -/
def copy : Copy := { cmd := refOf 0x0021 (cmd 8 64 []), iova := 0x1000, plate := 3, offset := 0, before := List.replicate 64 0, ordinal := 0 }

def copying (s : State) : State := { s with host := { s.host with copies := [copy] } }

theorem witness_RouteJobsComplete :
    (base.desc.loaded = false) ∧
    ((engine [job (.batch 0)] none).burin.running = none ∧ (engine [job (.batch 0)] none).burin.queue = job (.batch 0) :: [] ∧
      (engine [job (.batch 0)] none).desc.loaded = true) ∧
    ((copying (engine [] (some (routing (.batch 0) false)))).underCopy 3 = true) ∧
    ((engine [] (some (routing (.batch 0) true))).burin.running = some (routing (.batch 0) true) ∧ (engine [] (some (routing (.batch 0) true))).underCopy 3 = false) ∧
    (traceOk (geoOf [0] false) (routeJob [0] (geoOf [0] false) [] none 0 0) 0 0 = true) := by
  refine ⟨?_, ?_, ?_, ?_, ?_⟩ <;> decide +kernel

theorem witness_TransfersComplete_burst :
    (base.nextXferOf = none) ∧
    ((moving (xfer 0 (.fetch 0) false false 0 false)).nextXferOf = some (xfer 0 (.fetch 0) false false 0 false) ∧
      ((moving (xfer 0 (.fetch 0) false false 0 false)).xlate 0).mode = 2) ∧
    ((moving (xfer 1 (.fetch 0) false false 0 false)).nextXferOf = some (xfer 1 (.fetch 0) false false 0 false) ∧
      ((moving (xfer 1 (.fetch 0) false false 0 false)).xlate 1).mode = 0 ∧ (xfer 1 (.fetch 0) false false 0 false).isEvent = false) ∧
    ((moving (xfer 0 (.completion 0) true true 0 false)).nextXferOf = some (xfer 0 (.completion 0) true true 0 false)) := by
  refine ⟨?_, ?_, ?_, ?_⟩ <;> decide +kernel

/-- The three outcomes of a walk: a leaf, a fault of a fetch, a fault of an event record; read data in full and short, or failed. -/
theorem witness_TransfersComplete_data :
    ((moving (xfer 1 (.fetch 0) false false 0 true)).host.xfers.find? (fun x => decide (x.dom = 1) && x.walking) = some (xfer 1 (.fetch 0) false false 0 true)) ∧
    (walkOf (.entries 0x3FF 0x1007) ((moving (xfer 1 (.fetch 0) false false 0 true)).burstAddr (xfer 1 (.fetch 0) false false 0 true)) = .inl (1, true, true)) ∧
    (walkOf .l1Error ((moving (xfer 1 (.fetch 0) false false 0 true)).burstAddr (xfer 1 (.fetch 0) false false 0 true)) = .inr 8) ∧
    ((xfer 1 (.event 1) false true 0 true).use = .event 1) ∧
    (let x := xfer 0 (.read (refOf 0x0053 (cmd 4 32 [])) (.hatch 0)) false false 32 false
     (moving x).host.xfers.find? (fun x => decide (x.client = 3) && decide (0 < x.inFlight)) = some x ∧ (List.replicate 32 (0 : Byte)).length = x.inFlight ∧
      (List.replicate 31 (0 : Byte)).length ≠ x.inFlight) ∧
    (base.host.copies = [] ∧ (copying base).host.copies = copy :: []) := by
  refine ⟨?_, ?_, ?_, ?_, ?_, ?_⟩ <;> decide +kernel

/-! ## Leases and the referee -/

/-- A frame of a REF port with its CHECK, and one whose CHECK is wrong. -/
def frame (type : Nat) (site : Bool) (flags epoch arg : Nat) (good : Bool) : RefFrame :=
  { site := site, flags := BitVec.ofNat 16 flags, epoch := BitVec.ofNat 32 epoch, arg := BitVec.ofNat 32 arg, seq := 1,
    check := BitVec.ofNat 16 (crc16 (refBody type site flags epoch arg 1)) + (if good then 0 else 1) }

/-- A paired holder, a partner, a referee, with pairing state as given. -/
def holding (f : Pair → Pair) : State := { holder with pair := f holder.pair }
def standing (f : Pair → Pair) : State := { partner with pair := f partner.pair }
def judging (f : Pair → Pair) : State := { inMode .referee with pair := f base.pair }

/-- The selected port's link is up. -/
def linked (p : Pair) : Pair := { p with portA := { p.portA with up := true } }

theorem witness_LeaseCommandsComplete_frames :
    (base.refServed true = false) ∧ ((judging id).referee = true) ∧ (partner.refServed false = true ∧ partner.referee = false) ∧
    (refValid tArm (frame tArm false 0 2 31250 false) = false) ∧ (refValid tArm (frame tArm false 0 2 31250 true) = true) ∧
    (refValid tDisarm (frame tDisarm false 0 2 0 true) = true) ∧ (refValid tRefStatus (frame tRefStatus false 0 2 0 true) = true) ∧
    (refValid tRenew (frame tRenew false 0 1 31250 true) = true) ∧
    (let v := (holding (fun p => { p with em := 101 })).refHeard false 100
     v.pair.held = true ∧ (frame tRenew false 0 1 31250 true).epoch.toNat = v.pair.epoch ∧ 100 < v.pair.em) ∧
    (((holding (fun p => { p with em := 100, extended := true })).refHeard false 100).pair.extended = true) ∧
    (let v := (holding (fun p => { p with em := 100 })).refHeard false 100
     v.pair.em ≤ 100 ∧ v.pair.extended = false) := by
  refine ⟨?_, ?_, ?_, ?_, ?_, ?_, ?_, ?_, ?_, ?_, ?_⟩ <;> decide +kernel

/-- A module in Standby that ARM has reached at time 0, its image the one of the epoch before. -/
def armedAt (image : Option Nat) : State :=
  standing (fun p => { linked p with armed := some (1, 31250, 0), hbFresh := true, reportedArmed := true, image := image })

/-- GO without an ARM and under a lease; too early; in time with the image and without. -/
theorem witness_LeaseCommandsComplete_go :
    (partner.pair.armed = none) ∧ (holder.pair.held = true) ∧
    ((armedAt (some 0)).pair.held = false ∧ (armedAt (some 0)).pair.armed = some (1, 31250, 0) ∧ ¬ 0 + 1250 ≤ 1249) ∧
    (0 + 1250 ≤ 1250 ∧ (armedAt (some 0)).linkUp = true ∧ (armedAt (some 0)).want = true ∧ (armedAt (some 0)).pair.hbFresh = true ∧
      (armedAt (some 0)).pair.reportedArmed = true) ∧
    ((armedAt (some 0)).pair.image = some ((1 + 2 ^ 32 - 1) % 2 ^ 32)) ∧
    ((armedAt none).mirror.ready = false ∧ (armedAt none).pair.image = none) ∧
    (true ≠ holder.pair.refB ∧ holder.island = true ∧ holder.referee = false) ∧
    (((standing (fun p => { p with portA := { p.portA with iso := true } })).refPort false).iso = true) ∧
    ((holder.refPort false).iso = false ∧ holder.pair.refB = false ∧ holder.sys.mode ∉ [Mode.reset, .boot, .startupCal, .isolated]) := by
  refine ⟨?_, ?_, ?_, ?_, ?_, ?_, ?_, ?_, ?_⟩ <;> decide +kernel

/-- A holder that may go on past E_m (R342), at its E_m. -/
def extending (f : Pair → Pair) : State :=
  { holding (fun p => f { p with em := 100, hbFresh := true }) with
    mirror := { holder.mirror with status := some ⟨true, false, false, true, false, 0, 0⟩, statusPrev := some ⟨true, false, false, true, false, 0, 0⟩ } }

theorem witness_LeaseCommandsComplete_end :
    ((extending id).island = true ∧ (extending id).pair.held = true ∧ 99 < (extending id).pair.em ∧ (extending id).pair.em ≤ 100) ∧
    ((extending (fun p => { p with extended := true })).mayExtend = true ∧ (extending (fun p => { p with extended := true })).pair.extended = true) ∧
    ((extending id).mayExtend = true ∧ (extending id).pair.extended = false ∧ (extending id).linkUp = false) ∧
    ((extending linked).linkUp = true) ∧ (holder.mayExtend = false) ∧
    (({ base with clk := { base.clk with vddLease := false } } : State).island = false) ∧ (base.island = true ∧ base.pair.held = false) ∧
    ((holding (fun p => { p with hbFresh := true, claimFrom := 100 })).pair.claimFrom + (holding id).pair.len / 5 ≤ 6350) ∧
    ((holding (fun p => { p with hbFresh := true, claimFrom := 100 })).isoOn = false ∧ 6349 < 100 + (holding id).pair.len / 5) ∧
    ((leased .active).pair.solo = true ∧ (holding id).pair.solo = false) := by
  refine ⟨?_, ?_, ?_, ?_, ?_, ?_, ?_, ?_, ?_, ?_⟩ <;> decide +kernel

/-- Both sites' links are up for so long; a site wants the lease. -/
def sites (since : Nat) (p : Pair) : Pair :=
  { p with portA := { p.portA with up := true, upSince := since, flags := 1 }, portB := { p.portB with up := true, upSince := since } }

theorem witness_RefereeCommandsComplete_start :
    (base.referee = false) ∧ ((judging id).referee = true ∧ (judging id).island = true) ∧
    ((judging (fun p => { p with refReady := true })).pair.refReady = true) ∧
    (let s := judging (sites 1)
     s.pair.refReady = false ∧ ¬ s.pair.portA.upSince + 1875 ≤ 1875 ∧ 1875 < s.pair.refSince + 6250 ∧ s.pair.portA.upSince + 1875 ≤ 1876 ∧
       s.pair.portB.upSince + 1875 ≤ 1876) ∧
    (judging id).pair.refSince + 6250 ≤ 6250 ∧
    (refValid tStatus (frame tStatus true 0x20 1 0 false) = false ∧ refValid tClaim (frame tClaim true 0x20 1 0 false) = false) ∧
    (refValid tStatus (frame tStatus true 0x20 1 0 true) = true ∧ refValid tClaim (frame tClaim true 0x20 1 0 true) = true) ∧
    tb (frame tStatus true 0x20 1 0 true).flags.toNat 5 = true := by
  refine ⟨?_, ?_, ?_, ?_, ?_, ?_, ?_, ?_⟩ <;> decide +kernel

/-- A CLAIM in time and too late, adopted by a referee without a holder, for another site; DRIVING beside a holder and after a lease. -/
theorem witness_RefereeCommandsComplete_claim :
    (let s := judging (fun p => { p with refReady := true, refEpoch := 1, refHolder := some true, refX := 350 })
     s.pair.refReady = true ∧ (frame tClaim true 0x20 1 0 true).epoch.toNat = s.pair.refEpoch ∧ s.pair.refHolder = some (frame tClaim true 0x20 1 0 true).site ∧
       100 + 250 ≤ s.pair.refX ∧ s.pair.refX < 101 + 250) ∧
    ((judging (fun p => { p with refReady := true, refEpoch := 1 })).pair.refHolder = none) ∧
    ((judging (fun p => { p with refReady := true, refHolder := some false })).pair.refHolder = some (!(frame tClaim true 0 1 0 true).site)) ∧
    ((frame tClaim true 0x20 2 0 true).epoch.toNat ≠ 1 ∧ tb (frame tClaim true 0 1 0 true).flags.toNat 5 = false) ∧
    ((judging (fun p => { p with refEnd := [(1, 100)] })).pair.refEnd = [(bit (frame tStatus true 0x20 1 0 true).site, 100)] ∧ 100 + 250 ≤ 350) ∧
    (let s := judging (fun p => { p with refHolder := some true, refX := 350 })
     s.pair.refHolder.isSome = true ∧ s.pair.refX ≤ 350 ∧ 349 < s.pair.refX) := by
  refine ⟨?_, ?_, ?_, ?_, ?_, ?_⟩ <;> decide +kernel

theorem witness_RefereeCommandsComplete_arm :
    (let s := judging (fun p => { sites 0 p with refReady := true })
     (s.islandAt 100).refereeWatch.pair.refArmed = none ∧ (s.islandAt 100).refereeWatch.refereeChoice = some false ∧ s.pair.refReady = true) ∧
    ((judging (fun p => { p with refReady := true })).refereeChoice = none) ∧
    (let s := judging (fun p => { sites 0 p with refReady := true, refArmed := some (false, 100) })
     (s.islandAt 1350).refereeWatch.pair.refArmed = some (false, 100) ∧ (s.islandAt 1350).refereeWatch.pair.refHolder = none ∧ 100 + 1250 ≤ 1350 ∧ 1349 < 100 + 1250) ∧
    ((base.refServed true = false) ∧ (base.refPort false).up = false ∧ ((standing linked).refPort false).up = true ∧ (standing linked).refServed false = true) := by
  refine ⟨?_, ?_, ?_, ?_⟩ <;> decide +kernel

/-! ## The mirror link and planned swaps -/

def hdr (seq : Nat) : MirrorHdr := { seq := BitVec.ofNat 32 seq, frame := 10, epoch := 1 }

/-- What a partner has of the mirror link. -/
def mirrored (f : Mirror → Mirror) : State := { partner with mirror := f partner.mirror }

def frameMsg (seq plate : Nat) : FrameMsg :=
  { frame := 10, time := 20000, seq := BitVec.ofNat 32 seq, plate := plate, bank := false, entry := 0, cycle := 0, mode := 4, arrival := 20000 }

def impression (plate : Nat) : ImpressionMsg := { source := 2, trigger := 0, due := 0, plate := plate, tags := [], snapshot := [] }

/-- No partner; no gap (also at the wrap of SEQ) and a gap; the messages at the bounds of their fields. -/
theorem witness_MirrorMessagesComplete_messages :
    (base.asPartner = false) ∧ (partner.asPartner = true ∧ partner.mirror.seqRx = none) ∧
    (let s := mirrored (fun m => { m with seqRx := some 0xFFFFFFFF })
     s.asPartner = true ∧ (hdr 0).seq.toNat = (0xFFFFFFFF + 1) % 2 ^ 32 ∧ (hdr 1).seq.toNat ≠ (0xFFFFFFFF + 1) % 2 ^ 32) ∧
    ((frameMsg 0xFFFFFFFF 0).seq.toNat = 0xFFFFFFFF) ∧ ((frameMsg 0 512).seq.toNat ≠ 0xFFFFFFFF ∧ 512 ≤ (frameMsg 0 512).plate) ∧
    ((frameMsg 0xFFFFFFFE 511).seq.toNat ≠ 0xFFFFFFFF ∧ (frameMsg 0xFFFFFFFE 511).plate < 512 ∧ partner.mirror.impressions = []) ∧
    ((mirrored (fun m => { m with impressions := [impression 511] })).mirror.impressions.find? (fun i => decide (i.plate = (frameMsg 0 511).plate))
      = some (impression 511)) ∧
    ((mirrored (fun m => { m with named := some (frameMsg 0 511) })).mirror.named = some (frameMsg 0 511) ∧ (frameMsg 0 511).plate = (impression 511).plate) ∧
    (partner.mirror.named = none) := by
  refine ⟨?_, ?_, ?_, ?_, ?_, ?_, ?_, ?_, ?_⟩ <;> decide +kernel

/-- The installs: in mid-frame, at a tick without a partner, nothing there; too early and in time; in a swap, eight frames after it. -/
theorem witness_MirrorMessagesComplete_installs :
    ((partner.atCycle 5).clk.cycle ≠ 0 ∧ partner.clk.cycle = 0 ∧ base.asPartner = false ∧ partner.asPartner = true) ∧
    (partner.mirror.image = none ∧ partner.mirror.loopset = none) ∧
    ((mirrored (fun m => { m with image := some (2, []) })).mirror.image = some (2, []) ∧ ¬ partner.clk.frame < 2 + 8 ∧ partner.clk.frame < 3 + 8) ∧
    (let s := mirrored (fun m => { m with loopset := some (2, []) })
     s.mirror.loopset = some (2, []) ∧ s.pair.swapFrame ≠ some 2 ∧ s.clk.frame < 2 + 64) ∧
    ((standing (fun p => { p with swapFrame := some 2 })).pair.swapFrame = some 2) := by
  refine ⟨?_, ?_, ?_, ?_, ?_⟩ <;> decide +kernel

/-- A planned swap of the holder at frame f. -/
def swapping (f : Nat) (captured ready : Bool) (c : Option CmdRef) : State :=
  holding (fun p => { p with swap := some (2, c, false), swapFrame := some f, swapCaptured := captured, swapReady := ready })

theorem witness_SwapsAndLanesComplete_lanes :
    (partner.mirror.resync = false) ∧ ((mirrored (fun m => { m with resync := true })).mirror.resync = true) ∧
    ((if true then partner.mirror.lane1 else partner.mirror.lane0) = false) ∧
    ((mirrored (fun m => { m with lane1 := true })).mirror.lane0 = true ∧ (mirrored (fun m => { m with lane1 := true })).mirror.lane1 = true) ∧
    (partner.mirror.lane0 ≠ partner.mirror.lane1 ∧ partner.mirror.named = none ∧ partner.pair.held = false) ∧
    (({ partner with clk := { partner.clk with ethref := false } } : State).clk.ethref = false) ∧ (partner.clk.ethref = true) ∧
    (base.paired = false) ∧ (holder.paired = true ∧ holder.pair.held = true ∧ holder.mirrorUp = true ∧ holder.pair.extended = false) ∧
    (holder.mirror.lane0 ≠ holder.mirror.lane1 ∧ holder.mirror.named = none ∧ holder.pair.swap = none) := by
  refine ⟨?_, ?_, ?_, ?_, ?_, ?_, ?_, ?_, ?_, ?_⟩ <;> decide +kernel

/-- STANDBY_STATUS of a partner that asks for a swap and asked for none, with no swap and under one that goes on; a partner that has just become
not READY. -/
theorem witness_SwapsAndLanesComplete_status :
    (let m : StandbyMsg := ⟨true, true, true, true, true, 0, 0⟩
     m.swapReq = true ∧ (∀ x, holder.mirror.status = some x → x.swapReq = false) ∧ m.ready = true ∧ m.armed = true) ∧
    (holder.pair.swap = none ∧ (swapping 2 false false none).pair.swap = some (2, none, false) ∧ (swapping 2 false false none).pair.extended = false) ∧
    (∀ x, holder.mirror.status = some x → x.ready = true) := by
  refine ⟨⟨rfl, ?_, rfl, rfl⟩, ?_, ?_⟩
  · intro x h; cases h; rfl
  · decide +kernel
  · intro x h; cases h; rfl

theorem witness_SwapsAndLanesComplete_swaps :
    (partner.pair.held = false) ∧
    ((swapping 10 false false none).pair.held = true ∧ (swapping 10 false false none).pair.swapCaptured = false ∧
      (swapping 10 false false none).pair.swapFrame = some (swapping 10 false false none).clk.frame) ∧
    ((swapping 2 true true none).pair.swap = some (2, none, false) ∧ (swapping 2 true true none).pair.swapCaptured = true ∧
      (swapping 2 true true none).pair.swapReady = true ∧ (swapping 2 true true none).partnerReady = true ∧ 2 + 8 ≤ (swapping 2 true true none).clk.frame) ∧
    (({ swapping 2 true true none with mirror := { Mirror.init with lane0 := true } } : State).partnerReady = false) ∧
    ((swapping 3 true true none).clk.frame < 3 + 8) ∧
    (partner.pair.swap = none ∧ partner.pair.swapReq = none) ∧ ((swapping 2 false false none).clk.frame < 2 + 500000) ∧
    (let s : State := { swapping 2 false false (some (refOf 0x0092 (cmd 0 0 []))) with clk := { base.clk with frame := 500002 } }
     2 + 500000 ≤ s.clk.frame ∧ s.pair.swapCaptured = false ∧ s.pair.swap = some (2, some (refOf 0x0092 (cmd 0 0 [])), false)) ∧
    ((standing (fun p => { p with swapReq := some (2, some (refOf 0x0092 (cmd 0 0 []))) })).pair.swapReq = some (2, some (refOf 0x0092 (cmd 0 0 [])))) := by
  refine ⟨?_, ?_, ?_, ?_, ?_, ?_, ?_, ?_, ?_⟩ <;> decide +kernel

/-! ## Fabric time, and frames of the REF ports -/

/-- A PTP port that is up and on, with an exchange as given; port 0 is under peer delay where asked. -/
def ptpOf (p2p : Bool) (f : PtpPort → PtpPort) : State :=
  { base with ft := { base.ft with port0 := f { base.ft.port0 with up := true, config := BitVec.ofNat 36 (1 + 2 * bit p2p + 2 ^ 35) } } }

def announce (priority : Nat) (logInterval : Int) : Announce :=
  { priority1 := priority, clockClass := 6, accuracy := 0x20, variance := 0, priority2 := 128, gm := BitVec.ofNat 64 priority, steps := 0,
    logInterval := logInterval }

/-- The header of a message of a sender, on the transport and in the domain of `ptpOf`. -/
def ptpHdr (sender : Nat) : PtpHdr := { transport := 0, vid := none, domain := 0, sender := BitVec.ofNat 80 sender }

/-- Port 0 follows sender 2; the Announce of sender 2. -/
def following (p2p : Bool) (f : PtpPort → PtpPort) : State := ptpOf p2p (fun p => f { p with best := some (2, announce 2 0) })

/-- A Sync of sequence 1 that waits for its Follow_Up or not; a request of sequence 1. -/
def aSync (waits : Bool) : PtpSync := { seq := 1, t1 := 0, t2 := 0, corr := 0, log := 0, waits := waits, ingress := 0, egress := 0, asymmetry := 0 }

def aReq : PtpReq := { seq := 1, t := 0, ingress := 0, egress := 0 }

/-- A port that is off; messages of another transport, VLAN and domain; the bounds of the intervals; a master that is better, worse and the same. -/
theorem witness_TimeCommandsComplete_announce :
    (base.ptpOn false = false ∧ base.ptpHears false (ptpHdr 1) = false) ∧
    ((ptpOf false id).ptpHears false (ptpHdr 1) = true ∧ (ptpOf false id).ptpHears false { ptpHdr 1 with transport := 1 } = false ∧
      (ptpOf false id).ptpHears false { ptpHdr 1 with vid := some 0 } = false ∧ (ptpOf false id).ptpHears false { ptpHdr 1 with domain := 1 } = false ∧
      ((ptpOf false id).ptp false).best = none) ∧
    ((announce 1 (-4)).logInterval < -3 ∧ 4 < (announce 1 5).logInterval) ∧ (-3 ≤ (announce 1 (-3)).logInterval ∧ (announce 1 4).logInterval ≤ 4) ∧
    (((following false id).ptp false).best = some (2, announce 2 0) ∧ (ptpHdr 2).sender = 2 ∧ (ptpHdr 1).sender ≠ 2 ∧
      announceWins (1, announce 1 0) (2, announce 2 0) = true ∧ announceWins (3, announce 3 0) (2, announce 2 0) = false) := by
  refine ⟨?_, ?_, ?_, ?_, ?_⟩ <;> decide +kernel

/-- The exchanges of sequence 1: no Sync, one that waits, one that is there; a response that comes before the Follow_Up and after it; peer delay. -/
theorem witness_TimeCommandsComplete_exchange :
    (((ptpOf false id).ptp false).fromMaster (ptpHdr 2) = false ∧ ((following false id).ptp false).fromMaster (ptpHdr 2) = true ∧
      ((following false id).ptp false).sync = none) ∧
    (((following false (fun p => { p with sync := some (aSync true) })).ptp false).sync = some (aSync true) ∧ (aSync true).waits = true ∧ (aSync true).seq = 1) ∧
    (let p := (following false (fun p => { p with req := some aReq, sync := some (aSync false) })).ptp false
     p.p2p = false ∧ p.req = some aReq ∧ p.sync = some (aSync false) ∧ (aSync false).waits = false ∧ aReq.seq = 1 ∧ p.fromMaster (ptpHdr 2) = true) ∧
    (let p := (following false (fun p => { p with req := some aReq, sync := some (aSync true) })).ptp false
     p.p2p = false ∧ p.req = some aReq ∧ p.sync = some (aSync true)) ∧
    (((ptpOf true id).ptp false).p2p = true ∧ ((ptpOf true id).ptp false).req = none) ∧
    (((ptpOf true (fun p => { p with req := some aReq })).ptp false).req = some aReq ∧ aReq.seq ≠ 2) ∧
    (((ptpOf true (fun p => { p with req := some aReq, pdelay := some (1, 0, 0, 0) })).ptp false).pdelay = some (1, 0, 0, 0)) := by
  refine ⟨?_, ?_, ?_, ?_, ?_, ?_, ?_⟩ <;> decide +kernel

/-- Requests: the first of a port, one whose interval has not passed and one whose interval has; masters that fall silent and masters that do not. -/
theorem witness_TimeCommandsComplete_timeouts :
    (((ptpOf true id).ptpOn false = true) ∧ ((ptpOf true id).ptp false).reqSeq = 0) ∧
    (let s (at' : Nat) := ptpOf true (fun p => { p with reqSeq := 1, reqLog := 0, reqAt := at' })
     (s 20000).ns < ((s 20000).ptp false).reqAt + logInterval ((s 20000).ptp false).reqLog ∧
     (let u := { s 0 with ft := { (s 0).ft with t := 1000000000 * 2 ^ 48 } }
      (u.ptp false).reqAt + logInterval (u.ptp false).reqLog ≤ u.ns)) ∧
    ((following false id).sys.restarting = false ∧ ({ base with sys := { base.sys with restarting := true } } : State).sys.restarting = true) ∧
    (let u := { following false (fun p => { p with config := BitVec.ofNat 36 (1 + 2 * 2 ^ 27), syncSeen := true, syncLog := -7 }) with
       ft := { (following false (fun p => { p with config := BitVec.ofNat 36 (1 + 2 * 2 ^ 27), syncSeen := true, syncLog := -7 })).ft with t := 1999999999 * 2 ^ 48 } }
     (u.ptp false).best = some (2, announce 2 0) ∧
     u.ns < (u.ptp false).annAt + fld (u.ptp false).config.toNat 27 8 * logInterval (announce 2 0).logInterval ∧
     (u.ptp false).syncSeen = true ∧ (u.ptp false).syncAt + 16 * logInterval (u.ptp false).syncLog ≤ u.ns ∧
     (u.ptp false).annAt + fld (u.ptp false).config.toNat 27 8 * logInterval (announce 2 0).logInterval ≤ 2000000000) ∧ base.clk.ethref = true := by
  refine ⟨?_, ?_, ?_, ?_, ?_⟩ <;> decide +kernel

/-- Fabric time with lines as given, in 1 ms and later. -/
def lines (ns : Nat) (f : FabTime → FabTime) : State := { base with ft := f { base.ft with t := ns * 2 ^ 48 } }

/-- PPS_IN: an edge near the one before, with a glitch or a held edge, and neither; a held edge early, in time and accepted, in time and rejected. -/
theorem witness_TimeCommandsComplete_pps :
    (let s := lines 1000000 (fun t => { t with ppsEdge := some 1, ppsGlitch := true })
     s.ft.ppsEdge = some 1 ∧ s.ns < 1 + 1000000 ∧ s.ft.ppsGlitch = true) ∧
    (base.ft.ppsEdge = none ∧ base.ft.ppsHeld = none) ∧
    (let s := lines 1000000 (fun t => { t with ppsEdge := some 0, ppsHeld := some 65536000, source := .pps })
     s.ft.ppsHeld = some 65536000 ∧ s.ft.ppsEdge = some 0 ∧ 0 + 1000000 ≤ s.ns ∧ (fromSecond 65536000).natAbs ≤ 65536000) ∧
    (65536000 < (fromSecond 65536001).natAbs) ∧
    (let s := lines 1000000 (fun t => { t with ppsEdge := some 0, ppsHeld := some 65536001, source := .pps })
     s.ft.source = .pps ∧ s.ft.state = .freerun ∧ s.ft.stepThreshold * 65536 < (fromSecond 65536001).natAbs) ∧
    (let s := lines 2000000000 (fun t => { t with ppsLast := 0, source := .pps, state := .locked, ppsLost := false })
     s.ft.ppsLost = false ∧ s.ft.ppsLast + 2000000000 ≤ s.ns ∧ s.ft.source = .pps ∧ s.sys.restarting = false ∧ s.ft.state = .locked) ∧
    ((lines 1999999999 id).ns < (lines 0 id).ft.ppsLast + 2000000000 ∧ (lines 0 (fun t => { t with ppsLost := true })).ft.ppsLost = true) := by
  refine ⟨?_, ?_, ?_, ?_, ?_, ?_, ?_⟩ <;> decide +kernel

/-- PPS_OUT off, on, gated; SYNC_IN near the edge before, later, stuck; steps that wait. -/
theorem witness_TimeCommandsComplete_lines :
    (tb base.ft.ppsOut.toNat 0 = false) ∧
    (let s := lines 1000000000 (fun t => { t with ppsOut := 1, ppsOutNext := 1 })
     tb s.ft.ppsOut.toNat 0 = true ∧ s.ft.ppsOutNext ≤ s.ppsSecond ∧ tb s.ft.ppsOut.toNat 1 = false) ∧
    (let s := lines 999999999 (fun t => { t with ppsOut := 1, ppsOutNext := 1 })
     s.ppsSecond < s.ft.ppsOutNext) ∧
    (let s := lines 1000000000 (fun t => { t with ppsOut := 3, ppsOutNext := 1 })
     tb s.ft.ppsOut.toNat 1 = true ∧ s.ft.state ≠ .locked ∧ s.ft.state ≠ .holdover) ∧
    (let s (n : Nat) := lines n (fun t => { t with syncLine := true, syncTime := 5000 })
     (((s 3001).ns : Int) - (s 3001).ft.syncTime).natAbs < 2000 ∧ (((s 6999).ns : Int) - (s 6999).ft.syncTime).natAbs < 2000 ∧
     2000 ≤ (((s 7000).ns : Int) - (s 7000).ft.syncTime).natAbs ∧ 2000 ≤ (((s 3000).ns : Int) - (s 3000).ft.syncTime).natAbs) ∧
    (let s (n : Nat) : State := { lines 0 (fun t => { t with syncLine := true }) with clk := { base.clk with ticks := n } }
     (s 500000).ft.syncTick + 500000 ≤ (s 500000).clk.ticks ∧ (s 500000).ft.syncStuck = false ∧ (s 499999).clk.ticks < (s 499999).ft.syncTick + 500000) ∧
    (let s := lines 0 (fun t => { t with step := some { absolute := some 5, offset := 0, cmd := none, armed := true } })
     s.ft.step = some { absolute := some 5, offset := 0, cmd := none, armed := true } ∧ s.pair.held = false ∧ s.runs = true) ∧
    ((lines 0 (fun t => { t with step := some { absolute := none, offset := 1, cmd := none, armed := false } })).ft.step
      = some { absolute := none, offset := 1, cmd := none, armed := false }) := by
  refine ⟨?_, ?_, ?_, ?_, ?_, ?_, ?_, ?_⟩ <;> decide +kernel

/-- Each field at its greatest value. -/
theorem witness_RefFrameLayout :
    0xFF < 2 ^ 8 ∧ 0xFFFF < 2 ^ 16 ∧ 0xFFFFFFFF < 2 ^ 32 ∧
    fieldB (refBytes 0xFF true 0xFFFF 0xFFFFFFFF 0xFFFFFFFF 0xFFFF) 0x0C 2 = 0xFFFF ∧ refValid tClaim (frame tClaim true 0x20 1 0 true) = true := by
  decide +kernel

/-! ## Commands that name no unit of the module -/

/-- A request of a domain that the module does not have. -/
def farRequest : RequestMsg :=
  { dom := 128, queue := 0, head := 0, qstate := 0, descs := [], granted := none, balC := 0, balP := 0, tagF := 0, tagV := 0 }

/-- For each check the first value that it refuses (R99, R116, R190, R385, R386, R396, R463, R473, R544, R595). -/
theorem test_illFormed :
    WellFormed (.conversionBoundary 136 0) = false ∧ WellFormed (.readbackConversion 8 ⟨0, 0⟩) = false ∧
    WellFormed (.rangeChangeRelease 4607) = false ∧ WellFormed (.rangeChangeRelease 10240) = false ∧ WellFormed (.evStatusClear 0 10 0) = false ∧
    WellFormed (.calInForce 8 ⟨[], [], [], [], [], [], []⟩) = false ∧ WellFormed (.calInForce 0x1A0 ⟨[], [], [], [], [], [], []⟩) = false ∧
    WellFormed (.calInForce 0x208 ⟨[], [], [], [], [], [], []⟩) = false ∧ WellFormed (.calInForce 0x301 ⟨[], [], [], [], [], [], []⟩) = false ∧
    WellFormed (.msixUnmask 0 3) = false ∧ WellFormed (.masterResetMidBurst 10) = false ∧ WellFormed (.busErrorAccess 10 true .tcm) = false ∧
    WellFormed (.voltSample (List.replicate 23 0)) = false ∧ WellFormed (.procMonitorCount (List.replicate 17 0)) = false ∧
    (let tick (n : Nat) (r : List Nat) (u c : List (Nat × Nat)) (e : List EccError) := Instr.frameTick ⟨List.replicate n 0, r, u, c, e⟩
     WellFormed (tick 31 [] [] [] []) = false ∧ WellFormed (tick 32 [10240] [] [] []) = false ∧ WellFormed (tick 32 [] [(18, 0)] [] []) = false ∧
     WellFormed (tick 32 [] [] [(4608, 0)] []) = false ∧ WellFormed (tick 32 [] [] [] [.channel 10240]) = false ∧
     WellFormed (tick 32 [] [] [] [.queue 128 0]) = false ∧ WellFormed (tick 32 [] [] [] [.queue 0 512]) = false ∧
     WellFormed (tick 32 [] [] [] [.plate 262144 true]) = false ∧
     WellFormed (tick 32 [10239] [(17, 0)] [(4607, 0)] [.corrected, .channel 10239, .queue 127 511, .plate 262143 true]) = true) := by decide +kernel

theorem test_illFormed_mirror :
    WellFormed (.mirrorPlate (hdr 0) 512 0 []) = false ∧ WellFormed (.mirrorPlate (hdr 0) 0 4096 [0]) = false ∧
    WellFormed (.mirrorRequest (hdr 0) farRequest) = false ∧ WellFormed (.mirrorCompletion (hdr 0) 128 0 0) = false ∧
    WellFormed (.mirrorPin (hdr 0) 4608 none) = false ∧ WellFormed (.mirrorImage (hdr 0) 0 10 (List.replicate 1024 0)) = false ∧
    WellFormed (.mirrorImage (hdr 0) 0 9 (List.replicate 1023 0)) = false ∧ WellFormed (.mirrorLoopset (hdr 0) 0 32 (List.replicate 2032 0)) = false ∧
    WellFormed (.mirrorLoopset (hdr 0) 0 31 (List.replicate 2031 0)) = false := by decide +kernel

/-- The last value that each check takes. -/
theorem test_wellFormed_bounds :
    WellFormed (.conversionBoundary 135 0) = true ∧ WellFormed (.rangeChangeRelease 4608) = true ∧ WellFormed (.rangeChangeRelease 10239) = true ∧
    WellFormed (.evStatusClear 0 9 0) = true ∧ WellFormed (.calInForce 0x19F ⟨[], [], [], [], [], [], []⟩) = true ∧ WellFormed (.msixUnmask 0 2) = true ∧
    WellFormed (.voltSample (List.replicate 24 0)) = true ∧ WellFormed (.mirrorPlate (hdr 0) 511 4095 [0]) = true := by decide +kernel

/-- A core that the module does not have. -/
theorem test_conversion_noSuchUnit : exec (.conversionBoundary 136 0) base = .fault .noSuchUnit := rfl

/-! ## Results that the manual works out, and published check values -/

/-- The check values of CRC-16/CCITT-FALSE and CRC-32 over the digits 1 to 9 (R331, R442). -/
theorem test_crc : crc16 [0x31, 0x32, 0x33, 0x34, 0x35, 0x36, 0x37, 0x38, 0x39] = 0x29B1 ∧
    crc32 [0x31, 0x32, 0x33, 0x34, 0x35, 0x36, 0x37, 0x38, 0x39] = 0xCBF43926 := by decide +kernel

/-- Frame lengths under a fast rate (The Frame and the Architecture): +400 ppm, fabric time 0 at tick 0; 5,998 cycles to tick 1 and 5,997 to tick 3. -/
def fast (k cycles : Nat) : State :=
  { base with clk := { base.clk with frame := k }, ft := { FabTime.init with inc := incOf 409600000, t := cycles * incOf 409600000 } }

theorem test_frameTick_fast : (fast 0 0).toTick = 5998 ∧ (fast 1 5998).toTick = 5998 ∧ (fast 2 11996).toTick = 5997 ∧ (fast 4 23991).toTick = 5998 := by
  decide +kernel

/-- Tracing a path (The Fabric Model): input 300 of a 512-port Beneš+1 fabric, cross at stage 0 and bar after it, passes cells (0, 150), (1, 203)
and (2, 165). -/
theorem test_trace : ((geoOf (List.replicate 0x11 0 ++ [2, 1]) false).trace (2 ^ 150) 300).1.take 3 = [150, 256 + 203, 512 + 165] := by decide +kernel

/-- A range change from 20 mA to 32 mA takes code 40,001 to 25,001 (R78). -/
theorem test_rangeChange_rescale : rescale 40001 10 16 = (25001, false) := by decide +kernel

/-- One tone value (R91, R92): m = 37, A = 120, φ = 0 in frame 1,000,000 give −111. -/
theorem test_tone : ({ DriveCh.init with m := 37, a := 120 } : DriveCh).tone 1000000 = -111 := by decide +kernel

/-- Burst, debt and a rate change (R269, R271): C −4 and P 4 changes become −1 and 8 when CIR is set to 3 changes. -/
def debt : Domain :=
  { Domain.init 3 with cir := 512, pir := 1536, cbs := 4, pbs := 8, balC := -1024, balP := 1024, nextRates := some (768, 1536, 4, 8) }

theorem test_tokenRefill : debt.refill.balC = -256 ∧ debt.refill.balP = 2048 ∧ debt.refill.nextRates = none := by decide +kernel

/-- The slot of the swap (Mailbox Commands): its bytes from 0x00 to 0x07 and from 0x18 to 0x2F. -/
def swapCmd : MbCmd :=
  { src := .fn 0, length := 24, notify := true, token := 0xA51, bufAddr := 0, bufLength := 0,
    payload := bytes [(0, 12), (2, 7), (4, 2), (8, 5), (9, 8), (10, 9), (12, 0xFED4), (16, 9), (18, 5), (20, 0xFED4)] }

theorem test_slotWord :
    bytesLE 8 (slotWord 0x0023 swapCmd).toNat = [0x23, 0x00, 0x18, 0x01, 0x51, 0x0A, 0x00, 0x00] ∧
    bytesLE 24 (fld (slotWord 0x0023 swapCmd).toNat (8 * 0x18) 192) =
      [0x0C, 0x00, 0x07, 0x00, 0x02, 0x00, 0x00, 0x00, 0x05, 0x08, 0x09, 0x00, 0xD4, 0xFE, 0x00, 0x00, 0x09, 0x00, 0x05, 0x00, 0xD4, 0xFE, 0x00, 0x00] := by
  decide +kernel

/-- An urgent plate load that faults (R480): URGENT, CLIENT 3, REASON 4, IOVA 0x40_8020_0000. -/
theorem test_faultData : faultData (xfer 5 (.read (refOf 0x0020 swapCmd) (.plate 40 0)) true false 0 false) 4 0x4080200000 = 0x2304004080200000 := by
  decide +kernel

/-- A swap against a base (The Burin Engine and Plates): the plate with 5 and 9 exchanged differs from the identity in cells 529, 2,068 and 2,321,
and only circuit 13 is disturbed. -/
def geo64 : Geo := { ports := 64, n := 6, stages := 12, mid := 6, plus := true }

def identity : PlateImg := { perm := List.range 64 ++ List.replicate 448 0x3FF, cells := 0, targets := [] }

def swapped : List Nat := (List.range 64).map (fun i => if i = 5 then 9 else if i = 9 then 5 else i)

theorem test_routeJob_swap :
    (routeJob [] geo64 swapped (some identity) 0 0).cells = 2 ^ 529 + 2 ^ 2068 + 2 ^ 2321 ∧
    disturbed geo64 (some identity) (routeJob [] geo64 swapped (some identity) 0 0) = [13] ∧
    cellsChanged geo64 (some identity) (routeJob [] geo64 swapped (some identity) 0 0) = 3 := by decide +kernel

end Sys2Proof.Tests
end

section
/-! Reads of BAR0 and of configuration space (R7, R461, R465 to R474, R491, R556 to R559, R595): which command each offset is, the
fields that a read clears, and the offsets whose read changes nothing but the output. -/

namespace Sys2Proof.Machine

theorem exec_clearedByRead (r : RcReg) (s : State) : exec (.clearedByRead r) s = execClearedByRead r s := rfl

theorem fn_toNat_eq_zero_iff (fn : BitVec 7) : fn.toNat = 0 ↔ fn = 0 := by
  rw [← BitVec.toNat_inj]; rfl

theorem testBit_bit_zero (b : Bool) : (bit b).testBit 0 = b := by cases b <;> rfl

theorem testBit_pack_cons (w v i : Nat) (r : List (Nat × Nat)) :
    (pack ((w, v) :: r)).testBit i = if i < w then v.testBit i else (pack r).testBit (i - w) := by
  rw [pack_cons, Nat.add_comm, Nat.testBit_two_pow_mul_add _ (Nat.mod_lt _ (Nat.two_pow_pos w)), Nat.testBit_mod_two_pow]
  by_cases hi : i < w <;> simp [hi]

/-! ## Registers whose read clears a field (R7) -/

theorem exec_mbStatus_read {s : State} {fn : BitVec 7} (hd : s.decodes fn.toNat = true) :
    exec (.clearedByRead (.mbStatus fn)) s =
      .next ((s.emit (.regRead (s.mbStatus fn.toNat))).setFn fn.toNat { s.fn fn.toNat with dbIgnored := false }) := by
  rw [exec_clearedByRead, execClearedByRead, if_pos hd]; rfl

theorem exec_evRingStatus_read {s : State} {fn : BitVec 7} (hd : s.decodes fn.toNat = true) :
    exec (.clearedByRead (.evRingStatus fn)) s =
      .next ((s.emit (.regRead (s.evRingStatus fn.toNat))).setFn fn.toNat { s.fn fn.toNat with ringLost := false }) := by
  rw [exec_clearedByRead, execClearedByRead, if_pos hd]; rfl

theorem exec_pcOverflow_read {s : State} {fn : BitVec 7} (hd : s.decodes fn.toNat = true) (n : BitVec 3) :
    exec (.clearedByRead (.pcOverflow fn n)) s = .next (if fn = 0 then s.readOvf n.toNat else s.emit (.regRead 0)) := by
  rw [exec_clearedByRead, execClearedByRead]
  simp only [hd, Bool.not_true, Bool.false_eq_true, if_false]
  split <;> rfl

theorem exec_flashStatus_read {s : State} (hd : s.decodes 0 = true) :
    exec (.clearedByRead .flashStatus) s = .next s.readFlashStatus := by
  rw [exec_clearedByRead, execClearedByRead, if_pos hd]

theorem exec_tmNsRead {s : State} {fn : BitVec 7} (hd : s.decodes fn.toNat = true) :
    exec (.tmNsRead fn) s =
      .next ((s.modFn fn.toNat (fun f => { f with frameLat := BitVec.ofNat 32 s.frame32 })).returns (s.ns % 2 ^ 32)) := by
  obtain ⟨hp, hd3⟩ := decodes_iff hd
  change execTmNsRead fn s = _
  simp [execTmNsRead, hp, hd3]

theorem exec_pcCycleLoRead {s : State} {fn : BitVec 7} (hd : s.decodes fn.toNat = true) :
    exec (.pcCycleLoRead fn) s = .next (if fn = 0 then s.readPcCycle else s.returns 0) := by
  change execPcCycleLoRead fn s = _
  simp only [execPcCycleLoRead, hd, Bool.not_true, Bool.false_eq_true, if_false]
  split <;> rfl

theorem exec_countLoRead {s : State} {fn : BitVec 7} (hd : s.decodes fn.toNat = true) (n : BitVec 3) :
    exec (.countLoRead fn n) s = .next (if fn = 0 then s.readCount n.toNat else s.returns 0) := by
  change execCountLoRead fn n s = _
  simp only [execCountLoRead, hd, Bool.not_true, Bool.false_eq_true, if_false]
  split <;> rfl

theorem mbStatus_fields (s : State) (n : Nat) :
    (s.mbStatus n).testBit 0 = (s.fn n).cmdFull ∧ (s.mbStatus n).testBit 1 = (s.fn n).rspValid ∧
    (s.mbStatus n).testBit 2 = s.sys.restarting ∧ (s.mbStatus n).testBit 3 = s.sys.bootFailed ∧
    (s.mbStatus n).testBit 12 = (s.fn n).dbIgnored ∧ s.mbStatus n / 2 ^ 16 = (s.fn n).lastSeq.toNat := by
  refine ⟨?_, ?_, ?_, ?_, ?_, ?_⟩
  case refine_6 =>
    have hseq := (s.fn n).lastSeq.isLt
    simp only [State.mbStatus, pack]
    omega
  all_goals simp [-Nat.testBit_zero, State.mbStatus, testBit_pack_cons, testBit_bit_zero]

theorem evRingStatus_fields (s : State) (n : Nat) :
    (s.evRingStatus n).testBit 0 = decide ((s.fn n).ringK ≠ 0) ∧ (s.evRingStatus n).testBit 1 = (s.fn n).ringLost ∧
    (s.evRingStatus n).testBit 2 = (s.xlate n).stopped ∧ s.evRingStatus n < 8 := by
  refine ⟨?_, ?_, ?_, pack_lt _⟩
  all_goals simp [-Nat.testBit_zero, State.evRingStatus, testBit_pack_cons, testBit_bit_zero, bne, beq_eq_decide]

/-- The high word of a counter: OVF clears, and no other counter changes (R559). -/
theorem readOvf_effect (s : State) (n : Nat) :
    (s.readOvf n).host.out = s.host.out ++ [.regRead ((rd s.host.perf n .init).hi + bit (rd s.host.perf n .init).ovf * 2 ^ 31)] ∧
    (∀ k, rd (s.readOvf n).host.perf k .init = if k = n then { rd s.host.perf k .init with ovf := false } else rd s.host.perf k .init) ∧
    s.readOvf n = { s with host := { s.host with perf := (s.readOvf n).host.perf, out := (s.readOvf n).host.out } } := by
  refine ⟨rfl, fun k => ?_, rfl⟩
  change rd (wr s.host.perf n _) k .init = _
  rw [rd_wr]
  by_cases hk : n = k
  · subst hk; simp
  · rw [if_neg hk, if_neg (Ne.symm hk)]

theorem readFlashStatus_of_booted {s : State} (hb : s.sys.bootFailed = false) : s.readFlashStatus = s.emit (.regRead 0) := by
  simp [State.readFlashStatus, State.flashStatus, hb, State.returns]

theorem readFlashStatus_of_bootFailed {s : State} (hb : s.sys.bootFailed = true) :
    s.readFlashStatus =
      { s with
        sys := { s.sys with recoveryError := false }
        host := { s.host with out := s.host.out ++
          [.regRead (1 + 2 * bit (decide (s.sys.recoveryOp ≠ 0)) + 4 * bit s.sys.recoveryError)] } } := by
  have hv : s.flashStatus = 1 + 2 * bit (decide (s.sys.recoveryOp ≠ 0)) + 4 * bit s.sys.recoveryError := by
    rw [State.flashStatus, if_pos hb]
    cases s.sys.recoveryError <;> by_cases hop : s.sys.recoveryOp = 0 <;> simp [pack, bit, hop]
  rw [State.readFlashStatus, if_pos hb, ← hv]; rfl

/-! ## Words of BAR0 that a read leaves as they are -/

theorem exec_bar0_read {s : State} {fn : BitVec 7} {off : BitVec 16} (hd : s.decodes fn.toNat = true) (ha : off.toNat % 4 = 0) :
    exec (.clearedByRead (.bar0 fn off)) s = .next (s.readBar0 fn.toNat off.toNat) := by
  rw [exec_clearedByRead, execClearedByRead, if_pos (by simp [hd, ha])]

theorem exec_bar0_read_misaligned (s : State) (fn : BitVec 7) {off : BitVec 16} (ha : off.toNat % 4 ≠ 0) :
    exec (.clearedByRead (.bar0 fn off)) s = .next s := by
  rw [exec_clearedByRead, execClearedByRead, if_neg (by simp [ha])]

/-- A read of this word of function n's BAR0 clears no field and latches none. -/
def ReadIsPlain (n o : Nat) : Prop :=
  o ≠ 0x184 ∧ o ≠ 0x288 ∧ o ≠ 0x1000 ∧ (n = 0 → o ≠ 0x2000 ∧ (o < 0x2200 ∨ 0x2240 ≤ o))

theorem readBar0_of_plain (s : State) {n o : Nat} (h : ReadIsPlain n o) : s.readBar0 n o = s.emit (.regRead (s.bar0Word n o)) := by
  obtain ⟨h184, h288, h1000, hpf⟩ := h
  rw [State.readBar0, if_neg h184, if_neg h288, if_neg h1000, if_neg (by omega), if_neg (by omega)]
  rfl

/-- The word at an offset of function n's BAR0 holds v, and a read of it does nothing else. -/
def State.Shows (s : State) (n o v : Nat) : Prop := o % 4 = 0 ∧ ReadIsPlain n o ∧ s.bar0Word n o = v

theorem exec_bar0_of_shows {s : State} {fn : BitVec 7} {off : BitVec 16} {o u v : Nat} (hd : s.decodes fn.toNat = true)
    (ho : off.toNat = o) (hv : v = u) (h : s.Shows fn.toNat o u) :
    exec (.clearedByRead (.bar0 fn off)) s = .next (s.emit (.regRead v)) := by
  obtain ⟨ha, hplain, hw⟩ := h
  subst ho hv
  rw [exec_bar0_read hd ha, readBar0_of_plain s hplain, hw]

section
variable (s : State) (n : Nat)

theorem shows_id : s.Shows n 0 0x00A05124 := ⟨rfl, by simp [ReadIsPlain], rfl⟩

theorem shows_epoch : s.Shows n 0x1C (s.pair.epoch % 2 ^ 32) := ⟨rfl, by simp [ReadIsPlain], rfl⟩

theorem shows_cmd {w : Nat} (hw : w < 16) : s.Shows n (0x100 + 4 * w) (fld (s.fn n).cmd.toNat (32 * w) 32) := by
  refine ⟨by omega, by unfold ReadIsPlain; omega, ?_⟩
  have hbit : 8 * (0x100 + 4 * w - 0x100) = 32 * w := by omega
  simp (disch := omega) only [State.bar0Word, if_neg, if_pos, hbit]

theorem shows_rsp {w : Nat} (hw : w < 16) : s.Shows n (0x140 + 4 * w) (fld (s.fn n).rsp.toNat (32 * w) 32) := by
  refine ⟨by omega, by unfold ReadIsPlain; omega, ?_⟩
  have hbit : 8 * (0x140 + 4 * w - 0x140) = 32 * w := by omega
  simp (disch := omega) only [State.bar0Word, if_neg, if_pos, hbit]

theorem shows_evStatus {w : Nat} (hw : w < 10) : s.Shows n (0x200 + 4 * w) (fld (s.fn n).evStatus.toNat (32 * w) 32) := by
  refine ⟨by omega, by unfold ReadIsPlain; omega, ?_⟩
  have hbit : 8 * (0x200 + 4 * w - 0x200) = 32 * w := by omega
  simp (disch := omega) only [State.bar0Word, if_neg, if_pos, hbit]

theorem shows_evEnable {w : Nat} (hw : w < 10) : s.Shows n (0x240 + 4 * w) (fld (s.fn n).evEnable.toNat (32 * w) 32) := by
  refine ⟨by omega, by unfold ReadIsPlain; omega, ?_⟩
  have hbit : 8 * (0x240 + 4 * w - 0x240) = 32 * w := by omega
  simp (disch := omega) only [State.bar0Word, if_neg, if_pos, hbit]

theorem shows_qdCplHead : s.Shows n 0x188 ((s.domain n).cHead % 65536) := ⟨rfl, by simp [ReadIsPlain], rfl⟩

theorem shows_ringTail : s.Shows n 0x280 ((s.fn n).ringTail % 65536) := ⟨rfl, by simp [ReadIsPlain], rfl⟩

theorem shows_ringHead : s.Shows n 0x284 ((s.fn n).ringHead % 65536) := ⟨rfl, by simp [ReadIsPlain], rfl⟩

theorem shows_tmFrame : s.Shows n 0x1004 s.frame32 := ⟨rfl, by simp [ReadIsPlain], rfl⟩

theorem shows_tmAdj : s.Shows n 0x1008 (if n = 0 then unsigned 32 s.ft.freq else 0) := ⟨rfl, by simp [ReadIsPlain], rfl⟩

theorem shows_tmStatus : s.Shows n 0x100C s.tmStatus := ⟨rfl, by simp [ReadIsPlain], rfl⟩

theorem shows_tmFrameLat : s.Shows n 0x1010 (s.fn n).frameLat.toNat := ⟨rfl, by simp [ReadIsPlain], rfl⟩

theorem shows_paShadow {k : Nat} (hk : k < 4) :
    s.Shows n (0x3000 + 4 * k) (if n = 0 then (s.host.shadow[k]?).getD 0 else 0) := by
  refine ⟨by omega, by unfold ReadIsPlain; omega, ?_⟩
  have hreg : (0x3000 + 4 * k - 0x3000) / 4 = k := by omega
  simp (disch := omega) only [State.bar0Word, State.paWord, if_neg, if_pos, hreg]

theorem shows_paActive {k : Nat} (hk : k < 4) :
    s.Shows n (0x3020 + 4 * k) (if n = 0 then (s.host.active[k]?).getD 0 else 0) := by
  refine ⟨by omega, by unfold ReadIsPlain; omega, ?_⟩
  have hreg : (0x3020 + 4 * k - 0x3000) / 4 = k + 8 := by omega
  simp (disch := omega) only [State.bar0Word, State.paWord, if_neg, if_pos, hreg, Nat.add_sub_cancel]

theorem shows_msixData {k : Nat} (hk : k < 3) : s.Shows n (0x8008 + 16 * k) (fld (rd (s.fn n).vData k 0) 0 32) := by
  refine ⟨by omega, by unfold ReadIsPlain; omega, ?_⟩
  have hvec : (0x8008 + 16 * k - 0x8000) / 16 = k := by omega
  have hword : (0x8008 + 16 * k - 0x8000) % 16 / 4 = 2 := by omega
  simp (disch := omega) only [State.bar0Word, if_neg, if_pos, hvec, hword]
  rfl

theorem shows_msixMask {k : Nat} (hk : k < 3) : s.Shows n (0x800C + 16 * k) (bit ((s.fn n).vMask.getLsbD k)) := by
  refine ⟨by omega, by unfold ReadIsPlain; omega, ?_⟩
  have hvec : (0x800C + 16 * k - 0x8000) / 16 = k := by omega
  have hword : (0x800C + 16 * k - 0x8000) % 16 / 4 = 3 := by omega
  simp (disch := omega) only [State.bar0Word, if_neg, if_pos, hvec, hword]
  rfl

theorem shows_msixPending : s.Shows n 0x8800 (s.fn n).vPend.toNat := ⟨rfl, by simp [ReadIsPlain], rfl⟩

/-- MB_DOORBELL and MB_RSP_ACK are write-only (R7, R469). -/
theorem shows_writeOnly {o : Nat} (ho : o = 0x180 ∨ o = 0x18C) : s.Shows n o 0 := by
  rcases ho with rfl | rfl <;> exact ⟨rfl, by simp [ReadIsPlain], rfl⟩

theorem bar0Word_vf_block {o : Nat} (hn : n ≠ 0) (hlo : 0x2000 ≤ o) (hhi : o < 0x4000) : s.bar0Word n o = 0 := by
  by_cases h3 : o < 0x3000 <;> simp (disch := omega) only [State.bar0Word, if_pos, if_neg]

/-- The counters and the arbiter of the PF read 0 in a VF (R465). -/
theorem shows_vf_block {o : Nat} (hn : n ≠ 0) (ha : o % 4 = 0) (hlo : 0x2000 ≤ o) (hhi : o < 0x4000) : s.Shows n o 0 :=
  ⟨ha, by unfold ReadIsPlain; omega, bar0Word_vf_block s n hn hlo hhi⟩

/-- The doorbells of the queues are write-only, and no register follows them up to the MSI-X table (R7, R465). -/
theorem shows_queueDoorbells {o : Nat} (ha : o % 4 = 0) (hlo : 0x4000 ≤ o) (hhi : o < 0x8000) : s.Shows n o 0 := by
  refine ⟨ha, by unfold ReadIsPlain; omega, ?_⟩
  simp (disch := omega) only [State.bar0Word, if_neg]

end

/-! ## Words of BAR0 whose read is a command of its own -/

/-- The counters of the PF (R558, R559) in a VF (R465). -/
theorem readBar0_vf_block (s : State) {fn : BitVec 7} {o : Nat} (hfn : fn ≠ 0) (ha : o % 4 = 0) (hlo : 0x2000 ≤ o) (hhi : o < 0x4000) :
    s.readBar0 fn.toNat o = s.returns 0 := by
  obtain ⟨-, hplain, hv⟩ := shows_vf_block s fn.toNat (mt (fn_toNat_eq_zero_iff fn).1 hfn) ha hlo hhi
  rw [readBar0_of_plain s hplain, hv]; rfl

theorem readBar0_countLo (s : State) {n : Nat} (hn : n < 8) : s.readBar0 0 (0x2200 + 8 * n) = s.readCount n := by
  have hidx : (0x2200 + 8 * n - 0x2200) / 8 = n := by omega
  rw [State.readBar0, if_neg (by omega), if_neg (by omega), if_neg (by omega), if_neg (by omega), if_pos (by omega), if_pos (by omega), hidx]

theorem readBar0_countHi (s : State) {n : Nat} (hn : n < 8) : s.readBar0 0 (0x2204 + 8 * n) = s.readOvf n := by
  have hidx : (0x2204 + 8 * n - 0x2200) / 8 = n := by omega
  rw [State.readBar0, if_neg (by omega), if_neg (by omega), if_neg (by omega), if_neg (by omega), if_pos (by omega), if_neg (by omega), hidx]

section
variable {s : State} {fn : BitVec 7} {off : BitVec 16} (hd : s.decodes fn.toNat = true)
include hd

theorem exec_bar0_mbStatus (ho : off.toNat = 0x184) :
    exec (.clearedByRead (.bar0 fn off)) s = exec (.clearedByRead (.mbStatus fn)) s := by
  rw [exec_bar0_read hd (by omega), exec_mbStatus_read hd, ho]; rfl

theorem exec_bar0_evRingStatus (ho : off.toNat = 0x288) :
    exec (.clearedByRead (.bar0 fn off)) s = exec (.clearedByRead (.evRingStatus fn)) s := by
  rw [exec_bar0_read hd (by omega), exec_evRingStatus_read hd, ho]; rfl

theorem exec_bar0_tmNs (ho : off.toNat = 0x1000) : exec (.clearedByRead (.bar0 fn off)) s = exec (.tmNsRead fn) s := by
  rw [exec_bar0_read hd (by omega), exec_tmNsRead hd, ho]; rfl

theorem exec_bar0_pcCycle (ho : off.toNat = 0x2000) : exec (.clearedByRead (.bar0 fn off)) s = exec (.pcCycleLoRead fn) s := by
  rw [exec_bar0_read hd (by omega), exec_pcCycleLoRead hd, ho]
  split
  case isTrue h => subst h; rfl
  case isFalse h => exact congrArg _ (readBar0_vf_block s h (by omega) (by omega) (by omega))

theorem exec_bar0_countLo (n : BitVec 3) (ho : off.toNat = 0x2200 + 8 * n.toNat) :
    exec (.clearedByRead (.bar0 fn off)) s = exec (.countLoRead fn n) s := by
  have hn := n.isLt
  rw [exec_bar0_read hd (by omega), exec_countLoRead hd, ho]
  split
  case isTrue h => subst h; exact congrArg _ (readBar0_countLo s hn)
  case isFalse h => exact congrArg _ (readBar0_vf_block s h (by omega) (by omega) (by omega))

theorem exec_bar0_countHi (n : BitVec 3) (ho : off.toNat = 0x2204 + 8 * n.toNat) :
    exec (.clearedByRead (.bar0 fn off)) s = exec (.clearedByRead (.pcOverflow fn n)) s := by
  have hn := n.isLt
  rw [exec_bar0_read hd (by omega), exec_pcOverflow_read hd, ho]
  split
  case isTrue h => subst h; exact congrArg _ (readBar0_countHi s hn)
  case isFalse h => exact congrArg _ (readBar0_vf_block s h (by omega) (by omega) (by omega))

end

/-! ## Configuration space (R461, R463, R488, R489) -/

theorem exec_config_read (s : State) (fn : BitVec 7) (f : CfgField) :
    exec (.clearedByRead (.config fn f)) s = .next (s.readConfig fn.toNat f) := rfl

theorem readConfig_of_absent {s : State} {n : Nat} (hp : s.present n = false) (f : CfgField) : s.readConfig n f = s := by
  simp [State.readConfig, hp]

theorem readConfig_of_booting {s : State} {n : Nat} (hp : s.present n = true) (hm : s.sys.mailboxOpen = false)
    (hb : s.sys.bootFailed = false) (f : CfgField) : s.readConfig n f = s.emit (.configRetry n) := by
  simp [State.readConfig, hp, hm, hb]

theorem readConfig_of_answering {s : State} {n : Nat} (hp : s.present n = true) (hm : s.sys.mailboxOpen = true ∨ s.sys.bootFailed = true)
    (f : CfgField) : s.readConfig n f = s.emit (.regRead (s.configField n f)) := by
  rw [State.readConfig, if_neg (by simp [hp]), if_pos (by simpa using hm)]; rfl

/-! ## The obligation -/

/-- Settles O24: each clause is the lemma above of its register, of its offset or of its configuration field. -/
theorem readsClearTheirFields : Obligations.ReadsClearTheirFields := by
  refine ⟨fun s fn hd => ⟨?_, ?_, ?_, ?_, ?_, ?_⟩, fun s fn off hd => ⟨exec_bar0_mbStatus hd, exec_bar0_evRingStatus hd,
    exec_bar0_tmNs hd, exec_bar0_pcCycle hd, exec_bar0_countLo hd, exec_bar0_countHi hd, ?_, exec_bar0_read_misaligned s fn⟩,
    fun s fn f => ⟨?_, ?_, ?_⟩⟩
  · exact ⟨_, exec_mbStatus_read hd, mbStatus_fields s fn.toNat⟩
  · exact ⟨_, exec_evRingStatus_read hd, evRingStatus_fields s fn.toNat⟩
  · intro n hfn
    rw [exec_pcOverflow_read hd, if_neg hfn]
  · intro n hfn
    exact ⟨_, by rw [exec_pcOverflow_read hd, if_pos hfn], readOvf_effect s n.toNat⟩
  · rintro hb rfl
    rw [exec_flashStatus_read hd, readFlashStatus_of_booted hb]
  · rintro hb rfl
    rw [exec_flashStatus_read hd, readFlashStatus_of_bootFailed hb]
  · intro v hv
    simp only [← fn_toNat_eq_zero_iff, ne_eq] at hv
    rcases hv with ⟨ho, hv⟩ | ⟨ho, hv⟩ | ⟨w, hw, ho, hv⟩ | ⟨w, hw, ho, hv⟩ | ⟨w, hw, ho, hv⟩ | ⟨w, hw, ho, hv⟩ | ⟨ho, hv⟩ |
      ⟨ho, hv⟩ | ⟨ho, hv⟩ | ⟨ho, hv⟩ | ⟨ho, hv⟩ | ⟨ho, hv⟩ | ⟨ho, hv⟩ | ⟨k, hk, ho, hv⟩ | ⟨k, hk, ho, hv⟩ | ⟨k, hk, ho, hv⟩ |
      ⟨k, hk, ho, hv⟩ | ⟨ho, hv⟩ | ⟨ho, hv⟩ | ⟨hvf, ha, hlo, hhi, hv⟩ | ⟨ha, hlo, hhi, hv⟩
    · exact exec_bar0_of_shows hd ho hv (shows_id s _)
    · exact exec_bar0_of_shows hd ho hv (shows_epoch s _)
    · exact exec_bar0_of_shows hd ho hv (shows_cmd s _ hw)
    · exact exec_bar0_of_shows hd ho hv (shows_rsp s _ hw)
    · exact exec_bar0_of_shows hd ho hv (shows_evStatus s _ hw)
    · exact exec_bar0_of_shows hd ho hv (shows_evEnable s _ hw)
    · exact exec_bar0_of_shows hd ho hv (shows_qdCplHead s _)
    · exact exec_bar0_of_shows hd ho hv (shows_ringTail s _)
    · exact exec_bar0_of_shows hd ho hv (shows_ringHead s _)
    · exact exec_bar0_of_shows hd ho hv (shows_tmFrame s _)
    · exact exec_bar0_of_shows hd ho hv (shows_tmAdj s _)
    · exact exec_bar0_of_shows hd ho hv (shows_tmStatus s _)
    · exact exec_bar0_of_shows hd ho hv (shows_tmFrameLat s _)
    · exact exec_bar0_of_shows hd ho hv (shows_paShadow s _ hk)
    · exact exec_bar0_of_shows hd ho hv (shows_paActive s _ hk)
    · exact exec_bar0_of_shows hd ho hv (shows_msixData s _ hk)
    · exact exec_bar0_of_shows hd ho hv (shows_msixMask s _ hk)
    · exact exec_bar0_of_shows hd ho hv (shows_msixPending s _)
    · exact exec_bar0_of_shows hd rfl hv (shows_writeOnly s _ ho)
    · exact exec_bar0_of_shows hd rfl hv (shows_vf_block s _ hvf ha hlo hhi)
    · exact exec_bar0_of_shows hd rfl hv (shows_queueDoorbells s _ ha hlo hhi)
  · intro hp
    rw [exec_config_read, readConfig_of_absent hp]
  · intro hp hm hb
    rw [exec_config_read, readConfig_of_booting hp hm hb]
  · intro hp hm
    refine ⟨_, by rw [exec_config_read, readConfig_of_answering hp hm], ?_, ?_, ?_, ?_⟩
    · rintro rfl; rfl
    · rintro rfl; simp [State.configField, fn_toNat_eq_zero_iff]
    · rintro rfl; rfl
    · rintro rfl rfl; rfl

end Sys2Proof.Machine
end

section
/-! The frame (R13, R17, R18, R22, R23, R297, R426, R431, R558): what moves the mode and the frame number, the step on an empty queue,
the commit point and the tick. -/

namespace Sys2Proof.Machine

/-! ## The mode and the frame number -/

/-- Settles O14: `exec_calm` says of every command that it keeps the frame and the mode, or is one of the four. -/
theorem modeAndFrameChangeOnlyAtTicks : Obligations.ModeAndFrameChangeOnlyAtTicks := by
  intro i s t h hchange
  rcases exec_calm i s t h with hcalm | ⟨-, hi⟩
  · have hmode : t.sys.mode = s.sys.mode := hcalm.mode
    have hframe : t.clk.frame = s.clk.frame := hcalm.frame
    exact absurd hchange (by simp [hmode, hframe])
  · exact hi

/-! ## The step on an empty queue -/

theorem step_of_empty {s : State} (h : s.pending = []) : step s = .next s.idle := by
  rw [step, h]

theorem idle_of_waiting {s : State} (h : s.runs = false ∨ s.toTick ≤ 1) : s.idle = s := by
  refine if_neg ?_
  rcases h with h | h <;> simp [h]

theorem idle_of_running {s : State} (hr : s.runs = true) (ht : 2 ≤ s.toTick) : s.idle = s.advance 1 :=
  if_pos (by simp [hr, ht])

/-- The passing of cycles moves fabric time, the position in the frame and the counters, and nothing else (R13, R297, R558). -/
theorem advance_eq (s : State) (n : Nat) :
    ∃ perf, s.advance n = { s with
      ft := { s.ft with t := (s.ft.t + n * s.ft.inc) % 2 ^ 112, rem := if s.ft.state = .holdover then s.ft.rem else s.ft.rem - (n : Int) * s.slewInc },
      clk := { s.clk with cycle := s.clk.cycle + n, cycles := s.clk.cycles + n, pcCycle := s.clk.pcCycle + BitVec.ofNat 64 n },
      host := { s.host with perf := perf } } := by
  obtain ⟨perf, hp⟩ := perf_cycles s n
  exact ⟨perf, by rw [State.advance, hp]; rfl⟩

/-- Settles O9: the step on an empty queue is `State.idle`, which waits or advances by one cycle. -/
theorem idleStepIsOneCycle : Obligations.IdleStepIsOneCycle := by
  refine fun s hp => ⟨fun hw => ?_, fun hr ht => ?_⟩
  · rw [step_of_empty hp, idle_of_waiting hw]
  · obtain ⟨perf, he⟩ := advance_eq s 1
    refine ⟨_, perf, by rw [step_of_empty hp, idle_of_running hr ht], ?_⟩
    rw [he, Nat.one_mul, Nat.cast_one, Int.one_mul]
    rfl

/-! ## The commit point and the tick -/

theorem exec_commitPoint {s : State} (hr : s.runs = true) :
    exec .commitPoint s = .next (s.atCycle (s.frameLen - 24)).commit :=
  if_neg (by simp [hr])

theorem exec_commitPoint_stopped {s : State} (hr : s.runs = false) : exec .commitPoint s = .next s :=
  if_pos (by simp [hr])

theorem exec_frameTick {s : State} (hr : s.runs = true) (i : TickIn) :
    exec (.frameTick i) s = .next (tickBody i s.commit.endFrame) :=
  if_neg (by simp [hr])

theorem exec_frameTick_stopped {s : State} (hr : s.runs = false) (i : TickIn) : exec (.frameTick i) s = .next s :=
  if_pos (by simp [hr])

theorem atCycle_cycle (s : State) (c : Nat) : (s.atCycle c).clk.cycle = max s.clk.cycle c := by
  rw [State.atCycle]
  split
  · rw [(advance_spec ..).1]
    dsimp only
    omega
  · omega

theorem atCycle_time (s : State) (c : Nat) :
    (s.atCycle c).ft.t % 2 ^ 112 = (s.ft.t + (c - s.clk.cycle) * s.ft.inc) % 2 ^ 112 := by
  rw [State.atCycle]
  split
  · rw [(advance_spec ..).2]
    exact Nat.mod_mod ..
  · rw [Nat.sub_eq_zero_of_le (by omega), Nat.zero_mul, Nat.add_zero]

/-- The number of the frame that begins is the time of its tick in whole ns, divided by 2,000: the work that comes before the
tick leaves the clock's position and fabric time, the work that follows it leaves the number (R17, R18). -/
theorem tick_frame (i : TickIn) (s : State) :
    (tickBody i s.commit.endFrame).clk.frame = (s.ft.t + s.toTick * s.ft.inc) % 2 ^ 112 / 2 ^ 48 / 2000 := by
  obtain ⟨hclk, hft⟩ := commit_spec s
  have hend := endFrame_timed s.commit
  have hftEnd := hend.ft.trans hft
  rw [tickBody_frame, toNextFrame_frame, toTick_congr (hend.clk.trans hclk) hftEnd, hftEnd]

/-- Settles O42: `atCycle` carries the clock to the commit point, whose work `commit_spec` and `commit_still` describe; `tick_frame`
gives the frame that the tick begins. -/
theorem frameCommandsComplete : Obligations.FrameCommandsComplete := by
  refine fun s => ⟨fun hr => ⟨⟨_, exec_commitPoint hr, ?_⟩, fun i => ⟨_, exec_frameTick hr i, tick_frame i s⟩⟩,
    fun hr => ⟨exec_commitPoint_stopped hr, exec_frameTick_stopped hr⟩⟩
  obtain ⟨hclk, hft⟩ := commit_spec (s.atCycle (s.frameLen - 24))
  have hstill : (s.atCycle (s.frameLen - 24)).commit.still = s.still := by simp
  rw [hclk, hft]
  exact ⟨rfl, atCycle_cycle .., (congrArg Still.frame (s.atCycle_still _) :), atCycle_time ..,
    congrArg Still.mode hstill, congrArg Still.held hstill⟩

end Sys2Proof.Machine
end

section
/-! Clocks and supplies (R14, R15, R21, R97, R318, R336, R343): what the loss of ETHREF leaves of the ports, of the mirror lanes and of
the servo, lock and loss of LPLL, and VDD_LEASE. -/

namespace Sys2Proof.Machine

/-! ## The source of fabric time (R318) -/

theorem sourceLost_of_ptp {s : State} (h : s.ft.source = .ptp) :
    s.sourceLost = (!s.ft.port0.hasMaster && !s.ft.port1.hasMaster) := by
  rw [State.sourceLost, h]

theorem sourceLost_of_pps {s : State} (h : s.ft.source = .pps) : s.sourceLost = s.ft.ppsLost := by
  rw [State.sourceLost, h]

theorem sourceLost_of_unwatched {s : State} (h : s.ft.source = .host ∨ s.ft.source = .none ∨ (s.ft.source = .pps ∧ s.ft.ppsLost = false)) :
    s.sourceLost = false := by
  rcases h with h | h | ⟨h, hl⟩
  · rw [State.sourceLost, h]
  · rw [State.sourceLost, h]
  · rw [sourceLost_of_pps h, hl]

/-- The choice of the source and its loss as PPS sees it, and firmware, stay as they are. -/
structure SameSource (s t : State) : Prop where
  source : t.ft.source = s.ft.source
  ppsLost : t.ft.ppsLost = s.ft.ppsLost
  sys : t.sys = s.sys

theorem SameSource.refl (s : State) : SameSource s s := ⟨rfl, rfl, rfl⟩

theorem SameSource.trans {s t u : State} (h : SameSource s t) (g : SameSource t u) : SameSource s u :=
  ⟨g.source.trans h.source, g.ppsLost.trans h.ppsLost, g.sys.trans h.sys⟩

theorem SameSource.told {s t : State} (h : Told s t) : SameSource s t := by
  obtain ⟨f, g, rfl⟩ := h
  exact ⟨rfl, rfl, rfl⟩

theorem setPtp_sameSource (s : State) (b : Bool) (p : PtpPort) : SameSource s (s.setPtp b p) := by
  cases b <;> exact ⟨rfl, rfl, rfl⟩

theorem holdover_sameSource (s : State) : SameSource s s.holdover := by
  unfold State.holdover
  split
  · have h : SameSource s (({ s with ft := { s.ft with cleared := s.remaining, rem := 0 } } : State).servoTo .holdover) := ⟨rfl, rfl, rfl⟩
    exact h.trans (.told (State.raise_told ..))
  · exact .refl s

theorem holdover_of_restarting {s : State} (h : s.sys.restarting = true) : s.holdover = s :=
  if_neg (by simp [h])

theorem checkSource_sameSource (s : State) : SameSource s s.checkSource := by
  unfold State.checkSource
  split
  · exact holdover_sameSource s
  · exact .refl s

theorem checkSource_of_lost {s : State} (h : s.sourceLost = true) : s.checkSource = s.holdover := if_pos h

theorem checkSource_of_kept {s : State} (h : s.sourceLost = false ∨ s.sys.restarting = true) : s.checkSource = s := by
  unfold State.checkSource
  split
  · rename_i hl
    exact holdover_of_restarting (h.resolve_left (by simp [hl]))
  · rfl

/-- The choice of a port writes SELECTED and may raise an event; then the source is looked at (R312). -/
theorem selectPort_eq (s : State) :
    ∃ u : State, s.selectPort = u.checkSource ∧ SameSource s u ∧ u.sourceLost = s.sourceLost ∧ u.ft.state = s.ft.state := by
  have h : ∀ (sel : Bool) (u : State), Told { s with ft := { s.ft with selected := sel } } u →
      SameSource s u ∧ u.sourceLost = s.sourceLost ∧ u.ft.state = s.ft.state := by
    rintro sel _ ⟨f, g, rfl⟩
    exact ⟨⟨rfl, rfl, rfl⟩, rfl, rfl⟩
  unfold State.selectPort
  extract_lets has better sel src s1
  refine ⟨s1, rfl, ?_⟩
  by_cases hsel : sel = s.ft.selected
  · rw [show s1 = s from if_pos hsel]
    exact ⟨.refl s, rfl, rfl⟩
  · rw [show s1 = State.raise _ 55 .m from if_neg hsel]
    exact h sel _ (State.raise_told ..)

theorem selectPort_sameSource (s : State) : SameSource s s.selectPort := by
  obtain ⟨u, hu, hsame, -, -⟩ := selectPort_eq s
  rw [hu]
  exact hsame.trans (checkSource_sameSource u)

theorem selectPort_state_of_kept {s : State} (h : s.sourceLost = false ∨ s.sys.restarting = true) :
    s.selectPort.ft.state = s.ft.state := by
  obtain ⟨u, hu, hsame, hlost, hstate⟩ := selectPort_eq s
  rw [hu, checkSource_of_kept (by rwa [hlost, hsame.sys]), hstate]

theorem selectPort_state_of_lost {s : State} (h : s.sourceLost = true) (hr : s.sys.restarting = false)
    (hs : s.ft.state = .acquiring ∨ s.ft.state = .locked) : s.selectPort.ft.state = .holdover := by
  obtain ⟨u, hu, hsame, hlost, hstate⟩ := selectPort_eq s
  rw [hu, checkSource_of_lost (hlost.trans h)]
  exact (holdover_spec u).2.2.2 (by rwa [hsame.sys]) (by rwa [hstate])

/-! ## A management port goes down (R15, R312, R552) -/

theorem ptp_setPtp_not (s : State) (b : Bool) (p : PtpPort) : (s.setPtp b p).ptp (!b) = s.ptp (!b) := by cases b <;> rfl

theorem setPtp_setPtp (s : State) (b : Bool) (p q : PtpPort) : (s.setPtp b p).setPtp b q = s.setPtp b q := by cases b <;> rfl

/-- A port that is down: its settings stand, its measurements and its master are lost. -/
def PtpPort.downed (p : PtpPort) : PtpPort :=
  { p with up := false, delays := [], held := 0, reseed := 0, pdelay := none, best := none, syncSeen := false, hasMaster := false, sync := none,
           req := none, resp := none }

theorem portDown_eq (s : State) (b : Bool) : s.portDown b = (s.setPtp b (s.ptp b).downed).selectPort := by
  rw [State.portDown, State.loseMaster, setPtp_setPtp, ptp_set, PtpPort.downed]

theorem portDown_ptp (s : State) (b : Bool) : (s.portDown b).ptp b = (s.ptp b).downed := by
  rw [portDown_eq, (selectPort_spec _).1, ptp_set]

theorem portDown_ptp_not (s : State) (b : Bool) : (s.portDown b).ptp (!b) = s.ptp (!b) := by
  rw [portDown_eq, (selectPort_spec _).1, ptp_setPtp_not]

theorem portDown_pair (s : State) (b : Bool) : (s.portDown b).pair = s.pair := by
  rw [portDown_eq, (selectPort_spec _).2, (setPtp_rest ..).1]

theorem portDown_sameSource (s : State) (b : Bool) : SameSource s (s.portDown b) := by
  rw [portDown_eq]
  exact (setPtp_sameSource ..).trans (selectPort_sameSource _)

theorem setPtp_state (s : State) (b : Bool) (p : PtpPort) : (s.setPtp b p).ft.state = s.ft.state := by cases b <;> rfl

theorem portDown_state_of_unwatched {s : State} (b : Bool) (h : (s.ft.source = .host ∨ s.ft.source = .none ∨
      (s.ft.source = .pps ∧ s.ft.ppsLost = false)) ∨ s.sys.restarting = true) :
    (s.portDown b).ft.state = s.ft.state := by
  have hs := setPtp_sameSource s b (s.ptp b).downed
  rw [portDown_eq, selectPort_state_of_kept, setPtp_state]
  rw [hs.sys]
  exact h.imp_left fun h => sourceLost_of_unwatched (by rwa [hs.source, hs.ppsLost])

/-- Under PTP the last port to lose its master takes the servo to HOLDOVER (R318). -/
theorem portDown_state_of_ptp {s : State} (b : Bool) (h : s.ft.source = .ptp) (hr : s.sys.restarting = false)
    (hm : (s.ptp (!b)).hasMaster = false) (hs : s.ft.state = .acquiring ∨ s.ft.state = .locked) :
    (s.portDown b).ft.state = .holdover := by
  have hk := setPtp_sameSource s b (s.ptp b).downed
  rw [portDown_eq]
  refine selectPort_state_of_lost ?_ (by rw [hk.sys, hr]) (by rwa [setPtp_state])
  rw [sourceLost_of_ptp (by rw [hk.source, h])]
  cases b <;> simp [State.setPtp, PtpPort.downed] <;> exact hm

/-! ## A mirror lane goes down (R342, R349) -/

/-- Fabric time and the mirror lanes stay, and a lease that is not extended does not become so. -/
structure KeepsLanes (s t : State) : Prop where
  ft : t.ft = s.ft
  lane0 : t.mirror.lane0 = s.mirror.lane0
  lane1 : t.mirror.lane1 = s.mirror.lane1
  extended : s.pair.extended = false → t.pair.extended = false

theorem KeepsLanes.refl (s : State) : KeepsLanes s s := ⟨rfl, rfl, rfl, id⟩

theorem KeepsLanes.trans {s t u : State} (h : KeepsLanes s t) (g : KeepsLanes t u) : KeepsLanes s u :=
  ⟨g.ft.trans h.ft, g.lane0.trans h.lane0, g.lane1.trans h.lane1, fun e => g.extended (h.extended e)⟩

theorem KeepsLanes.ite {s t u : State} {c : Prop} [Decidable c] (h : KeepsLanes s t) (g : KeepsLanes s u) :
    KeepsLanes s (if c then t else u) := by
  split <;> assumption

theorem KeepsLanes.foldl {α : Type} (f : State → α → State) (h : ∀ t x, KeepsLanes t (f t x)) (l : List α) (s : State) :
    KeepsLanes s (l.foldl f s) := by
  induction l generalizing s with
  | nil => exact .refl s
  | cons x r ih => exact (h s x).trans (ih _)

theorem KeepsLanes.told {s t : State} (h : Told s t) : KeepsLanes s t := by
  obtain ⟨f, g, rfl⟩ := h
  exact ⟨rfl, rfl, rfl, id⟩

theorem KeepsLanes.spoke {s t : State} (h : Spoke s t) : KeepsLanes s t := by
  obtain ⟨a, b, c, d, e, rfl⟩ := h
  exact ⟨rfl, rfl, rfl, id⟩

theorem setNow_lanes (s : State) (i code : Nat) : KeepsLanes s (s.setNow i code) := by
  unfold State.setNow
  exact .ite (.refl s) ⟨rfl, rfl, rfl, id⟩

theorem applyMirror_lanes (s : State) (img : PlateImg) (p n : Nat) : KeepsLanes s (s.applyMirror img p n) := by
  unfold State.applyMirror
  extract_lets cells old changed s1
  have h1 : KeepsLanes s s1 := by
    refine .foldl _ (fun t c => ?_) _ _
    exact (setNow_lanes t c _).trans ⟨rfl, rfl, rfl, id⟩
  exact h1.trans ⟨rfl, rfl, rfl, id⟩

theorem confirmTags_lanes (s : State) (l : List (Nat × Nat)) (q t : Nat) : KeepsLanes s (s.confirmTags l q t) := by
  unfold State.confirmTags
  exact .ite (.refl s) ⟨rfl, rfl, rfl, id⟩

theorem applyNamed_lanes (s : State) : KeepsLanes s s.applyNamed := by
  unfold State.applyNamed
  split
  · exact .refl s
  · extract_lets src s1
    have h0 : KeepsLanes s { s with mirror := { s.mirror with named := none } } := ⟨rfl, rfl, rfl, id⟩
    have h1 : KeepsLanes s s1 := h0.trans (applyMirror_lanes ..)
    exact .ite (h1.trans (confirmTags_lanes ..)) h1

theorem restartLoops_lanes (s : State) : KeepsLanes s s.restartLoops := by
  unfold State.restartLoops
  refine .foldl _ (fun t i => ?_) _ _
  exact .ite (.refl t) (.ite ⟨rfl, rfl, rfl, id⟩ ⟨rfl, rfl, rfl, id⟩)

theorem swapWatch_lanes (s : State) : KeepsLanes s s.swapWatch := by
  unfold State.swapWatch
  split
  · exact .refl s
  · refine .ite (.refl s) ?_
    extract_lets src s1 s2
    have h1 : KeepsLanes s s1 := ⟨rfl, rfl, rfl, id⟩
    have h2 : KeepsLanes s s2 := .ite (h1.trans (restartLoops_lanes s1)) h1
    split
    · refine .ite ?_ (h2.trans (.spoke (State.answer_spoke ..)))
      have h3 : KeepsLanes s2 { s2 with sys := { s2.sys with modePending := none, modePersist := false } } := ⟨rfl, rfl, rfl, id⟩
      exact (h2.trans h3).trans (.spoke (State.answer_spoke ..))
    · have h3 : KeepsLanes s2 { s2 with pair := { s2.pair with swapDeferred := true } } := ⟨rfl, rfl, rfl, id⟩
      exact (h2.trans h3).trans (.told (State.raise_told ..))

theorem endCommands_lanes (s : State) : KeepsLanes s s.endCommands := by
  unfold State.endCommands
  extract_lets s1 src s2
  have h1 : KeepsLanes s s1 := .foldl _ (fun t r => by split <;> [exact .spoke (State.answer_spoke ..); exact .refl t]) _ _
  have h2 : KeepsLanes s s2 := h1.trans ⟨rfl, rfl, rfl, id⟩
  split
  · refine .ite ?_ (h2.trans (.spoke (State.answer_spoke ..)))
    exact h2.trans ⟨rfl, rfl, rfl, id⟩
  · exact h2

theorem endLease_lanes (s : State) (lapse event : Bool) : KeepsLanes s (s.endLease lapse event) := by
  unfold State.endLease
  refine .ite (.refl s) ?_
  extract_lets target src s1 s2 srcp srcm srcd s3 s4
  have h1 : KeepsLanes s s1 := ⟨rfl, rfl, rfl, id⟩
  have h2 : KeepsLanes s s2 := h1.trans (endCommands_lanes s1)
  have h3 : KeepsLanes s s3 := h2.trans ⟨rfl, rfl, rfl, fun _ => rfl⟩
  have h4 : KeepsLanes s s4 := .ite (h3.trans (.told (State.raiseCore_told ..))) h3
  exact .ite (h4.trans ⟨rfl, rfl, rfl, id⟩) h4

theorem checkExtension_of_not_extended {s : State} (h : s.pair.extended = false) : s.checkExtension = s :=
  if_neg (by simp [h])

theorem checkExtension_lanes (s : State) : KeepsLanes s s.checkExtension := by
  unfold State.checkExtension
  exact .ite (endLease_lanes ..) (.refl s)

/-- The mirror lane as it stands after it has gone down. -/
def State.laneOff (s : State) (lane : Bool) : State :=
  { s with mirror := if lane then { s.mirror with lane1 := false } else { s.mirror with lane0 := false } }

theorem laneDown_of_off {s : State} {lane : Bool} (h : (if lane then s.mirror.lane1 else s.mirror.lane0) = false) :
    s.laneDown lane = s := if_pos (by simp [h])

theorem laneOff_lanes_of_off {s : State} {lane : Bool} (h : (if lane then s.mirror.lane1 else s.mirror.lane0) = false) :
    KeepsLanes (s.laneOff lane) s := by
  cases lane
  · exact ⟨rfl, h, rfl, id⟩
  · exact ⟨rfl, rfl, h, id⟩

/-- A lane that goes down leaves fabric time and the other lane, whatever it ends or installs. -/
theorem laneDown_lanes (s : State) (lane : Bool) : KeepsLanes (s.laneOff lane) (s.laneDown lane) := by
  cases hoff : (if lane then s.mirror.lane1 else s.mirror.lane0)
  · rw [laneDown_of_off hoff]
    exact laneOff_lanes_of_off hoff
  · unfold State.laneDown
    extract_lets m was other s1 src s2
    rw [if_neg (by simp [was, m, hoff])]
    refine .ite (.told (State.raise_told s1 67 .m {})) ?_
    have h2 : KeepsLanes (s.laneOff lane) s2 := ⟨rfl, rfl, rfl, id⟩
    exact (((h2.trans (.told (State.raise_told ..))).trans (applyNamed_lanes _)).trans (checkExtension_lanes _)).trans (swapWatch_lanes _)

/-- A lease that is not extended does not end with a mirror lane (R342). -/
theorem laneDown_still_of_not_extended {s : State} (h : s.pair.extended = false) (lane : Bool) : (s.laneDown lane).still = s.still := by
  unfold State.laneDown
  extract_lets m was other s1 src s2
  split
  · rfl
  · split
    · exact State.raise_still ..
    · have he : (s2.raise 68 .m).applyNamed.pair.extended = false :=
        ((KeepsLanes.told (State.raise_told s2 68 .m {})).trans (applyNamed_lanes _)).extended h
      rw [State.swapWatch_still, checkExtension_of_not_extended he, State.applyNamed_still, State.raise_still]
      rfl

/-! ## ETHREF (R15) -/

theorem exec_ethrefLoss {s : State} (h : s.clk.ethref = true) :
    ∃ u, Told { s with clk := { s.clk with ethref := false } } u ∧
      exec .ethrefLoss s = .next ((((u.portDown false).portDown true).laneDown false).laneDown true) :=
  ⟨_, .ite (State.raise_told ..) (.refl _), if_neg (by simp [h])⟩

/-- What the loss of both ports and both lanes leaves, whatever event was raised before. -/
structure LinksLost (s t : State) : Prop where
  clk : t.clk = s.clk
  time : t.ft.t = s.ft.t
  port : ∀ b, t.ptp b = (s.ptp b).downed
  lane0 : t.mirror.lane0 = false
  lane1 : t.mirror.lane1 = false
  mode : t.sys.mode = s.sys.mode
  lease : s.pair.extended = false → t.pair.held = s.pair.held ∧ t.drive.closed = s.drive.closed
  toHoldover : s.ft.source = .ptp → s.sys.restarting = false → s.ft.state = .locked ∨ s.ft.state = .acquiring → t.ft.state = .holdover
  state : (s.ft.source = .host ∨ s.ft.source = .none ∨ (s.ft.source = .pps ∧ s.ft.ppsLost = false)) ∨ s.sys.restarting = true →
    t.ft.state = s.ft.state

theorem portsDown_port (s : State) (b : Bool) : ((s.portDown false).portDown true).ptp b = (s.ptp b).downed := by
  cases b
  · rw [show false = !true from rfl, portDown_ptp_not, Bool.not_true, portDown_ptp]
  · rw [portDown_ptp]
    exact congrArg _ (portDown_ptp_not s false)

/-- Under PTP the servo is in HOLDOVER when both ports are down: it was already when the first one was, or enters it with the second. -/
theorem portsDown_holdover {s : State} (h : s.ft.source = .ptp) (hr : s.sys.restarting = false)
    (hs : s.ft.state = .locked ∨ s.ft.state = .acquiring) : ((s.portDown false).portDown true).ft.state = .holdover := by
  have hsame := portDown_sameSource s false
  rcases (portDown_hold s false).st with hkept | hheld
  · refine portDown_state_of_ptp true (hsame.source.trans h) (by rw [hsame.sys, hr]) ?_ (by rw [hkept]; exact hs.symm)
    exact congrArg PtpPort.hasMaster (portDown_ptp s false)
  · exact (portDown_hold (s.portDown false) true).st.elim (·.trans hheld) id

theorem portsDown_state {s : State} (h : (s.ft.source = .host ∨ s.ft.source = .none ∨ (s.ft.source = .pps ∧ s.ft.ppsLost = false)) ∨
    s.sys.restarting = true) : ((s.portDown false).portDown true).ft.state = s.ft.state := by
  have hsame := portDown_sameSource s false
  rw [portDown_state_of_unwatched true (by rwa [hsame.source, hsame.ppsLost, hsame.sys]), portDown_state_of_unwatched false h]

theorem linksLost (s : State) : LinksLost s ((((s.portDown false).portDown true).laneDown false).laneDown true) := by
  generalize hu : (s.portDown false).portDown true = u
  have hpair : u.pair = s.pair := by rw [← hu, portDown_pair, portDown_pair]
  have hstill : u.still = s.still := by rw [← hu, State.portDown_still, State.portDown_still]
  have hports : Hold s u := hu ▸ (portDown_hold s false).trans (portDown_hold _ true)
  have h0 := laneDown_lanes u false
  have h1 := laneDown_lanes (u.laneDown false) true
  have hft : ((u.laneDown false).laneDown true).ft = u.ft := h1.ft.trans h0.ft
  have hcore := (laneDown_core u false).trans (laneDown_core (u.laneDown false) true)
  have hcalm := (State.laneDown_calm u false).trans (State.laneDown_calm (u.laneDown false) true)
  refine ⟨hcore.clk.trans hports.clk, hcore.time.trans hports.time, fun b => ?_, h1.lane0.trans h0.lane0, h1.lane1,
    hcalm.mode.trans (congrArg Still.mode hstill), fun he => ?_, fun hp hr hs => ?_, fun hk => ?_⟩
  · rw [State.ptp, hft]
    exact hu ▸ portsDown_port s b
  · have he0 : u.pair.extended = false := by rw [hpair, he]
    have hall : ((u.laneDown false).laneDown true).still = s.still := by
      rw [laneDown_still_of_not_extended (h0.extended he0), laneDown_still_of_not_extended he0, hstill]
    exact ⟨congrArg Still.held hall, congrArg Still.closed hall⟩
  · rw [hft, ← hu, portsDown_holdover hp hr hs]
  · rw [hft, ← hu, portsDown_state hk]

/-! ## LPLL (R14, R21, R97) -/

theorem exec_lpllLock_idle {s : State} (h : s.clk.lpll = true ∨ s.clk.rstN = false ∨ s.clk.coreUp = false) : exec .lpllLock s = .next s :=
  if_pos (by rcases h with h | h | h <;> simp [h])

/-- Lock begins frame 0 at fabric time 0 and leaves the servo, the lease and the switches (R21). -/
structure LpllLocked (s t : State) : Prop where
  clk : t.clk.lpll = true ∧ t.clk.interconnect = true ∧ t.clk.frame = 0 ∧ t.clk.cycle = 0 ∧ t.clk.tickTime = 0 ∧ t.clk.committed = false
  ft : t.ft.t = 0 ∧ t.ft.state = s.ft.state ∧ t.ft.source = s.ft.source ∧ t.ft.freq = s.ft.freq
  drive : t.drive = { s.drive with holding := false }
  pair : t.pair.held = s.pair.held ∧ t.pair.epoch = s.pair.epoch
  mode : t.sys.mode = if s.sys.mode = .reset then .boot else s.sys.mode

theorem exec_lpllLock {s : State} (hl : s.clk.lpll = false) (hr : s.clk.rstN = true) (hc : s.clk.coreUp = true) :
    ∃ t, exec .lpllLock s = .next t ∧ LpllLocked s t := by
  refine ⟨_, if_neg (by simp [hl, hr, hc]), ?_⟩
  split
  · rename_i hreset
    obtain ⟨f, h, he⟩ := State.enterMode_told (State.heartbeat _) .boot
    rw [he]
    exact ⟨⟨rfl, rfl, rfl, rfl, rfl, rfl⟩, ⟨rfl, rfl, rfl, rfl⟩, rfl, ⟨rfl, rfl⟩, (if_pos hreset).symm⟩
  · rename_i hreset
    exact ⟨⟨rfl, rfl, rfl, rfl, rfl, rfl⟩, ⟨rfl, rfl, rfl, rfl⟩, rfl, ⟨rfl, rfl⟩, (if_neg hreset).symm⟩

theorem exec_clockLoss_idle {s : State} (h : s.clk.lpll = false) (b : Bool) : exec (.clockLoss b) s = .next s :=
  if_pos (by simp [h])

theorem exec_clockLoss {s : State} (h : s.clk.lpll = true) (b : Bool) :
    exec (.clockLoss b) s = .next (when b (fun t => t.raise 0 .m)
      { s with clk := { s.clk with lpll := false, interconnect := b }, drive := { s.drive with holding := s.pair.held } }) :=
  if_neg (by simp [h])

/-! ## VDD_LEASE (R336, R343) -/

theorem exec_vddLeaseLoss_idle {s : State} (h : s.clk.vddLease = false) : exec .vddLeaseLoss s = .next s := if_pos (by simp [h])

/-- What the loss of VDD_LEASE leaves: every line isolated, no lease, and an island that has forgotten its state. -/
structure LeaseSupplyLost (s t : State) : Prop where
  clk : t.clk = { s.clk with vddLease := false }
  pair : t.pair.held = false ∧ t.pair.epoch = 0 ∧ t.pair.armed = none ∧ t.pair.image = none ∧ t.pair.refHolder = none ∧ t.pair.refReady = false
  drive : t.drive = { s.drive with closed := false, holding := false }
  ports : t.pair.portA = .init ∧ t.pair.portB = .init
  standby : s.pair.held = true → TickOp.enter .standby ∈ t.atTick

theorem exec_vddLeaseLoss {s : State} (h : s.clk.vddLease = true) : ∃ t, exec .vddLeaseLoss s = .next t ∧ LeaseSupplyLost s t := by
  refine ⟨_, if_neg (by simp [h]), ?_⟩
  have hclk : (s.endLease true true).clk = s.clk := (endLease_core s true true).clk
  cases hh : s.pair.held
  · rw [endLease_idle s true true hh]
    exact ⟨rfl, ⟨hh, rfl, rfl, rfl, rfl, rfl⟩, rfl, ⟨rfl, rfl⟩, fun hc => absurd (hh.symm.trans hc) (by decide)⟩
  · obtain ⟨hheld, -, -, hdrive, -, hdue⟩ := endLease_spec s true true hh
    refine ⟨?_, ⟨hheld, rfl, rfl, rfl, rfl, rfl⟩, ?_, ⟨rfl, rfl⟩, fun _ => hdue rfl⟩
    · dsimp only
      rw [hclk]
    · dsimp only
      rw [hdrive]

theorem exec_vddLeaseApply_idle {s : State} (h : s.clk.vddLease = true) : exec .vddLeaseApply s = .next s := if_pos h

theorem exec_vddLeaseApply {s : State} (h : s.clk.vddLease = false) : exec .vddLeaseApply s =
    .next { s with clk := { s.clk with vddLease := true }, pair := { s.pair with refSince := s.pair.now } } :=
  if_neg (by simp [h])

/-- Settles O34: lock and loss of each clock and supply, by the lemma of its command; the loss of ETHREF by `linksLost`. -/
theorem clocksAndSuppliesComplete : Obligations.ClocksAndSuppliesComplete := by
  refine fun s => ⟨exec_lpllLock_idle, fun hl hr hc => ?_, exec_clockLoss_idle, fun hl => ⟨exec_clockLoss hl false, exec_clockLoss hl true⟩,
    fun he => if_pos (by simp [he]), fun he => ?_, rfl, exec_vddLeaseLoss_idle, fun hv => ?_, exec_vddLeaseApply_idle, exec_vddLeaseApply⟩
  · obtain ⟨t, hexec, ⟨hlpll, hint, hframe, hcycle, htick, hcom⟩, ⟨htime, hstate, hsource, hfreq⟩, hdrive, ⟨hheld, hepoch⟩, hmode⟩ :=
      exec_lpllLock hl hr hc
    exact ⟨t, hexec, hlpll, hint, hframe, hcycle, htick, hcom, htime, hstate, hsource, hfreq, hdrive, hheld, hepoch, hmode⟩
  · obtain ⟨u, ⟨f, g, rfl⟩, hexec⟩ := exec_ethrefLoss he
    obtain ⟨hclk, htime, hport, hlane0, hlane1, hmode, hlease, hhold, hkeep⟩ := linksLost
      ({ s with clk := { s.clk with ethref := false }, faults := f, host := g } : State)
    refine ⟨_, hexec, by rw [hclk], by rw [hclk], hmode, fun b => ?_, hlane0, hlane1, htime, hlease, hhold, fun hk => hkeep ?_⟩
    · rw [hport b]
      exact ⟨rfl, rfl, rfl⟩
    · rcases hk with h | h | h | h
      · exact .inl (.inl h)
      · exact .inl (.inr (.inl h))
      · exact .inl (.inr (.inr h))
      · exact .inr h
  · obtain ⟨t, hexec, hclk, ⟨hheld, hepoch, harmed, himage, hholder, hready⟩, hdrive, ⟨hportA, hportB⟩, hstandby⟩ := exec_vddLeaseLoss hv
    exact ⟨t, hexec, hclk, hheld, hepoch, harmed, himage, hholder, hready, hdrive, hportA, hportB, hstandby⟩

end Sys2Proof.Machine
end

section
/-! PTP messages (R310 to R315): what a message of each type does, case by case. -/

namespace Sys2Proof.Machine

/-! ## Which messages a port hears (R310, R319) -/

theorem ptpOn_iff (s : State) (port : Bool) :
    s.ptpOn port = true ↔ (s.ptp port).up = true ∧ tb (s.ptp port).config.toNat 0 = true ∧ s.sys.restarting = false := by
  simp [State.ptpOn, and_assoc]

theorem ptpHears_iff (s : State) (port : Bool) (h : PtpHdr) :
    s.ptpHears port h = true ↔ s.ptpOn port = true ∧ h.transport = fld (s.ptp port).config.toNat 2 2 ∧
      h.vid = (if tb (s.ptp port).config.toNat 4 then some (fld (s.ptp port).config.toNat 5 12) else none) ∧
      h.domain = fld (s.ptp port).config.toNat 20 7 := by
  simp [State.ptpHears, PtpPort.accepts, and_assoc]

theorem fromMaster_iff (p : PtpPort) (h : PtpHdr) : p.fromMaster h = true ↔ ∃ m, p.best = some m ∧ m.1 = h.sender := by
  unfold PtpPort.fromMaster
  cases p.best <;> simp

theorem pendingReq_eq_none_iff (p : PtpPort) (port : Bool) (o : BitVec 80) (q : W16) :
    p.pendingReq port o q = none ↔ ∀ r, p.req = some r → r.seq ≠ q ∨ o ≠ ownPort port := by
  unfold PtpPort.pendingReq
  cases p.req with
  | none => simp
  | some r => simp only [ite_eq_right_iff, reduceCtorEq, imp_false, not_and_or, Option.some.injEq, forall_eq', ne_eq]

section
variable {s : State} {port : Bool} {h : PtpHdr}

/-! ## Announce messages (R312) -/

theorem exec_ptpAnnounce_ignored {a : Announce} (hi : s.ptpHears port h = false ∨ (a.logInterval < -3 ∨ 4 < a.logInterval)) :
    exec (.ptpAnnounce port ⟨h, a⟩) s = .next s :=
  if_pos (by rcases hi with hi | hi <;> simp [hi])

/-- The port after an Announce message that it takes: a better master replaces the best one, which its own message renews. -/
def PtpPort.announced (p : PtpPort) (sender : BitVec 80) (a : Announce) (now : Nat) : PtpPort :=
  match p.best with
  | none => { p with best := some (sender, a), annAt := now, syncSeen := false, hasMaster := false }
  | some b =>
    if b.1 = sender then { p with best := some (sender, a), annAt := now }
    else if announceWins (sender, a) b then { p with best := some (sender, a), annAt := now, syncSeen := false, hasMaster := false }
    else p

theorem exec_ptpAnnounce {a : Announce} (hh : s.ptpHears port h = true) (hlo : -3 ≤ a.logInterval) (hhi : a.logInterval ≤ 4) :
    exec (.ptpAnnounce port ⟨h, a⟩) s = .next (s.setPtp port ((s.ptp port).announced h.sender a s.ns)).selectPort :=
  if_neg (by simp [hh, hlo, hhi])

theorem announced_of_better {p : PtpPort} {sender : BitVec 80} {a : Announce} {now : Nat}
    (hb : p.best = none ∨ ∃ b, p.best = some b ∧ b.1 ≠ sender ∧ announceWins (sender, a) b = true) :
    p.announced sender a now = { p with best := some (sender, a), annAt := now, syncSeen := false, hasMaster := false } := by
  rcases hb with hb | ⟨b, hb, hne, hwins⟩
  · simp only [PtpPort.announced, hb]
  · simp only [PtpPort.announced, hb, if_neg hne, if_pos hwins]

theorem announced_of_same {p : PtpPort} {sender : BitVec 80} {a : Announce} {now : Nat} {b : BitVec 80 × Announce}
    (hb : p.best = some b) (hs : b.1 = sender) : p.announced sender a now = { p with best := some (sender, a), annAt := now } := by
  simp only [PtpPort.announced, hb, if_pos hs]

theorem announced_of_worse {p : PtpPort} {sender : BitVec 80} {a : Announce} {now : Nat} {b : BitVec 80 × Announce}
    (hb : p.best = some b) (hs : b.1 ≠ sender) (hw : announceWins (sender, a) b = false) : p.announced sender a now = p := by
  simp only [PtpPort.announced, hb, if_neg hs, hw, Bool.false_eq_true, if_false]

/-! ## Sync and Follow_Up (R312 to R315) -/

theorem exec_ptpSync_ignored (hi : s.ptpHears port h = false ∨ (s.ptp port).fromMaster h = false) (q : W16) (w : Bool) (l : Int)
    (t1 c : PtpTime) : exec (.ptpSync port h q w l t1 c) s = .next s :=
  if_pos (by rcases hi with hi | hi <;> simp [hi])

theorem exec_ptpSync_of_interval (hh : s.ptpHears port h = true) (hm : (s.ptp port).fromMaster h = true) {l : Int} (hl : l < -7 ∨ 1 < l)
    (q : W16) (w : Bool) (t1 c : PtpTime) :
    exec (.ptpSync port h q w l t1 c) s = .next (s.setPtp port { s.ptp port with sync := none }) :=
  (if_neg (by simp [hh, hm])).trans (if_pos hl)

theorem exec_ptpSync (hh : s.ptpHears port h = true) (hm : (s.ptp port).fromMaster h = true) {l : Int} (hlo : -7 ≤ l) (hhi : l ≤ 1)
    (q : W16) (w : Bool) (t1 c : PtpTime) :
    exec (.ptpSync port h q w l t1 c) s = .next ((s.setPtp port { s.ptp port with
      sync := some { seq := q, t1 := t1, t2 := s.ns16, corr := c, log := l, waits := w, ingress := (s.ptp port).ingress,
                     egress := (s.ptp port).egress, asymmetry := (s.ptp port).asymmetry }
      syncSeen := true, hasMaster := true, syncAt := s.ns, syncLog := l }).selectPort.syncDone port) :=
  (if_neg (by simp [hh, hm])).trans (if_neg (by omega))

theorem exec_ptpFollowUp_ignored {q : W16} (hi : s.ptpHears port h = false ∨ (s.ptp port).fromMaster h = false) (t1 c : PtpTime) :
    exec (.ptpFollowUp port ⟨h, q⟩ t1 c) s = .next s :=
  if_pos (by rcases hi with hi | hi <;> simp [hi])

theorem exec_ptpFollowUp_unmatched (hh : s.ptpHears port h = true) (hm : (s.ptp port).fromMaster h = true) {q : W16}
    (hs : (s.ptp port).sync = none ∨ ∃ y, (s.ptp port).sync = some y ∧ (y.waits = false ∨ y.seq ≠ q)) (t1 c : PtpTime) :
    exec (.ptpFollowUp port ⟨h, q⟩ t1 c) s = .next s := by
  refine (if_neg (by simp [hh, hm])).trans ?_
  rcases hs with hs | ⟨y, hs, hy⟩
  · rw [hs]
  · rw [hs]
    exact if_neg (by rcases hy with hy | hy <;> simp [hy])

theorem exec_ptpFollowUp (hh : s.ptpHears port h = true) (hm : (s.ptp port).fromMaster h = true) {q : W16} {y : PtpSync}
    (hs : (s.ptp port).sync = some y) (hw : y.waits = true) (hq : y.seq = q) (t1 c : PtpTime) :
    exec (.ptpFollowUp port ⟨h, q⟩ t1 c) s =
      .next ((s.setPtp port { s.ptp port with sync := some { y with t1 := t1, corr := y.corr + c, waits := false } }).syncDone port) := by
  refine (if_neg (by simp [hh, hm])).trans ?_
  rw [hs]
  exact if_pos (by simp [hw, hq])

/-! ## Delay_Resp (R315) -/

theorem exec_ptpDelayResp_ignored {q : W16} {o : BitVec 80} (hi : s.ptpHears port h = false ∨ (s.ptp port).fromMaster h = false ∨
      (s.ptp port).p2p = true ∨ ∀ r, (s.ptp port).req = some r → r.seq ≠ q ∨ o ≠ ownPort port) (l : Int) (t4 c : PtpTime) :
    exec (.ptpDelayResp port ⟨⟨h, q⟩, o⟩ l t4 c) s = .next s := by
  rw [← pendingReq_eq_none_iff] at hi
  exact if_pos (by rcases hi with hi | hi | hi | hi <;> simp [hi])

/-- A response that answers the pending request is kept, and completes the measurement where its Sync exchange is complete. -/
theorem exec_ptpDelayResp (hh : s.ptpHears port h = true) (hm : (s.ptp port).fromMaster h = true) {q : W16} {o : BitVec 80} {r : PtpReq}
    (hp : (s.ptp port).p2p = false) (hr : (s.ptp port).req = some r) (hq : r.seq = q) (ho : o = ownPort port) (l : Int) (t4 c : PtpTime) :
    exec (.ptpDelayResp port ⟨⟨h, q⟩, o⟩ l t4 c) s =
      .next ((s.setPtp port { s.ptp port with resp := some (t4, c), reqLog := clampInt (-7) 5 l }).e2eDone port) :=
  if_neg (by simp [hh, hm, hp, PtpPort.pendingReq, hr, hq, ho])

theorem e2eDone_of_waiting (hs : (s.ptp port).sync = none ∨ ∃ y, (s.ptp port).sync = some y ∧ y.waits = true) : s.e2eDone port = s := by
  unfold State.e2eDone
  dsimp only
  split
  · rename_i hy _ _
    rcases hs with hs | ⟨y, hs, hw⟩
    · exact absurd (hy.symm.trans hs) (by simp)
    · obtain rfl : y = _ := Option.some.inj (hs.symm.trans hy)
      exact if_pos (by simp [hw])
  · rfl

theorem e2eDone_of_complete {y : PtpSync} {r : PtpReq} {t4 c : Int} (hs : (s.ptp port).sync = some y) (hr : (s.ptp port).req = some r)
    (hresp : (s.ptp port).resp = some (t4, c)) (hw : y.waits = false) (hp : (s.ptp port).p2p = false) {dsm : Int}
    (hd : dsm = t4 - (r.t + (y.egress : Int)) - c) {z : State × Bool}
    (hz : z = (s.setPtp port { s.ptp port with sync := none, req := none, resp := none }).pathDelay port (y.dms + dsm)) :
    s.e2eDone port = if z.2 then z.1.portOffset port (roundDiv (y.dms - dsm - 2 * y.asymmetry) 2) y.log else z.1 := by
  subst hd hz
  unfold State.e2eDone
  simp only [hs, hr, hresp, hw, hp, Bool.or_self, Bool.false_eq_true, if_false]

section
variable (hh : s.ptpHears port h = true)
include hh

/-- A response before its Sync exchange is complete is kept (R315). -/
theorem exec_ptpDelayResp_early (hm : (s.ptp port).fromMaster h = true) {q : W16} {o : BitVec 80} {r : PtpReq}
    (hp : (s.ptp port).p2p = false) (hr : (s.ptp port).req = some r) (hq : r.seq = q) (ho : o = ownPort port)
    (hs : (s.ptp port).sync = none ∨ ∃ y, (s.ptp port).sync = some y ∧ y.waits = true) (l : Int) (t4 c : PtpTime) :
    exec (.ptpDelayResp port ⟨⟨h, q⟩, o⟩ l t4 c) s =
      .next (s.setPtp port { s.ptp port with resp := some (t4, c), reqLog := clampInt (-7) 5 l }) := by
  rw [exec_ptpDelayResp hh hm hp hr hq ho, e2eDone_of_waiting (by rw [ptp_set]; exact hs)]

/-- A response after its Sync exchange completes the measurement of the delay and of the offset (R315). -/
theorem exec_ptpDelayResp_last (hm : (s.ptp port).fromMaster h = true) {q : W16} {o : BitVec 80} {r : PtpReq}
    (hp : (s.ptp port).p2p = false) (hr : (s.ptp port).req = some r) (hq : r.seq = q) (ho : o = ownPort port) (l : Int) (t4 c : PtpTime)
    {y : PtpSync} {dms dsm : Int} {z : State × Bool} (hs : (s.ptp port).sync = some y) (hw : y.waits = false) (hdms : dms = y.dms)
    (hdsm : dsm = t4 - (r.t + (y.egress : Int)) - c)
    (hz : z = (s.setPtp port { s.ptp port with sync := none, req := none, resp := none, reqLog := clampInt (-7) 5 l }).pathDelay port (dms + dsm)) :
    exec (.ptpDelayResp port ⟨⟨h, q⟩, o⟩ l t4 c) s =
      .next (if z.2 then z.1.portOffset port (roundDiv (dms - dsm - 2 * y.asymmetry) 2) y.log else z.1) := by
  subst hdms
  rw [exec_ptpDelayResp hh hm hp hr hq ho]
  generalize hu : s.setPtp port { s.ptp port with resp := some (t4, c), reqLog := clampInt (-7) 5 l } = u
  have hport : u.ptp port = { s.ptp port with resp := some (t4, c), reqLog := clampInt (-7) 5 l } := by rw [← hu, ptp_set]
  congr 1
  refine e2eDone_of_complete (by rw [hport]; exact hs) (by rw [hport]; exact hr) (by rw [hport]) hw (by rw [hport]; exact hp) hdsm ?_
  rw [hport, ← hu, setPtp_setPtp]
  exact hz

end

/-! ## Peer delay (R310, R315) -/

theorem exec_ptpPdelayReq_ignored (hi : s.ptpHears port h = false ∨ (s.ptp port).p2p = false) (q : W16) (c : PtpTime) :
    exec (.ptpPdelayReq port h q c) s = .next s :=
  if_pos (by rcases hi with hi | hi <;> simp [hi])

theorem exec_ptpPdelayReq (hh : s.ptpHears port h = true) (hp : (s.ptp port).p2p = true) (q : W16) (c : PtpTime) :
    exec (.ptpPdelayReq port h q c) s = .next { s with host := { s.host with out := s.host.out ++
      (.ptpTx port 3 q.toNat (ownPort port).toNat h.sender.toNat (s.ns16 - ((s.ptp port).ingress : Int)) (s.ns16 + ((s.ptp port).egress : Int)) c ::
        (if tb (s.ptp port).config.toNat 35 then
          [.ptpTx port 4 q.toNat (ownPort port).toNat h.sender.toNat (s.ns16 - ((s.ptp port).ingress : Int)) (s.ns16 + ((s.ptp port).egress : Int)) c]
          else [])) } } := by
  refine (if_neg (by simp [hh, hp])).trans ?_
  dsimp only
  split
  · simp only [State.emit, List.append_assoc, List.singleton_append]
  · rfl

theorem exec_ptpPdelayResp_ignored {q : W16} {o : BitVec 80} (hi : s.ptpHears port h = false ∨ (s.ptp port).p2p = false ∨
      ∀ r, (s.ptp port).req = some r → r.seq ≠ q ∨ o ≠ ownPort port) (w : Bool) (t2 c : PtpTime) :
    exec (.ptpPdelayResp port ⟨h, q⟩ o w t2 c) s = .next s := by
  rw [← pendingReq_eq_none_iff] at hi
  exact if_pos (by rcases hi with hi | hi | hi <;> simp [hi])

theorem peerDone_eq {r : PtpReq} (hr : (s.ptp port).req = some r) (t2 t3 rx c : Int) :
    s.peerDone port t2 t3 rx c = ((s.setPtp port { s.ptp port with req := none, pdelay := none }).pathDelay port
      ((rx - (r.ingress : Int)) - (r.t + (r.egress : Int)) - (t3 - t2) - c)).1 := by
  unfold State.peerDone
  simp only [hr]

section
variable {q : W16} {o : BitVec 80} {r : PtpReq} (hh : s.ptpHears port h = true) (hp : (s.ptp port).p2p = true)
  (hr : (s.ptp port).req = some r) (hq : r.seq = q) (ho : o = ownPort port)
include hh hp hr hq ho

theorem exec_ptpPdelayResp_twoStep (t2 c : PtpTime) : exec (.ptpPdelayResp port ⟨h, q⟩ o true t2 c) s =
    .next (s.setPtp port { s.ptp port with pdelay := some (q, t2, s.ns16, c) }) :=
  if_neg (by simp [hh, hp, PtpPort.pendingReq, hr, hq, ho])

theorem exec_ptpPdelayResp_oneStep (t2 c : PtpTime) : exec (.ptpPdelayResp port ⟨h, q⟩ o false t2 c) s =
    .next ((s.setPtp port { s.ptp port with req := none, pdelay := none }).pathDelay port
      ((s.ns16 - (r.ingress : Int)) - (r.t + (r.egress : Int)) - c)).1 := by
  refine (if_neg (by simp [hh, hp, PtpPort.pendingReq, hr, hq, ho])).trans ?_
  rw [if_neg (by decide), peerDone_eq hr, Int.sub_zero, Int.sub_zero]

end

theorem exec_ptpPdelayRespFollowUp_ignored {q : W16} {o : BitVec 80} (hi : s.ptpHears port h = false ∨ (s.ptp port).p2p = false ∨
      o ≠ ownPort port ∨ ∀ a b d, (s.ptp port).pdelay ≠ some (q, a, b, d)) (t3 c : PtpTime) :
    exec (.ptpPdelayRespFollowUp port ⟨⟨h, q⟩, o⟩ t3 c) s = .next s := by
  change execPtpPdelayRespFollowUp _ _ _ _ _ = _
  unfold execPtpPdelayRespFollowUp
  dsimp only
  split
  · rfl
  · rename_i hn
    split
    · rename_i q' a b d hd
      refine if_neg fun hq => ?_
      subst hq
      rcases hi with hi | hi | hi | hi
      · exact hn (by simp [hi])
      · exact hn (by simp [hi])
      · exact hn (by simp [hi])
      · exact hi a b d hd
    · rfl

theorem exec_ptpPdelayRespFollowUp {q : W16} {o : BitVec 80} {r : PtpReq} {a b d : Int} (hh : s.ptpHears port h = true)
    (hp : (s.ptp port).p2p = true) (ho : o = ownPort port) (hd : (s.ptp port).pdelay = some (q, a, b, d)) (hr : (s.ptp port).req = some r)
    (t3 c : PtpTime) :
    exec (.ptpPdelayRespFollowUp port ⟨⟨h, q⟩, o⟩ t3 c) s =
      .next ((s.setPtp port { s.ptp port with req := none, pdelay := none }).pathDelay port
        ((b - (r.ingress : Int)) - (r.t + (r.egress : Int)) - (t3 - a) - (d + c))).1 := by
  refine (if_neg (by simp [hh, hp, ho])).trans ?_
  rw [hd]
  exact (if_pos rfl).trans (by rw [peerDone_eq hr])

/-- A message of another transport, tag or domain, or to a port that is down, off or in a restart, is ignored. -/
theorem exec_ptp_unheard (hn : s.ptpHears port h = false) (c : Instr)
    (hc : (∃ a, c = .ptpAnnounce port ⟨h, a⟩) ∨ (∃ q w l a b, c = .ptpSync port h q w l a b) ∨
      (∃ q a b, c = .ptpFollowUp port ⟨h, q⟩ a b) ∨ (∃ o q l a b, c = .ptpDelayResp port ⟨⟨h, q⟩, o⟩ l a b) ∨ (∃ q a, c = .ptpPdelayReq port h q a) ∨
      (∃ o q w a b, c = .ptpPdelayResp port ⟨h, q⟩ o w a b) ∨ (∃ o q a b, c = .ptpPdelayRespFollowUp port ⟨⟨h, q⟩, o⟩ a b)) :
    exec c s = .next s := by
  rcases hc with ⟨a, rfl⟩ | ⟨q, w, l, a, b, rfl⟩ | ⟨q, a, b, rfl⟩ | ⟨o, q, l, a, b, rfl⟩ | ⟨q, a, rfl⟩ | ⟨o, q, w, a, b, rfl⟩ | ⟨o, q, a, b, rfl⟩
  · exact exec_ptpAnnounce_ignored (.inl hn)
  · exact exec_ptpSync_ignored (.inl hn) ..
  · exact exec_ptpFollowUp_ignored (.inl hn) ..
  · exact exec_ptpDelayResp_ignored (.inl hn) ..
  · exact exec_ptpPdelayReq_ignored (.inl hn) ..
  · exact exec_ptpPdelayResp_ignored (.inl hn) ..
  · exact exec_ptpPdelayRespFollowUp_ignored (.inl hn) ..

end

end Sys2Proof.Machine
end

section
/-! Requests, masters that fall silent, and the management ports (R310, R312, R314, R552); PPS, SYNC_IN and steps of fabric time (R29,
R308, R318, R320 to R323). -/

namespace Sys2Proof.Machine

section
variable {s : State} {port : Bool}

/-! ## Requests and receipt timeouts (R310, R312, R313) -/

theorem exec_delayReqSend_idle {peer : Bool} (hi : s.ptpOn port = false ∨ (s.ptp port).p2p ≠ peer ∨
      ((s.ptp port).p2p = false ∧ (s.ptp port).best = none) ∨
      (0 < (s.ptp port).reqSeq.toNat ∧ s.ns < (s.ptp port).reqAt + logInterval (s.ptp port).reqLog)) :
    exec (.delayReqSend port peer) s = .next s :=
  if_pos (by rcases hi with hi | hi | ⟨hp, hb⟩ | ⟨hq, hn⟩ <;> [simp [hi]; simp [hi]; simp [hp, hb]; simp [hq, hn]])

theorem exec_delayReqSend {peer : Bool} (hon : s.ptpOn port = true) (hp : (s.ptp port).p2p = peer)
    (hm : (s.ptp port).p2p = true ∨ (s.ptp port).best.isSome = true)
    (hq : (s.ptp port).reqSeq = 0 ∨ (s.ptp port).reqAt + logInterval (s.ptp port).reqLog ≤ s.ns) :
    exec (.delayReqSend port peer) s = .next ((s.setPtp port { s.ptp port with
        req := some { seq := (s.ptp port).reqSeq, t := s.ns16, ingress := (s.ptp port).ingress, egress := (s.ptp port).egress },
        resp := none, reqSeq := (s.ptp port).reqSeq + 1, reqAt := s.ns, pdelay := none }).emit
      (.ptpTx port (if (s.ptp port).p2p then 2 else 1) (s.ptp port).reqSeq.toNat (ownPort port).toNat 0 0
        (s.ns16 + ((s.ptp port).egress : Int)) 0)) := by
  have hmaster : (!(s.ptp port).p2p && (s.ptp port).best.isNone) = false := by
    rcases hm with hm | hm
    · simp [hm]
    · obtain ⟨m, hm⟩ := Option.isSome_iff_exists.1 hm
      simp [hm]
  have hdue : (decide (0 < (s.ptp port).reqSeq.toNat) && decide (s.ns < (s.ptp port).reqAt + logInterval (s.ptp port).reqLog)) = false := by
    rcases hq with hq | hq <;> simp [hq]
  subst hp
  exact if_neg (by rw [hon, bne_self_eq_false, hmaster, hdue]; decide)

theorem ptp_emit (s : State) (o : Out) (b : Bool) : (s.emit o).ptp b = s.ptp b := rfl

theorem annLate_iff (p : PtpPort) (now : Nat) : p.annLate now = true ↔
    ∃ m, p.best = some m ∧ p.annAt + fld p.config.toNat 27 8 * logInterval m.2.logInterval ≤ now := by
  unfold PtpPort.annLate
  cases p.best <;> simp

theorem syncLate_iff (p : PtpPort) (now : Nat) :
    p.syncLate now = true ↔ p.syncSeen = true ∧ p.syncAt + 16 * logInterval p.syncLog ≤ now := by
  simp [PtpPort.syncLate]

theorem exec_announceTimeout_restarting (h : s.sys.restarting = true) : exec (.announceTimeout port) s = .next s := if_pos h

section
variable (hr : s.sys.restarting = false)
include hr

theorem exec_announceTimeout_of_annLate (h : (s.ptp port).annLate s.ns = true) :
    exec (.announceTimeout port) s = .next (s.loseMaster port) :=
  (if_neg (by simp [hr])).trans (if_pos h)

theorem exec_announceTimeout_of_syncLate (h : ¬ (s.ptp port).annLate s.ns = true) (hq : (s.ptp port).syncLate s.ns = true) :
    exec (.announceTimeout port) s =
      .next (s.setPtp port { s.ptp port with syncSeen := false, hasMaster := false, sync := none, resp := none }).selectPort :=
  ((if_neg (by simp [hr])).trans (if_neg h)).trans (if_pos hq)

theorem exec_announceTimeout_of_heard (h : ¬ (s.ptp port).annLate s.ns = true) (hq : ¬ (s.ptp port).syncLate s.ns = true) :
    exec (.announceTimeout port) s = .next s :=
  ((if_neg (by simp [hr])).trans (if_neg h)).trans (if_neg hq)

end

theorem exec_ethPortUp_idle (h : s.clk.ethref = false) (rate : Bool) : exec (.ethPortUp port rate) s = .next s :=
  if_pos (by simp [h])

theorem exec_ethPortUp (h : s.clk.ethref = true) (rate : Bool) :
    exec (.ethPortUp port rate) s = .next (s.setPtp port { s.ptp port with
      up := true, rate25 := rate
      ingress := if (s.ptp port).latSet then (s.ptp port).ingress else if rate then 2064384 else 4404019
      egress := if (s.ptp port).latSet then (s.ptp port).egress else if rate then 1468006 else 3145728 }) :=
  if_neg (by simp [h])

end

section
variable {s : State}

/-! ## PPS_IN (R320, R321) -/

/-- An edge less than 1 ms after the one before, while a timestamp is held or a glitch stands, drops what is held (R320). -/
theorem exec_ppsInEdge_glitch {e : Nat} (he : s.ft.ppsEdge = some e) (hn : s.ns < e + 1000000)
    (hg : s.ft.ppsGlitch = true ∨ s.ft.ppsHeld.isSome = true) :
    ∃ t, exec .ppsInEdge s = .next t ∧ t.ft = { s.ft with ppsHeld := none, ppsEdge := some s.ns, ppsGlitch := true } := by
  refine ⟨_, if_pos ?_, ?_⟩
  · rw [he]
    rcases hg with hg | hg <;> simp [hn, hg]
  · split
    · rfl
    · exact (told_ft (State.raise_told ..)).1

theorem exec_ppsInEdge (h : (¬ ∃ e, s.ft.ppsEdge = some e ∧ s.ns < e + 1000000) ∨ (s.ft.ppsGlitch = false ∧ s.ft.ppsHeld = none)) :
    exec .ppsInEdge s = .next { s with ft := { s.ft with ppsHeld := some s.edgeTime, ppsEdge := some s.ns, ppsGlitch := false } } := by
  refine if_neg ?_
  rcases h with h | ⟨hg, hh⟩
  · intro hc
    refine h ?_
    cases he : s.ft.ppsEdge with
    | none => simp [he] at hc
    | some e =>
      rw [he, Bool.and_eq_true, decide_eq_true_eq] at hc
      exact ⟨e, rfl, hc.1⟩
  · simp [hg, hh]

theorem exec_ppsInAccept_idle (h : s.ft.ppsHeld = none ∨ s.ft.ppsEdge = none ∨ ∃ e, s.ft.ppsEdge = some e ∧ s.ns < e + 1000000) :
    exec .ppsInAccept s = .next s := by
  change execPpsInAccept s = _
  unfold execPpsInAccept
  split
  · rename_i t e ht he
    rcases h with h | h | ⟨e', h, hn⟩
    · exact absurd (ht.symm.trans h) (by simp)
    · exact absurd (he.symm.trans h) (by simp)
    · obtain rfl : e' = e := Option.some.inj (h.symm.trans he)
      exact if_pos hn
  · rfl

/-- The conditions of R321 for a held timestamp: near a whole second, or the source of a servo that may step to it. -/
def State.ppsAccepts (s : State) (o : Int) : Bool :=
  decide (o.natAbs ≤ 65536000) ||
    (s.ft.source == .pps && (s.ft.state == .freerun || s.ft.state == .acquiring) && decide (s.ft.stepThreshold * 65536 < o.natAbs))

theorem ppsAccepts_iff (s : State) (o : Int) : s.ppsAccepts o = true ↔ o.natAbs ≤ 65536000 ∨
    (s.ft.source = .pps ∧ (s.ft.state = .freerun ∨ s.ft.state = .acquiring) ∧ s.ft.stepThreshold * 65536 < o.natAbs) := by
  simp [State.ppsAccepts, and_assoc]

/-- The state after the held timestamp has been taken out. -/
def State.ppsTaken (s : State) : State := { s with ft := { s.ft with ppsHeld := none } }

/-- The state after it has been accepted. -/
def State.ppsAccepted (s : State) (t : Int) (e : Nat) : State :=
  { s.ppsTaken with ft := { s.ppsTaken.ft with ppsValid := true, ppsOffset := fromSecond t, ppsLast := e, ppsLost := false } }

section
variable {t : Int} {e : Nat} (ht : s.ft.ppsHeld = some t) (he : s.ft.ppsEdge = some e) (hn : e + 1000000 ≤ s.ns)
include ht he hn

theorem exec_ppsInAccept : exec .ppsInAccept s = .next (if s.ppsAccepts (fromSecond t) then
    (if s.ft.source == .pps then (s.ppsAccepted t e).servo (fromSecond t) 0 else s.ppsAccepted t e) else s.ppsTaken) := by
  change execPpsInAccept s = _
  unfold execPpsInAccept
  split
  · rename_i t' e' ht' he'
    obtain rfl : t' = t := Option.some.inj (ht'.symm.trans ht)
    obtain rfl : e' = e := Option.some.inj (he'.symm.trans he)
    rw [if_neg (by omega)]
    change (if s.ppsAccepts (fromSecond t') = true then _ else _) = _
    split <;> rfl
  · rename_i hnone
    exact (hnone t e ht he).elim

end

theorem exec_ppsLoss_idle (h : s.ft.ppsLost = true ∨ s.ns < s.ft.ppsLast + 2000000000) : exec .ppsLoss s = .next s :=
  if_pos (by rcases h with h | h <;> simp [h])

/-- The input is lost, an event is raised, and the source is looked at (R318, R321). -/
theorem exec_ppsLoss (h : s.ft.ppsLost = false) (hn : s.ft.ppsLast + 2000000000 ≤ s.ns) :
    ∃ u, Told { s with ft := { s.ft with ppsValid := false, ppsLost := true } } u ∧ exec .ppsLoss s = .next u.checkSource :=
  ⟨_, State.raise_told .., if_neg (by simp [h, hn])⟩

theorem checkSource_ppsValid (s : State) : s.checkSource.ft.ppsValid = s.ft.ppsValid := by
  unfold State.checkSource
  split
  · exact (holdover_spec s).2.2.1
  · rfl

theorem checkSource_state_of_lost (h : s.sourceLost = true) (hr : s.sys.restarting = false)
    (hs : s.ft.state = .acquiring ∨ s.ft.state = .locked) : s.checkSource.ft.state = .holdover := by
  rw [checkSource_of_lost h]
  exact (holdover_spec s).2.2.2 hr hs

/-! ## PPS_OUT (R322) -/

theorem exec_ppsOutRise_idle (h : tb s.ft.ppsOut.toNat 0 = false ∨ s.ppsSecond < s.ft.ppsOutNext) : exec .ppsOutRise s = .next s :=
  if_pos (by rcases h with h | h <;> simp [h])

section
variable (hon : tb s.ft.ppsOut.toNat 0 = true) (hn : s.ft.ppsOutNext ≤ s.ppsSecond)
include hon hn

theorem exec_ppsOutRise_gated (hg : tb s.ft.ppsOut.toNat 1 = true) (hl : s.ft.state ≠ .locked) (hh : s.ft.state ≠ .holdover) :
    exec .ppsOutRise s = .next { s with ft := { s.ft with ppsOutNext := s.ppsSecond + 1 } } :=
  (if_neg (by simp [hon, hn])).trans (if_pos (by simp [State.ppsOpen, hg, hl, hh]))

theorem exec_ppsOutRise_open (ho : tb s.ft.ppsOut.toNat 1 = false ∨ s.ft.state = .locked ∨ s.ft.state = .holdover) :
    exec .ppsOutRise s = .next { s with ft := { s.ft with
      ppsOutNext := s.ppsSecond + 1, ppsOutLine := true, ppsOutEnd := s.ns + 1000 * fld s.ft.ppsOut.toNat 8 24 } } :=
  (if_neg (by simp [hon, hn])).trans (if_neg (by rcases ho with ho | ho | ho <;> simp [State.ppsOpen, hon, ho]))

end

theorem exec_ppsOutFall (s : State) : exec .ppsOutFall s =
    .next (if s.ft.ppsOutLine = true ∧ s.ft.ppsOutEnd ≤ s.ns then { s with ft := { s.ft with ppsOutLine := false } } else s) := by
  change execPpsOutFall s = _
  simp only [execPpsOutFall, Bool.and_eq_true, decide_eq_true_eq]
  split <;> rfl

/-! ## SYNC_IN (R29, R323) -/

theorem exec_syncInEdge_merged (hl : s.ft.syncLine = true) (hn : ((s.ns : Int) - s.ft.syncTime).natAbs < 2000) :
    exec .syncInEdge s = .next { s with ft := { s.ft with syncLine := true, syncStuck := false, syncTick := s.clk.ticks } } :=
  if_pos (by simp [hl, hn])

theorem exec_syncInEdge (h : s.ft.syncLine = false ∨ 2000 ≤ ((s.ns : Int) - s.ft.syncTime).natAbs) {tick : Nat}
    (ht : tick = if 27 ≤ s.toTick then s.clk.frame + 1 else s.clk.frame + 2) :
    exec .syncInEdge s = .next { s with
      ft := { s.ft with syncLine := true, syncStuck := false, syncTick := s.clk.ticks, syncCount := s.ft.syncCount + 1, syncTime := s.ns }
      imp := { s.imp with armed := s.imp.armed.map (fun a => if a.trigger = .onSync ∧ a.due = none then { a with due := some (2000 * tick) } else a) } } := by
  rw [← add_ite] at ht
  subst ht
  refine (if_neg (by rcases h with h | h <;> simp [h])).trans ?_
  simp only [Option.isNone_iff_eq_none]

theorem exec_syncStuck_idle (h : s.ft.syncLine = false ∨ s.ft.syncStuck = true ∨ s.clk.ticks < s.ft.syncTick + 500000) :
    exec .syncStuck s = .next s :=
  if_pos (by rcases h with h | h | h <;> simp [h])

theorem exec_syncStuck (hl : s.ft.syncLine = true) (hs : s.ft.syncStuck = false) (hn : s.ft.syncTick + 500000 ≤ s.clk.ticks) :
    ∃ t, exec .syncStuck s = .next t ∧ t.ft = { s.ft with syncStuck := true } :=
  ⟨_, if_neg (by simp [hl, hs, hn]), (told_ft (State.raise_told ..)).1⟩

/-! ## Steps (R308) -/

theorem exec_timeStep_idle (h : s.ft.step = none ∨ (∃ q, s.ft.step = some q ∧ q.armed = false) ∨ s.pair.held = true ∨ s.runs = false) :
    exec .timeStep s = .next s := by
  change execTimeStep s = _
  unfold execTimeStep
  split
  · rfl
  · rename_i q hq
    refine if_pos ?_
    rcases h with h | ⟨q', h, ha⟩ | h | h
    · exact absurd (hq.symm.trans h) (by simp)
    · obtain rfl : q' = q := Option.some.inj (h.symm.trans hq)
      simp [ha]
    · simp [h]
    · simp [h]

/-- The time that a step sets, in whole ns, from the time at which it is applied (R308). -/
def StepReq.target (q : StepReq) (now : Int) : Nat :=
  match q.absolute with
  | some a => a
  | none => (((now + q.offset) / 65536) % 2 ^ 64).toNat

/-- After a step: the time is the one asked for, nothing remains to be corrected, and the slot table is stopped. -/
structure Stepped (q : StepReq) (s t : State) : Prop where
  time : t.ft.t = q.target (s.atCycle 64).ns16 * 2 ^ 48
  rem : t.ft.rem = 0
  step : t.ft.step = none
  current : t.sched.current = none
  next : t.sched.next = none
  running : t.sched.running = false
  armed : ∀ a ∈ t.imp.armed, a.source ≠ 0

theorem Stepped.spoke {q : StepReq} {s t u : State} (h : Stepped q s t) (g : Spoke t u) : Stepped q s u := by
  obtain ⟨_, _, _, _, _, rfl⟩ := g
  exact ⟨h.time, h.rem, h.step, h.current, h.next, h.running, h.armed⟩

/-- What stops the slot table leaves the time as the step has set it. -/
theorem Stepped.of_stopSlots {q : StepReq} {s t u : State} (ht : Told t u)
    (htime : t.ft.t = q.target (s.atCycle 64).ns16 * 2 ^ 48) (hrem : t.ft.rem = 0) (hstep : t.ft.step = none) :
    Stepped q s u.stopSlots := by
  obtain ⟨hcur, hnext, hrun, harmed, hft⟩ := stopSlots_spec u
  have hft' : u.stopSlots.ft = t.ft := hft.trans (told_ft ht).1
  exact ⟨by rw [hft', htime], by rw [hft', hrem], by rw [hft', hstep], hcur, hnext, hrun, harmed⟩

theorem exec_timeStep {q : StepReq} (hq : s.ft.step = some q) (ha : q.armed = true) (hh : s.pair.held = false) (hr : s.runs = true) :
    ∃ t, exec .timeStep s = .next t ∧ Stepped q s t := by
  change ∃ t, execTimeStep s = .next t ∧ _
  unfold execTimeStep
  simp only [hq]
  rw [if_neg (by simp [ha, hh, hr])]
  refine ⟨_, rfl, ?_⟩
  split
  · exact (Stepped.of_stopSlots (State.raise_told ..) rfl rfl rfl).spoke (State.answer_spoke ..)
  · exact Stepped.of_stopSlots (State.raise_told ..) rfl rfl rfl

end

/-! ## The obligation -/

/-- Settles O57: each clause is the lemma of its command and case. -/
theorem timeCommandsComplete : Obligations.TimeCommandsComplete := by
  intro s
  refine ⟨ptpOn_iff s, ptpHears_iff s, fun port h hn c => exec_ptp_unheard hn c, ?messages, ?requests, fun port => ⟨exec_announceTimeout_restarting,
    ?timeouts, ⟨_, rfl, portDown_ptp s port⟩, fun rate => ⟨fun he => exec_ethPortUp_idle he rate, ?portUp⟩⟩, ?edges, exec_ppsInAccept_idle, ?accepted,
    exec_ppsLoss_idle, ?ppsLoss, exec_ppsOutRise_idle, fun hon hn => ⟨exec_ppsOutRise_gated hon hn, exec_ppsOutRise_open hon hn⟩,
    exec_ppsOutFall s, exec_syncInEdge_merged, fun hl tick => exec_syncInEdge hl, exec_syncStuck_idle, exec_syncStuck, exec_timeStep_idle, ?step⟩
  case messages =>
    rintro port h _ rfl hh
    refine ⟨fun a => ⟨fun hi => exec_ptpAnnounce_ignored (.inr hi), fun hlo hhi => ?_⟩, fun q l t1 c o => ⟨fromMaster_iff _ _, fun hm => ?_,
      fun hm => ?_, ?_, ?_, ?_, ?_⟩, fun q c => ⟨fun hp => exec_ptpPdelayReq_ignored (.inr hp) q c, fun hp => exec_ptpPdelayReq hh hp q c⟩⟩
    · rw [exec_ptpAnnounce hh hlo hhi]
      exact ⟨fun hb => by rw [announced_of_better hb], fun b hb hs => by rw [announced_of_same hb hs],
        fun b hb hs hw => by rw [announced_of_worse hb hs hw]⟩
    · exact ⟨fun w => exec_ptpSync_ignored (.inr hm) .., exec_ptpFollowUp_ignored (.inr hm) .., exec_ptpDelayResp_ignored (.inr (.inl hm)) ..⟩
    · exact ⟨fun hl w => exec_ptpSync_of_interval hh hm hl .., fun hlo hhi w => exec_ptpSync hh hm hlo hhi ..,
        fun hs => exec_ptpFollowUp_unmatched hh hm hs .., fun y hs hw hq => exec_ptpFollowUp hh hm hs hw hq ..,
        fun hi => exec_ptpDelayResp_ignored (.inr (.inr hi)) ..,
        fun r hp hr hq ho => ⟨fun hs => exec_ptpDelayResp_early hh hm hp hr hq ho hs ..,
          fun y dms dsm z hs hw hdms hdsm hz => exec_ptpDelayResp_last hh hm hp hr hq ho l t1 c hs hw hdms hdsm hz⟩⟩
    · exact fun hi w => exec_ptpPdelayResp_ignored (.inr hi) ..
    · exact fun r hp hr hq ho => ⟨exec_ptpPdelayResp_twoStep hh hp hr hq ho .., exec_ptpPdelayResp_oneStep hh hp hr hq ho ..⟩
    · exact fun hi => exec_ptpPdelayRespFollowUp_ignored (.inr hi) ..
    · exact fun a b d r hp ho hd hr => exec_ptpPdelayRespFollowUp hh hp ho hd hr ..
  case requests =>
    rintro port peer _ rfl
    refine ⟨exec_delayReqSend_idle, fun hon hp hm hq => ⟨_, exec_delayReqSend hon hp hm hq, ?_, ?_⟩⟩
    · rw [ptp_emit, ptp_set]
    · rw [State.emit, (setPtp_rest ..).2.2]
  case timeouts =>
    intro hr lost quiet hlost hquiet
    rw [← annLate_iff] at hlost
    rw [← syncLate_iff] at hquiet
    rw [hlost, hquiet]
    refine ⟨exec_announceTimeout_of_heard hr, fun hl => ⟨_, exec_announceTimeout_of_annLate hr hl, loseMaster_spec s port⟩,
      fun hl hq => ⟨_, exec_announceTimeout_of_syncLate hr hl hq, ?_, ?_⟩⟩
    · rw [(selectPort_spec _).1, ptp_set]
    · rw [(selectPort_spec _).2, (setPtp_rest ..).1]
  case portUp =>
    exact fun he => ⟨_, exec_ethPortUp he rate, ptp_set .., (setPtp_rest ..).2.1⟩
  case edges =>
    intro near hnear
    rw [hnear]
    exact ⟨fun ⟨e, he, hn⟩ hg => exec_ppsInEdge_glitch he hn hg, exec_ppsInEdge⟩
  case accepted =>
    rintro t e _ _ ht he hn rfl rfl ok hok
    rw [← ppsAccepts_iff] at hok
    rw [hok, exec_ppsInAccept ht he hn]
    exact ⟨fun ha hp => by rw [if_pos ha, if_pos (by simp [hp])]; rfl, fun ha hp => by rw [if_pos ha, if_neg (by simp [hp])]; rfl,
      fun ha => by rw [if_neg ha]; rfl⟩
  case ppsLoss =>
    intro hl hn
    obtain ⟨_, ⟨f, g, rfl⟩, hexec⟩ := exec_ppsLoss hl hn
    refine ⟨_, hexec, checkSource_ppsValid _, (checkSource_sameSource _).ppsLost, (checkSource_spec _).2, fun hp hr hs => ?_⟩
    exact checkSource_state_of_lost (sourceLost_of_pps hp) hr hs.symm
  case step =>
    intro q hq ha hheld hr
    obtain ⟨t, hexec, htime, hrem, hstep, hcur, hnext, hrun, harmed⟩ := exec_timeStep hq ha hheld hr
    exact ⟨t, hexec, htime, hrem, hstep, hcur, hnext, hrun, harmed⟩

end Sys2Proof.Machine
end

section
/-! Flash writes when they end (R67, R378, R423, R440, R442, R450, R451), and the programming of fuses (R448). -/

namespace Sys2Proof.Machine

section
variable {s : State}

/-! ## Flash writes -/

theorem exec_flashWriteDone_idle (h : s.sys.flashJobs = []) (ok : Bool) : exec (.flashWriteDone ok) s = .next s := by
  show execFlashWriteDone ok s = _
  simp [execFlashWriteDone, h]

/-- The first write that is no staging ends, or the staging where no other write waits (R450). -/
theorem exec_flashWriteDone {j : FlashJob} {rest : List FlashJob}
    (h : s.sys.flashJobs.filter (fun x => !x.isStage) ++ s.sys.flashJobs.filter FlashJob.isStage = j :: rest) (ok : Bool) :
    exec (.flashWriteDone ok) s = .next (({ s with sys := { s.sys with flashJobs := rest } } : State).flashDone ok j) := by
  show execFlashWriteDone ok s = _
  simp only [execFlashWriteDone, h]

/-! What a write is made of rests on the bytes of flash alone: neither the queue nor STAGING moves a record's copy and number, the mode
record's body, or a slot's number and length. -/

theorem recordSeq_of_flash {t : State} (h : t.sys.flash = s.sys.flash) (a len : Nat) : t.recordSeq a len = s.recordSeq a len := by
  unfold State.recordSeq State.flashBytes
  rw [h]

theorem recordInForce_of_flash {t : State} (h : t.sys.flash = s.sys.flash) (a0 a1 len : Nat) :
    t.recordInForce a0 a1 len = s.recordInForce a0 a1 len := by
  simp only [State.recordInForce, recordSeq_of_flash h]

theorem recordNext_of_flash {t : State} (h : t.sys.flash = s.sys.flash) (a0 a1 len : Nat) :
    t.recordNext a0 a1 len = s.recordNext a0 a1 len := by
  simp only [State.recordNext, recordInForce_of_flash h]

theorem modeBody_of_flash {t : State} (h : t.sys.flash = s.sys.flash) : t.modeBody = s.modeBody := by
  simp only [State.modeBody, State.flashBytes, recordInForce_of_flash h, h]

theorem slotSeq_of_flash {t : State} (h : t.sys.flash = s.sys.flash) (b : Bool) : t.slotSeq b = s.slotSeq b := by
  simp only [State.slotSeq, State.flashBytes, h]

theorem slotLen_of_flash {t : State} (h : t.sys.flash = s.sys.flash) (b : Bool) : t.slotLen b = s.slotLen b := by
  simp only [State.slotLen, State.flashBytes, h]

theorem writeRecord_of_flash {t : State} (h : t.sys.flash = s.sys.flash) (a0 a1 : Nat) (body : List Byte) :
    t.writeRecord a0 a1 body = t.flashWrite (if (s.recordNext a0 a1 body.length).1 then a1 else a0)
      (recordBytes (s.recordNext a0 a1 body.length).2 body) := by
  simp only [State.writeRecord, recordNext_of_flash h]

theorem flashDone_stage (b : Bool) (image : List Byte) (c : CmdRef) :
    s.flashDone true (.stage b image c) = ({ s with sys := { s.sys with staging := false } } : State).stageDone b image c := by
  simp only [State.flashDone, if_true]

theorem stageDone_of_imageFault {b : Bool} {image : List Byte} (c : CmdRef)
    (h : ((s.flashWrite (slotBase b + 4096) image).imageFault (image.take 512) image.length
      (sliceB image 512 (fieldB image 0x10 4))).isSome = true) :
    s.stageDone b image c = (s.flashWrite (slotBase b + 4096) image).answer c stNotPermitted [] := by
  simp only [State.stageDone, h, if_true]

theorem stageDone_of_verified {b : Bool} {image : List Byte} (c : CmdRef)
    (h : (s.flashWrite (slotBase b + 4096) image).imageFault (image.take 512) image.length
      (sliceB image 512 (fieldB image 0x10 4)) = none) :
    s.stageDone b image c = ((s.flashWrite (slotBase b + 4096) image).writeControl b
      ((s.slotSeq s.sys.slotB + 2 ^ 32 - 1) % 2 ^ 32) image.length).answer c stOk [(0, bit b), (4, fieldB image 8 4)] := by
  simp only [State.stageDone, h, Option.isSome_none, Bool.false_eq_true, if_false]

/-! ## Fuses -/

/-- Whichever bits an interrupted programming has reached (log 9): none clears, and none is set that was not asked for. -/
theorem fusePartial_fuses (want : BitVec 4096) (k : Nat) :
    (s.sys.fuses.getLsbD k = true → (s.fusePartial want).sys.fuses.getLsbD k = true) ∧
    ((s.fusePartial want).sys.fuses.getLsbD k = true → s.sys.fuses.getLsbD k = true ∨ want.getLsbD k = true) := by
  have hbit : (s.fusePartial want).sys.fuses.getLsbD k =
      (s.sys.fuses.getLsbD k || (want.getLsbD k && (BitVec.ofNat 4096 (Config.freeNat s.fresh.1)).getLsbD k)) := by
    rw [← BitVec.getLsbD_and, ← BitVec.getLsbD_or]; rfl
  rw [hbit, Bool.or_eq_true, Bool.and_eq_true]
  exact ⟨Or.inl, Or.imp_right And.left⟩

theorem exec_fuseProgramDone_idle (h : s.sys.fuseJob = none) (ok : Bool) : exec (.fuseProgramDone ok) s = .next s := by
  show execFuseProgramDone ok s = _
  simp only [execFuseProgramDone, h]

theorem exec_fuseEnDeassert_idle (h : s.sys.fuseJob = none) :
    exec .fuseEnDeassert s = .next { s with clk := { s.clk with fuseEn := false } } := by
  show execFuseEnDeassert s = _
  simp only [execFuseEnDeassert, h]

section
variable {want : BitVec 4096} {c : CmdRef} (h : s.sys.fuseJob = some (want, c))
include h

theorem exec_fuseProgramDone_matched : exec (.fuseProgramDone true) s = .next
    (({ s with sys := { s.sys with fuseJob := none, fuses := s.sys.fuses ||| want ||| BitVec.ofNat 4096 (2 ^ 2819) } } : State).answer
      c stOk []) := by
  show execFuseProgramDone true s = _
  simp only [execFuseProgramDone, h, if_true]

theorem exec_fuseProgramDone_failed :
    exec (.fuseProgramDone false) s = .next ((s.fusePartial want).answer c stInternal []) := by
  show execFuseProgramDone false s = _
  simp [execFuseProgramDone, h]

theorem exec_fuseEnDeassert_programming : exec .fuseEnDeassert s = .next
    ((({ s with clk := { s.clk with fuseEn := false } } : State).fusePartial want).answer c stNotPermitted []) := by
  show execFuseEnDeassert s = _
  simp only [execFuseEnDeassert, h]

end

end

/-- Settles O37: the write at the head of the order is done by `State.flashDone`, one case for each kind; the fuses of an interrupted programming
are those of `fusePartial_fuses`. -/
theorem flashAndFuseWritesComplete : Obligations.FlashAndFuseWritesComplete := by
  intro s
  refine ⟨exec_flashWriteDone_idle, ?flash, exec_fuseProgramDone_idle,
    fun want c h => ⟨exec_fuseProgramDone_matched h, ?fuses⟩, exec_fuseEnDeassert_idle⟩
  case flash =>
    rintro j rest u hj hu
    have hflash : u.sys.flash = s.sys.flash := by rw [hu]
    have hslot : u.sys.slotB = s.sys.slotB := by rw [hu]
    have hdone (ok : Bool) : exec (.flashWriteDone ok) s = .next (u.flashDone ok j) := by rw [exec_flashWriteDone hj, hu]
    clear hu
    refine ⟨?records, ?control, ?stage⟩
    case records =>
      rintro a0 a1 body w hw
      rw [← writeRecord_of_flash hflash] at hw
      refine ⟨?descriptor, ?retirement, ?mode, ?converter, ?fabric⟩
      case descriptor => rintro c rfl rfl rfl; rw [hdone, hdone, hw]; exact ⟨rfl, rfl⟩
      case retirement => rintro rfl rfl rfl; rw [hdone, hdone, hw]; exact ⟨rfl, rfl⟩
      case mode =>
        rintro boot policy c reply rfl hbody rfl rfl
        rw [hdone, hdone, hw, hbody, ← modeBody_of_flash hflash]
        exact ⟨rfl, rfl⟩
      case converter => rintro rfl rfl rfl; rw [hdone, hdone, hw]; exact ⟨rfl, rfl⟩
      case fabric => rintro rfl rfl rfl; rw [hdone, hdone, hw]; exact ⟨rfl, rfl⟩
    case control =>
      rintro b seq c rfl
      rw [hdone, hdone, ← slotLen_of_flash hflash]
      exact ⟨rfl, rfl⟩
    case stage =>
      rintro b image c v rfl hv
      have hvflash : v.sys.flash = s.sys.flash := by rw [hv]; exact hflash
      have hvslot : v.sys.slotB = s.sys.slotB := by rw [hv]; exact hslot
      have hfail : exec (.flashWriteDone false) s = .next (v.answer c stInternal []) := by rw [hdone, hv]; rfl
      have hstage : exec (.flashWriteDone true) s = .next (v.stageDone b image c) := by rw [hdone, flashDone_stage, hv]
      refine ⟨hfail, ?_⟩
      rintro x y rfl rfl
      rw [hstage, ← slotSeq_of_flash hvflash, ← hvslot]
      exact ⟨fun hf => by rw [stageDone_of_imageFault c hf], fun hn => by rw [stageDone_of_verified c hn]; rfl⟩
  case fuses =>
    intro i st hi
    simp only [List.mem_cons, Prod.mk.injEq, List.not_mem_nil, or_false] at hi
    rcases hi with ⟨rfl, rfl⟩ | ⟨rfl, rfl⟩
    · exact ⟨_, _, exec_fuseProgramDone_failed h, rfl, rfl, nofun, fusePartial_fuses want⟩
    · exact ⟨_, _, exec_fuseEnDeassert_programming h, rfl, rfl, fun _ => rfl, fusePartial_fuses want⟩

end Sys2Proof.Machine
end

section
/-! The invariant (R94, R190, R441, R447): it holds at reset, and what a step keeps (`step_keeps`) is enough for it to stay. -/

namespace Sys2Proof.Machine

/-- The invariant speaks only of the part of the state that `State.still` reads, and not of the queue. -/
theorem State.Inv.of_keeps {s t : State} {p : List Instr} (h : Keeps { s.still with pending := p } t.still) (hs : s.Inv) : t.Inv where
  lines := h.closed hs.lines
  store := h.store hs.store
  flash := h.flash hs.flash
  buffer := h.recovery hs.buffer
  fuses k hk := h.fuses k (hs.fuses k hk)

/-- Settles O12: `step_keeps` says of the step what it keeps of the lines, the byte stores and the fuses. -/
theorem invKept : Obligations.InvKept := by
  intro s t hstep hs
  obtain ⟨p, hkeeps⟩ := step_keeps s t hstep
  exact hs.of_keeps hkeeps

/-- Settles O11: at reset the switches are open, the byte stores list no byte, and the fuses are those of the factory. -/
theorem invAtReset : Obligations.InvAtReset where
  lines h := Bool.noConfusion h
  store := rfl
  flash := rfl
  buffer := rfl
  fuses _ hk := hk

end Sys2Proof.Machine
end

section
/-! Read-back conversions (R99 to R104): what a conversion stores, what its judgement adds, and where the converter goes on. -/

namespace Sys2Proof.Machine

/-! ## What a conversion stores -/

/-- A conversion's measurement; an EO channel has no current (R99). -/
def State.measuredCh (s : State) (i : Nat) (r : Readback) : DriveCh :=
  { s.dch i with rbV := r.rawV.toNat, rbI := if i < 4608 then 0 else r.rawI.toNat, rbFrame := s.clk.frame, transition := false,
                 loadSeen := false, unjudged := s.unjudged i }

/-- A judged conversion is counted. -/
def State.countJudged (s : State) : State := { s with faults := { s.faults with rbJudged := s.faults.rbJudged + 1 } }

/-- The measurement is stored, and the conversion is counted if it is judged. -/
def State.storeReadback (s : State) (i : Nat) (r : Readback) : State :=
  if s.unjudged i then s.setDch i (s.measuredCh i r) else (s.setDch i (s.measuredCh i r)).countJudged

theorem storeReadback_rb (s : State) (i : Nat) (r : Readback) : Rb (s.setDch i (s.measuredCh i r)) (s.storeReadback i r) :=
  .ite (.refl _) ⟨rfl, rfl, rfl⟩

/-- The channels of the second state are those of the first, but for the measurement and the sticky bits of channel i. -/
def StoresReadback (s t : State) (i : Nat) (r : Readback) : Prop :=
  ∃ sticky, ∀ j, t.dch j = if i = j then { s.measuredCh i r with sticky := sticky } else s.dch j

section
variable {s t u : State} {i conv cls : Nat} {r : Readback}

/-- What leaves the channels leaves what is stored. -/
theorem StoresReadback.of_ch (h : StoresReadback s t i r) (hch : u.drive.ch = t.drive.ch) : StoresReadback s u i r := by
  obtain ⟨sticky, h⟩ := h
  exact ⟨sticky, fun j => (dch_of_ch hch j).trans (h j)⟩

theorem storeReadback_stores (s : State) (i : Nat) (r : Readback) : StoresReadback s (s.storeReadback i r) i r :=
  StoresReadback.of_ch (t := s.setDch i (s.measuredCh i r)) ⟨(s.dch i).sticky, fun _ => dch_setDch ..⟩ (storeReadback_rb s i r).ch

/-- A failed judgement sets a sticky bit and leaves the rest of what is stored (R103). -/
theorem StoresReadback.readbackFail (h : StoresReadback s t i r) : StoresReadback s (t.readbackFail i cls) i r := by
  obtain ⟨sticky, h⟩ := h
  obtain ⟨f, hf, hrb⟩ := readbackFail_rb t i cls
  obtain ⟨sticky', hsticky⟩ := hf (t.dch i)
  refine StoresReadback.of_ch (t := t.modDch i f) ⟨sticky', fun j => ?_⟩ hrb.ch
  rw [State.modDch, dch_setDch, hsticky, h i, h j, if_pos rfl]
  split <;> rfl

/-! ## The judgement -/

/-- The class of a conversion that is judged (R102), from the corrected measurement. -/
def State.readbackClass (s : State) (conv i : Nat) (r : Readback) : Nat :=
  if i < 4608 then classEo (s.dch i).dac (s.dch i).transition (s.dch i).loadSeen (s.rbCorrect (2 * conv) r.rawV.toNat)
  else classThermal (s.dch i).dac (s.vhtr i) (s.rbCorrect (2 * conv) r.rawV.toNat) (s.rbCorrect (2 * conv + 1) r.rawI.toNat)

/-- A conversion is judged, and fails (R101, R102). -/
def State.readbackFails (s : State) (conv i : Nat) (r : Readback) : Bool := !s.unjudged i && s.readbackClass conv i r != 0

/-- The converter measures the same channel again (R103). -/
def State.retryReadback (s : State) (conv : Nat) : State := { s with drive := { s.drive with rbRetry := wr s.drive.rbRetry conv true } }

/-- The measurement is stored, and its failure is noted; the converter has not moved on. -/
def State.judgeReadback (s : State) (conv i : Nat) (r : Readback) : State :=
  if s.readbackFails conv i r then (s.storeReadback i r).readbackFail i (s.readbackClass conv i r) else s.storeReadback i r

/-- The converter goes over a channel that failed once again, and moves on past every other (R103). -/
def State.retries (s : State) (conv i : Nat) (r : Readback) : Bool := s.readbackFails conv i r && !rd s.drive.rbRetry conv false

/-- The state that a conversion leaves. -/
def State.converted (s : State) (conv i : Nat) (r : Readback) : State :=
  if s.retries conv i r then (s.judgeReadback conv i r).retryReadback conv else (s.judgeReadback conv i r).readbackNext conv i

theorem exec_readbackConversion_idle (hconv : conv < 8) (h : s.runs = false ∨ s.sys.mode = .reset ∨ s.sys.mode = .boot) :
    exec (.readbackConversion conv r) s = .next s := by
  show execReadbackConversion conv r s = _
  rw [execReadbackConversion, if_neg (by omega), if_pos]
  rcases h with h | h | h <;> simp [h]

theorem exec_readbackConversion (hconv : conv < 8) (hruns : s.runs = true) (hreset : s.sys.mode ≠ .reset) (hboot : s.sys.mode ≠ .boot)
    (hi : i = 1280 * conv + rd s.drive.rbPos conv 0) : exec (.readbackConversion conv r) s = .next (s.converted conv i r) := by
  show execReadbackConversion conv r s = _
  rw [execReadbackConversion, if_neg (by omega), if_neg (by simp [hruns, hreset, hboot]), ← hi]
  change ((if s.unjudged i then .next ((s.setDch i (s.measuredCh i r)).readbackNext conv i)
    else
      let stored := (s.setDch i (s.measuredCh i r)).countJudged
      if s.readbackClass conv i r = 0 then .next (stored.readbackNext conv i)
      else
        let failed := stored.readbackFail i (s.readbackClass conv i r)
        if rd s.drive.rbRetry conv false then .next (failed.readbackNext conv i) else .next (failed.retryReadback conv))
    : Host.Outcome State Fault Refusal) = _
  unfold State.converted State.retries State.judgeReadback State.readbackFails State.storeReadback
  cases hskip : s.unjudged i
  case true => simp
  case false =>
    by_cases hcls : s.readbackClass conv i r = 0
    · simp [hcls]
    · cases hretry : rd s.drive.rbRetry conv false <;> simp [hcls]

theorem judgeReadback_stores (s : State) (conv i : Nat) (r : Readback) : StoresReadback s (s.judgeReadback conv i r) i r := by
  unfold State.judgeReadback
  split
  · exact (storeReadback_stores s i r).readbackFail
  · exact storeReadback_stores s i r

/-- Neither a measurement nor its failure moves the converter. -/
theorem judgeReadback_pos (s : State) (conv i : Nat) (r : Readback) : (s.judgeReadback conv i r).drive.rbPos = s.drive.rbPos := by
  have hstored := (storeReadback_rb s i r).pos
  unfold State.judgeReadback
  split
  · obtain ⟨f, -, hfail⟩ := readbackFail_rb (s.storeReadback i r) i (s.readbackClass conv i r)
    exact hfail.pos.trans hstored
  · exact hstored

theorem converted_stores (s : State) (conv i : Nat) (r : Readback) : StoresReadback s (s.converted conv i r) i r := by
  have hs := judgeReadback_stores s conv i r
  unfold State.converted
  split
  · exact hs.of_ch rfl
  · exact hs.of_ch (readbackNext_spec ..).1

theorem converted_of_retries (h : s.retries conv i r = true) :
    rd (s.converted conv i r).drive.rbPos conv 0 = rd s.drive.rbPos conv 0 ∧ rd (s.converted conv i r).drive.rbRetry conv false = true := by
  rw [State.converted, if_pos h]
  exact ⟨congrArg (rd · conv 0) (judgeReadback_pos s conv i r), by simp [State.retryReadback]⟩

theorem converted_of_not_retries (h : s.retries conv i r = false) :
    rd (s.converted conv i r).drive.rbPos conv 0 = (i % 1280 + 1) % 1280 ∧ rd (s.converted conv i r).drive.rbRetry conv false = false := by
  obtain ⟨-, hpos, hretry⟩ := readbackNext_spec (s.judgeReadback conv i r) conv i
  rw [State.converted, if_neg (by simp [h]), hpos, hretry]
  simp

end

end Sys2Proof.Machine
end

section
/-! Range changes (R77 to R79): the release of a hold, and the request that waited for it. -/

namespace Sys2Proof.Machine

section
variable {s : State} {i channel : Nat} {hd : RangeHold}

/-! ## The commands of a change -/

theorem DriveCh.drive_rangeCmds (c : DriveCh) (i k : Nat) (deg : Bool) (p g : Nat) : (c.drive i k deg p g).rangeCmds = c.rangeCmds := rfl

theorem DriveCh.beginRange_rangeCmds (c : DriveCh) (i k range : Nat) : (c.beginRange i k range).rangeCmds = c.rangeCmds := rfl

theorem DriveCh.quiet_rangeCmds (c : DriveCh) (cut : Bool) {f : DriveCh → DriveCh} (h : ∀ d, (f d).rangeCmds = d.rangeCmds) :
    (c.quiet cut f).rangeCmds = c.rangeCmds := by
  unfold DriveCh.quiet
  split
  · exact h _
  · exact h c

/-- A range request names no command: whether it waits, starts a hold or takes effect at once, the commands of the channel stay. -/
theorem rangeAt_rangeCmds (s : State) (i range : Nat) : ((s.rangeAt i range).dch i).rangeCmds = (s.dch i).rangeCmds := by
  have hset : ∀ c : DriveCh, c.rangeCmds = (s.dch i).rangeCmds → ((s.setDch i c).dch i).rangeCmds = (s.dch i).rangeCmds :=
    fun c hc => by rw [dch_setDch, if_pos rfl, hc]
  unfold State.rangeAt
  dsimp only
  split
  · exact hset _ rfl
  · split
    · rfl
    · split
      · exact hset _ (DriveCh.beginRange_rangeCmds ..)
      · refine hset _ ?_
        split
        · exact DriveCh.quiet_rangeCmds _ _ (fun d => d.drive_rangeCmds ..)
        · rfl

/-! ## The release -/

/-- The hold of a channel is gone, and no command waits for its range any more (R77). -/
def State.unhold (s : State) (i : Nat) : State := s.setDch i { s.dch i with hold := none, rangeCmds := [], rangeWait := [] }

theorem unhold_dch (s : State) (i : Nat) : (s.unhold i).dch i = { s.dch i with hold := none, rangeCmds := [], rangeWait := [] } := by
  rw [State.unhold, dch_setDch, if_pos rfl]

theorem exec_rangeChangeRelease (hchannel : channel < 10240) : exec (.rangeChangeRelease channel) s = .next (s.rangeRelease channel) :=
  if_neg (by omega)

theorem rangeRelease_of_free (h : (s.dch i).hold = none) : s.rangeRelease i = s := by
  simp only [State.rangeRelease, h]

theorem rangeRelease_of_early (h : (s.dch i).hold = some hd) (he : s.clk.frame < hd.release) : s.rangeRelease i = s := by
  simp only [State.rangeRelease, h, if_pos he]

theorem rangeDone_drive (s : State) (l : List CmdRef) : (s.rangeDone l).drive = s.drive := by
  obtain ⟨_, _, _, _, _, h⟩ := rangeDone_spoke s l
  rw [h]

theorem rangeDone_atTick (s : State) (l : List CmdRef) : (s.rangeDone l).atTick = s.atTick := by
  obtain ⟨_, _, _, _, _, h⟩ := rangeDone_spoke s l
  rw [h]

/-- Without a request that waits, the commands of the change are done, and those that waited for its release (R518). -/
theorem rangeRelease_of_due (h : (s.dch i).hold = some hd) (hr : hd.release ≤ s.clk.frame) (hw : hd.waiting = none) :
    s.rangeRelease i = (s.unhold i).rangeDone ((s.dch i).rangeCmds ++ (s.dch i).rangeWait) := by
  simp only [State.rangeRelease, h, if_neg (Nat.not_lt.mpr hr), hw]
  exact if_neg (by simp [dch_setDch])

/-- The request that waited starts at the release; the commands that waited are those of the hold it begins, or are done with the others. -/
theorem rangeRelease_of_waiting {r : Nat} {u : State} (h : (s.dch i).hold = some hd) (hr : hd.release ≤ s.clk.frame)
    (hw : hd.waiting = some r) (hu : u = (s.unhold i).rangeAt i r) :
    s.rangeRelease i =
      if (u.dch i).hold.isSome then
        (u.modDch i (fun d => { d with rangeCmds := (s.dch i).rangeWait })).rangeDone (s.dch i).rangeCmds
      else u.rangeDone ((s.dch i).rangeCmds ++ (s.dch i).rangeWait) := by
  subst hu
  simp only [State.rangeRelease, h, if_neg (Nat.not_lt.mpr hr), hw]
  rfl

/-- The channel after the request that waited has started (R79). -/
theorem rangeRelease_dch_of_waiting {r : Nat} {u : State} (h : (s.dch i).hold = some hd) (hr : hd.release ≤ s.clk.frame)
    (hw : hd.waiting = some r) (hu : u = (s.unhold i).rangeAt i r) :
    (s.rangeRelease i).dch i = { u.dch i with rangeCmds := if (u.dch i).hold.isSome then (s.dch i).rangeWait else [] } := by
  have hnone : (u.dch i).rangeCmds = [] := by rw [hu, rangeAt_rangeCmds, unhold_dch]
  rw [rangeRelease_of_waiting h hr hw hu]
  split
  · rw [dch_of_ch (congrArg Drive.ch (rangeDone_drive ..)), State.modDch, dch_setDch, if_pos rfl]
  · rw [dch_of_ch (congrArg Drive.ch (rangeDone_drive ..)), ← hnone]

end

/-- Settles O45: `converted_stores` says what a conversion stores, the two lemmas of `State.retries` where the converter goes on; each
range change is the lemma of its case. -/
theorem readbackAndRangeChangesComplete : Obligations.ReadbackAndRangeChangesComplete := by
  refine fun s => ⟨fun conv r hconv h => exec_readbackConversion_idle hconv h, ?readback, fun channel hchannel => ?range⟩
  case readback =>
    intro conv r i hconv hruns hreset hboot hi
    refine ⟨_, exec_readbackConversion hconv hruns hreset hboot hi, ?_⟩
    obtain ⟨sticky, hch⟩ := converted_stores s conv i r
    have hown := hch i
    rw [if_pos rfl] at hown
    rw [hown]
    refine ⟨rfl, rfl, rfl, rfl, rfl, rfl, rfl, fun j hj => by rw [hch j, if_neg (Ne.symm hj)], ?_⟩
    change if s.retries conv i r = true then _ else _
    split
    case isTrue h => exact converted_of_retries h
    case isFalse h => exact converted_of_not_retries (Bool.eq_false_of_not_eq_true h)
  case range =>
    rw [exec_rangeChangeRelease hchannel]
    refine ⟨fun h => by rw [rangeRelease_of_free h], fun hd h => ⟨fun he => by rw [rangeRelease_of_early h he], fun hr =>
      ⟨fun hw => ⟨_, rfl, ?_, ?_⟩, fun r hw => ⟨_, rfl, rangeRelease_dch_of_waiting h hr hw rfl⟩⟩⟩⟩
    · rw [rangeRelease_of_due h hr hw, rangeDone_atTick]; rfl
    · rw [rangeRelease_of_due h hr hw, rangeDone_drive]; rfl

end Sys2Proof.Machine
end

section
/-! Conversions (R119, R120, R122, R133, R327): what a boundary of an ADC core converts, from the scan table or into a capture, and
the end of a capture (R133, R522). -/

namespace Sys2Proof.Machine

section
variable {s t : State} {core x e len : Nat} {raw : Int} {f : Bool} {table : List W16} {k : AdcCore} {cap : Capture}

/-! ## What a boundary reads -/

/-- The clock's way to a boundary leaves the cores. -/
theorem atCycle_core (s : State) (n c : Nat) : (s.atCycle n).core c = s.core c := by
  rw [State.core, State.core, atCycle_sense]

theorem atCycle_frame (s : State) (n : Nat) : (s.atCycle n).clk.frame = s.clk.frame := congrArg Still.frame (s.atCycle_still n)

/-- Which entries may be converted depends on the lease and on the channels under test or calibration only (R327). -/
theorem atCycle_mayConvert (s : State) (n : Nat) (table : List W16) : (s.atCycle n).mayConvert table = s.mayConvert table := by
  have hheld : (s.atCycle n).pair.held = s.pair.held := congrArg Still.held (s.atCycle_still n)
  funext e
  rw [State.mayConvert, State.mayConvert, hheld]
  unfold State.injected
  rw [atCycle_sense]

/-- Of its core, a sample word reads the result of the last check only (R123). -/
theorem sampleOf_setCore (hk : k.checkFail = (s.core core).checkFail) (x : Nat) (raw : Int) (f u : Bool) :
    (s.setCore core k).sampleOf core x raw f u = s.sampleOf core x raw f u := by
  have hcheck : ((s.setCore core k).core core).checkFail = (s.core core).checkFail := by rw [core_setCore, if_pos rfl, hk]
  unfold State.sampleOf
  rw [hcheck]
  rfl

/-! ## The check leaves the mark that it was made -/

theorem core_of_side (h : Side s t) (c : Nat) : t.core c = s.core c := by
  obtain ⟨a, p, m, f, y, g, rfl⟩ := h
  rfl

theorem setCore_checkDone (hk : k.checkDone = (s.core core).checkDone) (c : Nat) :
    ((s.setCore core k).core c).checkDone = (s.core c).checkDone := by
  rw [core_setCore]
  split
  case isTrue h => rw [hk, h]
  case isFalse => rfl

theorem askUrgent_checkDone (s : State) (core : Nat) (u : Urgent) (c : Nat) :
    ((s.askUrgent core u).core c).checkDone = (s.core c).checkDone := by
  unfold State.askUrgent
  dsimp only
  split
  · exact setCore_checkDone (by rfl) c
  · rfl

/-- The check of the scan (R122) leaves the mark; a failure adds an event and a request for another check (R369). -/
theorem check_checkDone (s : State) (core : Nat) (raw : Int) (posted c : Nat) :
    ((s.check core raw none posted).core c).checkDone = (s.core c).checkDone := by
  unfold State.check State.anomaly
  dsimp only
  split
  · exact setCore_checkDone (by rfl) c
  · rw [askUrgent_checkDone, core_of_side (State.raise_side ..), core_of_side (State.fail_side ..)]
    exact setCore_checkDone (by rfl) c

/-! ## A boundary with no urgent request -/

/-- The core's next boundary is 120 cycles on (R119). -/
def State.nextBoundary (s : State) (core : Nat) : State := s.modCore core (fun k => { k with boundary := k.boundary + 120 })

theorem modCore_core (s : State) (core : Nat) (g : AdcCore → AdcCore) : (s.modCore core g).core core = g (s.core core) :=
  (core_setCore ..).trans (if_pos rfl)

theorem nextBoundary_pending (s : State) (core : Nat) : ((s.nextBoundary core).core core).pending = (s.core core).pending := by
  rw [State.nextBoundary, modCore_core]

@[simp] theorem nextUrgent_nil (frame b : Nat) : nextUrgent [] frame b = none := rfl

theorem boundary_of_not_urgent (h : (s.core core).urgent = []) :
    s.boundary core raw len = (s.nextBoundary core).serveEntry core raw ((s.core core).table s.clk.frame) (s.core core) := by
  unfold State.boundary
  dsimp only
  generalize hproof : List.filter _ (s.core core).urgent = proofs
  generalize hpick : (if _ < urgentCapacity _ then nextUrgent _ _ _ else none) = pick
  obtain rfl : proofs = [] := by rw [← hproof, h, List.filter_nil]
  obtain rfl : pick = none := by rw [← hpick, h, nextUrgent_nil, ite_self]
  rfl

/-- A served entry leaves the list, and its word is the frame's sample and the channel's last word. -/
theorem serveEntry_of_entry (hfind : k.pending.find? (s.mayConvert table) = some e) (hentry : entryOf table e = some (x, f)) :
    ((s.serveEntry core raw table k).core core).pending = (s.core core).pending.erase e ∧
      rd (s.serveEntry core raw table k).sense.bankNow x 0 = s.sampleOf core x raw f false ∧
      ((s.serveEntry core raw table k).sch x).last = s.sampleOf core x raw f false := by
  have hserve : s.serveEntry core raw table k =
      (s.modCore core (fun k => { k with pending := k.pending.erase e })).convert core x raw f false true false := by
    simp only [State.serveEntry, hfind, hentry]
  have hword : (s.modCore core (fun k => { k with pending := k.pending.erase e })).sampleOf core x raw f false =
      s.sampleOf core x raw f false := sampleOf_setCore (by rfl) ..
  obtain ⟨-, hpending, hstored⟩ :=
    convert_spec (s.modCore core (fun k => { k with pending := k.pending.erase e })) core core x raw f false true false
  rw [hserve, hpending, modCore_core, ← hword]
  exact ⟨rfl, hstored rfl⟩

/-- With no entry left the core makes its check, once in a frame; lists and samples stay (R119, R122). -/
theorem serveEntry_of_none (hfind : k.pending.find? (s.mayConvert table) = none) (hdone : k.checkDone = (s.core core).checkDone) :
    ((s.serveEntry core raw table k).core core).pending = (s.core core).pending ∧
      (s.serveEntry core raw table k).sense.bankNow = s.sense.bankNow ∧ ((s.serveEntry core raw table k).core core).checkDone = true := by
  simp only [State.serveEntry, hfind]
  split
  case isTrue h => exact ⟨rfl, rfl, hdone ▸ h⟩
  case isFalse =>
    have hkept := check_kp (s.modCore core (fun k => { k with checkDone := true })) core core raw none s.clk.frame
    refine ⟨hkept.pd.trans ?_, hkept.bn, (check_checkDone ..).trans ?_⟩ <;> rw [modCore_core]

/-- The first entry that may be converted is the one that a boundary serves (R119). -/
theorem boundary_of_entry (raw : Int) (len : Nat) (hurgent : (s.core core).urgent = [])
    (hfind : (s.core core).pending.find? (s.mayConvert ((s.core core).table s.clk.frame)) = some e)
    (hentry : entryOf ((s.core core).table s.clk.frame) e = some (x, f)) :
    ((s.boundary core raw len).core core).pending = (s.core core).pending.erase e ∧
      rd (s.boundary core raw len).sense.bankNow x 0 = s.sampleOf core x raw f false ∧
      ((s.boundary core raw len).sch x).last = s.sampleOf core x raw f false := by
  have hword : (s.nextBoundary core).sampleOf core x raw f false = s.sampleOf core x raw f false := sampleOf_setCore (by rfl) ..
  rw [boundary_of_not_urgent hurgent, ← hword, ← nextBoundary_pending s core]
  exact serveEntry_of_entry hfind hentry

/-- With no such entry the boundary is the check's (R119, R122). -/
theorem boundary_of_none (raw : Int) (len : Nat) (hurgent : (s.core core).urgent = [])
    (hfind : (s.core core).pending.find? (s.mayConvert ((s.core core).table s.clk.frame)) = none) :
    ((s.boundary core raw len).core core).pending = (s.core core).pending ∧
      (s.boundary core raw len).sense.bankNow = s.sense.bankNow ∧ ((s.boundary core raw len).core core).checkDone = true := by
  rw [boundary_of_not_urgent hurgent, ← nextBoundary_pending s core]
  exact serveEntry_of_none hfind (by rw [State.nextBoundary, modCore_core])

/-! ## The boundary as a command -/

theorem exec_conversionBoundary_idle (hcore : core < 136)
    (h : s.runs = false ∨ s.sys.mode = .reset ∨ s.frameLen < (s.core core).boundary + 120 ∨ s.coreOff core = true) :
    exec (.conversionBoundary core raw) s = .next s := by
  show execConversionBoundary core raw s = _
  rw [execConversionBoundary, if_neg (by omega)]
  split
  case isTrue => rfl
  case isFalse hgo =>
    have hgo : s.runs = true ∧ s.sys.mode ≠ .reset := by simpa using hgo
    refine if_pos ?_
    rcases h with h | h | h | h
    · simp [h] at hgo
    · exact absurd h hgo.2
    · simp [h]
    · simp [h]

section
variable (hcore : core < 136) (hruns : s.runs = true) (hmode : s.sys.mode ≠ .reset) (hlen : (s.core core).boundary + 120 ≤ s.frameLen)
  (hon : s.coreOff core = false)
include hcore hruns hmode hlen hon

theorem exec_conversionBoundary_scan (h : ∀ cap, s.sense.capture = some cap → pairOf core ≠ cap.pair ∨ core % 17 = 16) :
    exec (.conversionBoundary core raw) s = .next ((s.atCycle (s.core core).boundary).boundary core raw s.frameLen) := by
  show execConversionBoundary core raw s = _
  rw [execConversionBoundary, if_neg (by omega), if_neg (by simp [hruns, hmode])]
  dsimp only
  rw [if_neg (by simp [hon]; omega), atCycle_sense]
  split
  case h_1 cap hcap => exact if_neg (by have := h cap hcap; omega)
  case h_2 => rfl

/-- A captured word joins the capture until it has 16,384 (R133). -/
theorem exec_conversionBoundary_capture (hcap : s.sense.capture = some cap) (hpair : pairOf core = cap.pair) (hspare : core % 17 ≠ 16) :
    ∃ t, exec (.conversionBoundary core raw) s = .next t ∧ (t.core core).boundary = (s.core core).boundary + 120 ∧
      t.sense.capture = some { cap with words := if cap.words.length < 16384 then
        cap.words ++ [(s.atCycle (s.core core).boundary).sampleOf core cap.sense raw cap.filter false] else cap.words } := by
  have hexec : exec (.conversionBoundary core raw) s = execConversionBoundary core raw s := rfl
  rw [hexec, execConversionBoundary, if_neg (by omega), if_neg (by simp [hruns, hmode])]
  dsimp only
  rw [if_neg (by simp [hon]; omega), atCycle_sense, hcap]
  dsimp only
  rw [if_pos ⟨hpair, hspare⟩]
  refine ⟨_, rfl, ?_⟩
  split
  · exact ⟨congrArg AdcCore.boundary ((core_setCore ..).trans (if_pos rfl)), rfl⟩
  · refine ⟨congrArg AdcCore.boundary ((core_setCore ..).trans (if_pos rfl)), ?_⟩
    show (s.atCycle (s.core core).boundary).sense.capture = _
    rw [atCycle_sense, hcap]

end

/-- Settles O43: a boundary of a core outside the captured pair is `State.boundary`, once the clock has come to it; one of the captured
pair is `exec_conversionBoundary_capture`. -/
theorem conversionsComplete : Obligations.ConversionsComplete := by
  intro s core raw hcore
  refine ⟨exec_conversionBoundary_idle hcore, fun hruns hmode hlen hon => ⟨fun hscan => ?scan, fun cap w hcap hpair hspare hw => ?capture⟩⟩
  case scan =>
    have hexec := exec_conversionBoundary_scan (raw := raw) hcore hruns hmode hlen hon hscan
    have hstill : ((s.atCycle (s.core core).boundary).boundary core raw s.frameLen).still = s.still := by simp
    refine ⟨⟨_, hexec, ?boundary, congrArg Still.frame hstill, congrArg Still.mode hstill⟩, ?entry, ?check⟩
    case boundary => rw [boundary_bd, atCycle_core]
    case entry =>
      intro table e x f w htable hurgent hfind hentry hw
      subst htable hw
      have hserved := boundary_of_entry (s := s.atCycle (s.core core).boundary) (core := core) (e := e) (x := x) (f := f) raw s.frameLen
      simp only [atCycle_core, atCycle_frame, atCycle_mayConvert] at hserved
      exact ⟨_, hexec, hserved hurgent hfind hentry⟩
    case check =>
      intro hurgent hfind
      have hchecked := boundary_of_none (s := s.atCycle (s.core core).boundary) (core := core) raw s.frameLen
      simp only [atCycle_core, atCycle_frame, atCycle_mayConvert, atCycle_sense] at hchecked
      exact ⟨_, hexec, hchecked hurgent hfind⟩
  case capture =>
    subst hw
    exact exec_conversionBoundary_capture hcore hruns hmode hlen hon hcap hpair hspare

/-! ## The end of a capture -/

theorem exec_captureEnd_none (h : s.sense.capture = none) : exec .captureEnd s = .next s := by
  show execCaptureEnd s = _
  rw [execCaptureEnd, h]

theorem exec_captureEnd_early (hcap : s.sense.capture = some cap) (h : cap.words.length < 16384 ∨ TickOp.captureEnd ∈ s.atTick) :
    exec .captureEnd s = .next s := by
  show execCaptureEnd s = _
  rw [execCaptureEnd, hcap]
  exact if_pos (by simpa using h)

/-- Settles O44: `captureEnd_eq` says when the capture ends, `stopCapture_spec` what its end does. -/
theorem captureEndCompletes : Obligations.CaptureEndCompletes := by
  refine fun s => ⟨exec_captureEnd_none, fun cap hcap => ⟨exec_captureEnd_early hcap, fun hlen hdue => ?_⟩⟩
  have hexec : exec .captureEnd s = .next (s.atTickNow .captureEnd State.stopCapture) := captureEnd_eq s cap hcap hlen hdue
  rw [hexec, State.atTickNow]
  refine ⟨fun hmid => by rw [if_neg hmid]; rfl, fun htick => ⟨_, by rw [if_pos htick], ?_⟩⟩
  obtain ⟨u, hstop, hhost, hclk, hdrive, hnone⟩ := stopCapture_spec s cap hcap
  rw [hstop, ← hhost, ← hclk, ← hdrive]
  exact ⟨hnone, rfl, rfl, newXfer_list ..⟩

end

end Sys2Proof.Machine
end

section
/-! Reads of BAR2 (R192, R490, R491, R545): a word of the plate store with its ECC, a channel state, the recovery window, and the
addresses that hold nothing. -/

namespace Sys2Proof.Machine

section
variable {s : State} {a : Nat}

/-! ## A word of the plate store (R192, R490) -/

/-- An access of the bus matrix leaves the plate store and its ECC state. -/
theorem busAccess_burin (s : State) (m : Nat) (write : Bool) (t : BusTarget) : (s.busAccess m write t).burin = s.burin := by
  unfold State.busAccess
  split <;> rfl

theorem badIn_congr {t : State} (h : t.burin = s.burin) (p off len : Nat) : t.badIn p off len = s.badIn p off len := by
  rw [State.badIn, h]; rfl

theorem plateWord_of_good (h : s.badIn (a / 4096) (a % 4096) 4 = false) :
    s.plateWord a = (s.emit (.regRead (ofBytesLE ((List.range 4).map (fun k => Mem.byte plateDefault s.burin.store (a + k)))))).eccCorrect
      (a / 4096) (a % 4096) 4 :=
  if_neg (by simp [h])

theorem plateWord_of_bad (h : s.badIn (a / 4096) (a % 4096) 4 = true) :
    s.plateWord a = (s.emit (.regRead 0xFFFFFFFF)).raise 11 .m { unit := a / 4096 } :=
  if_pos h

end

/-! ## The windows of BAR2 (R490, R491) -/

section
variable {s : State} {off : BitVec 22}

theorem exec_bar2_sector (hd : s.decodes 0 = true) (h : off.toNat = 0x300000) :
    exec (.bar2WindowRead 0 off) s = .next (s.emit (.regRead (if s.sys.bootFailed then s.sys.sector.toNat * 4096 else 0))) := by
  change execBar2WindowRead 0 off s = _
  simp [execBar2WindowRead, hd, h, State.returns]

theorem exec_bar2_flashStatus (hd : s.decodes 0 = true) (h : off.toNat = 0x300008) :
    exec (.bar2WindowRead 0 off) s = exec (.clearedByRead .flashStatus) s := by
  rw [exec_flashStatus_read hd]
  change execBar2WindowRead 0 off s = _
  simp [execBar2WindowRead, hd, h]

section
variable (hd : s.decodes 0 = true) (ha : off.toNat % 4 = 0)
include hd ha

theorem exec_bar2_stores_off (hm : s.sys.mode = .reset ∨ s.sys.mode = .boot) (h : off.toNat < 0x2A0000) :
    exec (.bar2WindowRead 0 off) s = .next (s.emit (.regRead 0)) := by
  have hoff : (s.sys.mode == .reset || s.sys.mode == .boot) = true := by simpa using hm
  change execBar2WindowRead 0 off s = _
  by_cases hp : off.toNat < 0x200000 <;> simp [execBar2WindowRead, hd, ha, hoff, hp, h, State.returns]

section
variable (hr : s.sys.mode ≠ .reset) (hb : s.sys.mode ≠ .boot)
include hr hb

theorem exec_bar2_plate (h : off.toNat < 0x200000) :
    exec (.bar2WindowRead 0 off) s = .next ((s.busAccess 9 false .plateStore).plateWord off.toNat) := by
  change execBar2WindowRead 0 off s = _
  simp [execBar2WindowRead, hd, ha, hr, hb, h]

theorem exec_bar2_channelState {x o : Nat} (hx : x < 10240) (ho : o < 64) (h : off.toNat = 0x200000 + 64 * x + o) :
    exec (.bar2WindowRead 0 off) s = .next ((s.busAccess 9 false .channelState).emit (.regRead (fld (s.cs x).toNat (8 * o) 32))) := by
  have hplate : ¬ off.toNat < 0x200000 := by omega
  have hstate : off.toNat < 0x2A0000 := by omega
  have hchan : (off.toNat - 0x200000) / 64 = x := by omega
  have hbyte : (off.toNat - 0x200000) % 64 = o := by omega
  change execBar2WindowRead 0 off s = _
  simp [execBar2WindowRead, hd, ha, hr, hb, hplate, hstate, hchan, hbyte, State.returns]

end

theorem exec_bar2_recoveryBuf {a : Nat} (hlt : a < 0x1000) (h : off.toNat = 0x301000 + a) :
    exec (.bar2WindowRead 0 off) s = .next (s.emit (.regRead
      (if s.sys.bootFailed then ofBytesLE ((List.range 4).map (fun k => Mem.byte 0 s.sys.recoveryBuf (a + k))) else 0))) := by
  have hword : off.toNat - 0x301000 = a := by omega
  have hlo : 0x301000 ≤ off.toNat := by omega
  have hhi : off.toNat < 0x302000 := by omega
  change execBar2WindowRead 0 off s = _
  simp (disch := omega) only [execBar2WindowRead, hd, ha, hword, hlo, hhi, true_and, if_neg]
  cases s.sys.bootFailed <;> rfl

theorem exec_bar2_unused (h : 0x2A0000 ≤ off.toNat ∧ off.toNat < 0x300000 ∨ off.toNat = 0x300004 ∨
      (0x300008 < off.toNat ∧ off.toNat < 0x301000) ∨ 0x302000 ≤ off.toNat) :
    exec (.bar2WindowRead 0 off) s = .next (s.emit (.regRead 0)) := by
  have hbuf : ¬ (0x301000 ≤ off.toNat ∧ off.toNat < 0x302000 ∧ s.sys.bootFailed = true) := by omega
  change execBar2WindowRead 0 off s = _
  simp (disch := omega) only [execBar2WindowRead, hd, ha, hbuf, if_neg]
  rfl

end
end

/-- Settles O29: one lemma for each window of BAR2; a word of the plate store is `plateWord_of_good` or `plateWord_of_bad`. -/
theorem bar2ReadsComplete : Obligations.Bar2ReadsComplete := by
  intro s off hd ha
  refine ⟨exec_bar2_stores_off hd ha, fun hr hb => ⟨?plate, fun _ _ => exec_bar2_channelState hd ha hr hb⟩, exec_bar2_sector hd,
    exec_bar2_flashStatus hd, fun _ => exec_bar2_recoveryBuf hd ha, exec_bar2_unused hd ha⟩
  intro h u hu
  have hburin : u.burin = s.burin := hu ▸ busAccess_burin ..
  rw [exec_bar2_plate hd ha hr hb h, ← hu, ← badIn_congr hburin, ← hburin]
  exact ⟨fun hgood => congrArg _ (plateWord_of_good hgood), fun hbad => congrArg _ (plateWord_of_bad hbad)⟩

end Sys2Proof.Machine
end

section
/-! Route jobs (R192, R203, R204, R218 to R220, R505): what the reads of a job's start can change, the start of the first job queued, and
the three ends of a job. -/

namespace Sys2Proof.Machine

/-! ## What the reads of a job change (R192) -/

/-- The second state differs from the first in single-bit errors that a read has corrected, the fault block and the host interface only. -/
def Corrected (s t : State) : Prop :=
  ∃ soft f h, t = { s with burin := { s.burin with softWords := soft }, faults := f, host := h } ∧ soft ⊆ s.burin.softWords

theorem Corrected.refl (s : State) : Corrected s s := ⟨_, _, _, rfl, List.Subset.refl _⟩

theorem Corrected.trans {s t u : State} (h : Corrected s t) (g : Corrected t u) : Corrected s u := by
  obtain ⟨w, f, h, rfl, hw⟩ := h
  obtain ⟨w', f', h', rfl, hw'⟩ := g
  exact ⟨w', f', h', rfl, List.Subset.trans hw' hw⟩

theorem Corrected.told {s t : State} (h : Told s t) : Corrected s t := by
  obtain ⟨f, h, rfl⟩ := h
  exact ⟨_, f, h, rfl, List.Subset.refl _⟩

theorem Corrected.foldl {α : Type} (f : State → α → State) (h : ∀ t x, Corrected t (f t x)) (l : List α) (s : State) :
    Corrected s (l.foldl f s) := by
  induction l generalizing s with
  | nil => exact .refl s
  | cons x r ih => exact (h s x).trans (ih _)

theorem eccCorrect_corrected (s : State) (p off len : Nat) : Corrected s (s.eccCorrect p off len) := by
  unfold State.eccCorrect
  extract_lets a met
  split
  · exact Corrected.trans ⟨_, _, _, rfl, List.filter_subset_self _⟩ (.told (State.raise_told ..))
  · exact .refl s

theorem eccCorrect_of_sound {s : State} (h : s.burin.softWords = []) (p off len : Nat) : s.eccCorrect p off len = s := by
  simp [State.eccCorrect, h]

/-- The reads of a job correct single-bit errors and raise events, and change nothing else (R192). -/
theorem readEvents_corrected (s : State) (j : Job) : Corrected s (s.readEvents j) :=
  (Corrected.foldl _ (fun t _ => eccCorrect_corrected t ..) _ s).trans (.foldl _ (fun t _ => .told (t.raise_told ..)) _ _)

theorem readEvents_of_sound {s : State} (hsoft : s.burin.softWords = []) (hbad : s.burin.badWords = []) (j : Job) : s.readEvents j = s := by
  have hread : j.reads.foldl (fun t r => t.eccCorrect r.1 r.2.1 r.2.2) s = s := List.foldl_fixed' (fun _ => eccCorrect_of_sound hsoft ..) _
  simp [State.readEvents, hread, State.badIn, hbad]

/-! ## The start of a job (R203, R204) -/

/-- The engine runs a job, and these jobs stay in its queue. -/
def State.takeJob (s : State) (j : Job) (q : List Job) : State :=
  { s with burin := { s.burin with running := some (s.readJob j), queue := q } }

section
variable {s : State}

theorem exec_routeJobStart_idle (h : s.burin.running ≠ none ∨ s.burin.queue = [] ∨ s.desc.loaded = false) :
    exec .routeJobStart s = .next s := by
  change execRouteJobStart s = _
  unfold execRouteJobStart
  split
  case h_1 hrun hq =>
    have hdesc : s.desc.loaded = false := (h.resolve_left (not_not.2 hrun)).resolve_left (by simp [hq])
    exact if_pos (by simp [hdesc])
  case h_2 => rfl

theorem exec_routeJobStart {j : Job} {q : List Job} (hrun : s.burin.running = none) (hq : s.burin.queue = j :: q) (hdesc : s.desc.loaded = true) :
    exec .routeJobStart s = .next ((s.takeJob j q).readEvents j) := by
  change execRouteJobStart s = _
  simp [execRouteJobStart, hrun, hq, hdesc, State.takeJob]

/-! ## The end of a job (R218 to R220, R505) -/

theorem exec_routeJobComplete_idle (h : s.burin.running = none) (b : BitVec 2) : exec (.routeJobComplete b) s = .next s := by
  change execRouteJobComplete b s = _
  rw [execRouteJobComplete, h]

section
variable {r : Running} (b : BitVec 2) (hrun : s.burin.running = some r)
include hrun

/-- A job whose destination is being copied for a PLATE_READ waits (R505). -/
theorem exec_routeJobComplete_underCopy (hcopy : s.underCopy r.job.dest = true) : exec (.routeJobComplete b) s = .next s := by
  change execRouteJobComplete b s = _
  rw [execRouteJobComplete, hrun]
  exact if_pos hcopy

section
variable {g : Geo} {res : Routed} {u : State} (hcopy : s.underCopy r.job.dest = false) (hg : g = geoOf r.bytes r.legacy)
  (hres : res = routeJob r.bytes g r.perm r.base r.pinned r.pinState)
  (hu : u = ({ s with burin := { s.burin with running := none } } : State).tally 0x202 1)
include hcopy hg hres hu

/-- A plate that the job read was bad (R192). -/
theorem exec_routeJobComplete_bad (hbad : r.bad = true) : exec (.routeJobComplete b) s = .next (u.jobFailed r.job) := by
  subst hg hres hu
  change execRouteJobComplete b s = _
  rw [execRouteJobComplete, hrun]
  exact (if_neg (by simp [hcopy])).trans (if_pos hbad)

section
variable (hgood : r.bad = false)
include hgood

/-- The trace check failed twice (R220). -/
theorem exec_routeJobComplete_untraced (htrace : b = 3 ∨ traceOk g res r.pinned r.pinState = false) :
    exec (.routeJobComplete b) s = .next ((u.fail 6 0 5 u.clk.frame [43] true false).jobFailed r.job) := by
  subst hg hres hu
  change execRouteJobComplete b s = _
  rw [execRouteJobComplete, hrun]
  exact (if_neg (by simp [hcopy])).trans ((if_neg (by simp [hgood])).trans (if_pos (by simpa using htrace)))

section
variable (hok : (b = 3 || !traceOk g res r.pinned r.pinState) = false)
include hok

/-- The plate of a ROUTE command is written, and the command returns the counts (R218, R219). -/
theorem exec_routeJobComplete_cmd {c : CmdRef} (howner : r.job.owner = .cmd c) :
    exec (.routeJobComplete b) s = .next ((u.writeRoute r res g).answer c
      (if (routeCounts g r.base res r.refused).partialPlate then stNoRoute else stOk)
      [(0, (routeCounts g r.base res r.refused).circuits), (2, (routeCounts g r.base res r.refused).unrealised),
       (4, (routeCounts g r.base res r.refused).disturbed), (6, (routeCounts g r.base res r.refused).changed),
       (8, min 65535 (s.clk.cycles - r.startCycle))]) := by
  subst hg hres hu
  change execRouteJobComplete b s = _
  simp only [execRouteJobComplete, hrun, hcopy, hgood, hok, howner, Bool.false_eq_true, if_false]
  rfl

/-- The plate of a batch that is gone is written all the same (R218). -/
theorem exec_routeJobComplete_batch_gone {id : Nat} (howner : r.job.owner = .batch id)
    (hfind : (u.writeRoute r res g).sched.batches.find? (fun (x : Batch) => decide (x.id = id)) = none) :
    exec (.routeJobComplete b) s = .next (u.writeRoute r res g) := by
  subst hg hres hu
  change execRouteJobComplete b s = _
  simp only [execRouteJobComplete, hrun, hcopy, hgood, hok, howner, hfind, Bool.false_eq_true, if_false]

/-- The plate of a batch is written, and its requests complete or are armed (R267, R279). -/
theorem exec_routeJobComplete_batch {id : Nat} {x : Batch} (howner : r.job.owner = .batch id)
    (hfind : (u.writeRoute r res g).sched.batches.find? (fun (x : Batch) => decide (x.id = id)) = some x) :
    exec (.routeJobComplete b) s =
      .next ((u.writeRoute r res g).batchRouted x r res (routeCounts g r.base res r.refused).disturbed) := by
  subst hg hres hu
  change execRouteJobComplete b s = _
  simp only [execRouteJobComplete, hrun, hcopy, hgood, hok, howner, hfind, Bool.false_eq_true, if_false]

end
end
end
end
end

/-- Settles O51: `readEvents_corrected` bounds what the start changes beside the engine; each way a job ends has its lemma. -/
theorem routeJobsComplete : Obligations.RouteJobsComplete := by
  refine fun s => ⟨exec_routeJobStart_idle, fun j q hrun hq hdesc => ⟨_, exec_routeJobStart hrun hq hdesc, ?start⟩, exec_routeJobComplete_idle,
    fun r b hrun => exec_routeJobComplete_underCopy b hrun, fun r b g res u hrun hcopy hg hres hu =>
      ⟨exec_routeJobComplete_bad b hrun hcopy hg hres hu, exec_routeJobComplete_untraced b hrun hcopy hg hres hu,
        fun hgood hb htrace => ?written⟩⟩
  case start =>
    have hsound := readEvents_of_sound (s := s.takeJob j q) (j := j)
    obtain ⟨soft, f, h, ht, hsoft⟩ := readEvents_corrected (s.takeJob j q) j
    rw [ht] at hsound ⊢
    exact ⟨rfl, rfl, rfl, rfl, rfl, fun w hw => hsoft hw, hsound⟩
  case written =>
    have hok : (b = 3 || !traceOk g res r.pinned r.pinState) = false := by rw [htrace, decide_eq_false hb]; rfl
    refine ⟨fun c => exec_routeJobComplete_cmd b hrun hcopy hg hres hu hgood hok, fun id howner => ?batch⟩
    split
    case h_1 hfind => exact exec_routeJobComplete_batch_gone b hrun hcopy hg hres hu hgood hok howner hfind
    case h_2 x hfind => exact exec_routeJobComplete_batch b hrun hcopy hg hres hu hgood hok howner hfind

end Sys2Proof.Machine
end

section
/-! Impressions and their proof (R229 to R231, R235, R236, R248, R251): the end of a snapshot read, the results of proofs, and the end of
a localisation. -/

namespace Sys2Proof.Machine

section
variable {s : State}

/-! ## The end of a snapshot read (R229, R231) -/

theorem mirrorArmed_side (s : State) (a : Armed) (img : PlateImg) : Side s (s.mirrorArmed a img) := s.mirrorSend_side ..

/-- An impression whose snapshot is being read; an IMPRESS is not armed during a hot restart (R228). -/
abbrev State.awaitsSnapshot (s : State) (a : Armed) : Bool := a.read.isSome && a.snap.isNone && !(s.sys.restarting && decide (a.source = 2))

theorem exec_snapshotComplete_none (h : s.imp.armed.find? s.awaitsSnapshot = none) : exec .snapshotComplete s = .next s := by
  change execSnapshotComplete s = _
  rw [execSnapshotComplete, h]

section
variable {a : Armed} {r : SnapRead} (h : s.imp.armed.find? s.awaitsSnapshot = some a) (hread : a.read = some r)
include h hread

/-- The bytes of a good read are the image of the impression, which is armed and told to the partner (R229, R351). -/
theorem exec_snapshotComplete_good {b : Armed} {img : PlateImg} (hgood : (s.readTo r 3264).bad = false)
    (himg : img = imgOfBytes (s.readTo r 3264).got) (hb : b = { a with read := none, snap := some img }) :
    exec .snapshotComplete s = .next (((s.eccCorrect a.plate 0x40 3264).setArmed b).mirrorArmed b img) := by
  subst hb himg
  change execSnapshotComplete s = _
  rw [execSnapshotComplete, h]
  simp only [hread, hgood, Bool.false_eq_true, if_false]

/-- A read that met a bad word discards its impression (R231). -/
theorem exec_snapshotComplete_bad (hbad : (s.readTo r 3264).bad = true) :
    exec .snapshotComplete s = .next ((s.raise 11 .m { unit := a.plate }).discardArmed a stInternal true) := by
  change execSnapshotComplete s = _
  rw [execSnapshotComplete, h]
  simp only [hread, hbad, if_true]

end

/-- Correction and the message to the partner leave the channels and the scheduler; of the impressions, the one of this order is replaced. -/
theorem snapshotArmed_spec (s : State) (p off len : Nat) (b : Armed) (img : PlateImg) :
    let t := ((s.eccCorrect p off len).setArmed b).mirrorArmed b img
    t.drive = s.drive ∧ t.sched = s.sched ∧
      t.imp = { s.imp with armed := s.imp.armed.map (fun x => if x.order = b.order then b else x) } := by
  obtain ⟨_, _, _, hcorrected, -⟩ := eccCorrect_corrected s p off len
  obtain ⟨hdrive, -, -, himp, hsched⟩ := side_keeps (mirrorArmed_side ((s.eccCorrect p off len).setArmed b) b img)
  refine ⟨hdrive.trans ?_, hsched.trans ?_, himp.trans ?_⟩ <;> rw [hcorrected] <;> rfl

/-- An impression that is discarded after its event leaves the channels, the samples and the clock, and is armed no more. -/
theorem snapshotDiscarded_spec (s : State) (n : Nat) (sc : EvScope) (e : Ev) (a : Armed) (st : Nat) (ev : Bool) :
    let t := (s.raise n sc e).discardArmed a st ev
    t.drive = s.drive ∧ t.sense = s.sense ∧ t.clk = s.clk ∧ ∀ x ∈ t.imp.armed, x ∈ s.imp.armed ∧ x.order ≠ a.order := by
  have hraise := State.raise_side s n sc e
  obtain ⟨hdrive, hsense, hclk, -⟩ := work_keeps ((Work.side hraise).trans (State.discardArmed_work _ a st ev))
  obtain ⟨-, -, -, himp, -⟩ := side_keeps hraise
  exact ⟨hdrive, hsense, hclk, himp ▸ discardArmed_imp _ a st ev⟩

/-! ## The results of proofs (R235, R236, R251) -/

theorem exec_proofResult_idle (h : s.pair.held = false ∨ s.runs = false) : exec .proofResult s = .next s := by
  change execProofResult s = _
  exact if_pos (by simpa using h)

/-- Results at cycle 1,800, with the requests outside proof sets, when a record or a request is due there; else those of cycle 3,420. -/
def State.proofResults (s : State) (due early : List Nat) (plain : Bool) : State :=
  if early ≠ [] ∨ plain = true then early.foldl State.resultsOf ((s.atCycle 1800).completePlain)
  else if due = [] then s else due.foldl State.resultsOf (s.atCycle 3420)

theorem proofResults_early {early : List Nat} {plain : Bool} (s : State) (due : List Nat) (h : early ≠ [] ∨ plain = true) :
    s.proofResults due early plain = early.foldl State.resultsOf ((s.atCycle 1800).completePlain) := if_pos h

theorem proofResults_late {early : List Nat} {plain : Bool} (s : State) (due : List Nat) (hearly : early = []) (hplain : plain = false) :
    s.proofResults due early plain = if due = [] then s else due.foldl State.resultsOf (s.atCycle 3420) :=
  if_neg (by simp [hearly, hplain])

/-- What is done once the clock has come to a cycle, and is `Work`, leaves the channels, the samples and the clock there. -/
theorem work_atCycle {t : State} {n : Nat} (h : Work (s.atCycle n) t) :
    t.drive = s.drive ∧ t.sense = s.sense ∧ t.clk.frame = s.clk.frame ∧ t.clk.cycle = max s.clk.cycle n := by
  obtain ⟨hdrive, hsense, hframe, hcycle⟩ := atCycle_only s n
  obtain ⟨hdrive', hsense', hclk, -⟩ := work_keeps h
  exact ⟨hdrive'.trans hdrive, hsense'.trans hsense, hclk ▸ hframe, hclk ▸ hcycle⟩

theorem resultsOf_foldl_work (s : State) (l : List Nat) : Work s (l.foldl State.resultsOf s) := Work.foldl _ State.resultsOf_work l s

theorem proofResults_spec (s : State) (due early : List Nat) (plain : Bool) :
    (s.proofResults due early plain).drive = s.drive ∧ (s.proofResults due early plain).sense = s.sense ∧
      (s.proofResults due early plain).clk.frame = s.clk.frame ∧
      (s.proofResults due early plain).clk.cycle =
        if early ≠ [] ∨ plain = true then max s.clk.cycle 1800 else if due = [] then s.clk.cycle else max s.clk.cycle 3420 := by
  unfold State.proofResults
  split
  · exact work_atCycle ((State.completePlain_work _).trans (resultsOf_foldl_work ..))
  · split
    · exact ⟨rfl, rfl, rfl, rfl⟩
    · exact work_atCycle (resultsOf_foldl_work ..)

/-! ## The end of a localisation (R248) -/

/-- The second state differs from the first in proof records and in what `Side` allows only. -/
def Marked (s t : State) : Prop := ∃ l, Side { s with imp := { s.imp with records := l } } t

theorem Marked.side {t : State} (h : Side s t) : Marked s t := ⟨_, h⟩

theorem Marked.trans {t u : State} (h : Marked s t) (g : Marked t u) : Marked s u := by
  obtain ⟨_, _, _, _, _, _, _, rfl⟩ := h
  obtain ⟨_, _, _, _, _, _, _, rfl⟩ := g
  exact ⟨_, _, _, _, _, _, _, rfl⟩

theorem Marked.foldl {α : Type} (f : State → α → State) (h : ∀ t x, Marked t (f t x)) (l : List α) (s : State) : Marked s (l.foldl f s) := by
  induction l generalizing s with
  | nil => exact .side (.refl s)
  | cons x r ih => exact (h s x).trans (ih _)

theorem modProof_marked (s : State) (seq : Nat) (f : ProofRec → ProofRec) : Marked s (s.modProof seq f) := ⟨_, .refl _⟩

/-- Suspects are marked in records, counted as failures, and told to the partner (R248, R249, R366). -/
theorem markSuspects_marked (s : State) (l : Locate) : Marked s (s.markSuspects l) := by
  unfold State.markSuspects
  refine (Marked.foldl _ (fun t x => ?_) _ s).trans (.side (State.mirrorProofOf_side ..))
  extract_lets drive t1 t2
  have hown : Marked t t1 := modProof_marked ..
  have hfirst : Marked t t2 := by
    unfold t2
    split
    · exact hown
    · exact hown.trans (modProof_marked ..)
  split
  · exact hfirst.trans (.side (State.fail_side ..))
  · exact hfirst.trans (.side (State.fail_side ..))

theorem exec_localisationEnd_none (h : s.imp.locates.find? (fun l => decide (l.start + 1024 ≤ s.clk.frame)) = none) :
    exec .localisationEnd s = .next s := by
  change execLocalisationEnd s = _
  rw [execLocalisationEnd, h]

/-- The localisation leaves the list. -/
def State.dropLocate (s : State) (l : Locate) : State :=
  { s with imp := { s.imp with locates := s.imp.locates.filter (fun x => decide (x ≠ l)) } }

theorem exec_localisationEnd {l : Locate} (h : s.imp.locates.find? (fun l => decide (l.start + 1024 ≤ s.clk.frame)) = some l) :
    exec .localisationEnd s = .next ((s.dropLocate l).markSuspects l) := by
  change execLocalisationEnd s = _
  rw [execLocalisationEnd, h]
  rfl

theorem markSuspects_keeps (s : State) (l : Locate) : (s.markSuspects l).drive = s.drive ∧ (s.markSuspects l).imp.locates = s.imp.locates := by
  obtain ⟨_, hside⟩ := markSuspects_marked s l
  obtain ⟨hdrive, -, -, himp, -⟩ := side_keeps hside
  exact ⟨hdrive, by rw [himp]⟩

end

/-- Settles O46: a snapshot read ends by `snapshotArmed_spec` or `snapshotDiscarded_spec`; `proofResults_spec` says what results leave and
where they put the clock; `markSuspects_keeps` bounds the end of a localisation. -/
theorem impressionEventsComplete : Obligations.ImpressionEventsComplete := by
  refine fun s => ⟨⟨exec_snapshotComplete_none, fun a r hfind hread => ⟨fun hgood => ?armed, fun hbad => ?discarded⟩⟩, exec_proofResult_idle,
    fun hheld hruns => ?results, exec_localisationEnd_none, fun l hl => ⟨_, exec_localisationEnd hl, markSuspects_keeps ..⟩⟩
  case armed => exact ⟨_, exec_snapshotComplete_good hfind hread hgood rfl rfl, snapshotArmed_spec ..⟩
  case discarded => exact ⟨_, exec_snapshotComplete_bad hfind hread hbad, snapshotDiscarded_spec ..⟩
  case results =>
    refine ⟨s.proofResults _ _ _, proofResult_eq s hheld hruns _ _ _ rfl rfl rfl, ?_⟩
    obtain ⟨hdrive, hsense, hframe, hcycle⟩ := proofResults_spec s _ _ _
    exact ⟨hdrive, hsense, hframe, hcycle, proofResults_early s _, proofResults_late s _⟩

end Sys2Proof.Machine
end

section
/-! The host's accesses to request queues (R256, R259, R265, R517): the doorbells of a function, and QUEUE_RESET. -/

namespace Sys2Proof.Machine

/-! ## Doorbells (R256, R265) -/

section
variable {s : State} {fn : BitVec 7} (hd : s.decodes fn.toNat = true)
include hd

theorem exec_qdCplHead (v : W32) :
    exec (.qdCplHead fn v) s = .next (s.setDomain fn.toNat { s.domain fn.toNat with cHead := v.toNat % 65536 }) := by
  obtain ⟨hpresent, hd3⟩ := decodes_iff hd
  change execQdCplHead fn v s = _
  simp [execQdCplHead, hpresent, hd3, fld]

section
variable {i : BitVec 9} {v : W32}

theorem exec_qdTail (hon : (s.queue fn.toNat i.toNat).on = true) (hmask : s.inMask fn.toNat i.toNat = true)
    (hsize : v.toNat % 4096 < (s.queue fn.toNat i.toNat).size) :
    exec (.qdTail fn i v) s = .next
      ((s.setQueue fn.toNat i.toNat ((s.queue fn.toNat i.toNat).put 64 12 (v.toNat % 4096))).fetch fn.toNat i.toNat) := by
  obtain ⟨hpresent, hd3⟩ := decodes_iff hd
  change execQdTail fn i v s = _
  simp [execQdTail, hpresent, hd3, hon, hmask, fld, Nat.not_le.2 hsize]

/-- A doorbell of a disabled queue, of one outside the mask, or past the ring sets DB_ERROR (R256). -/
theorem exec_qdTail_error (h : (s.queue fn.toNat i.toNat).on = false ∨ s.inMask fn.toNat i.toNat = false ∨
    (s.queue fn.toNat i.toNat).size ≤ v.toNat % 4096) :
    exec (.qdTail fn i v) s = .next
      ((s.setQueue fn.toNat i.toNat ((s.queue fn.toNat i.toNat).put 106 1 1)).raise 49 (.d fn.toNat) { unit := i.toNat }) := by
  obtain ⟨hpresent, hd3⟩ := decodes_iff hd
  have hrefused : (!(s.queue fn.toNat i.toNat).on || !s.inMask fn.toNat i.toNat ||
      decide ((s.queue fn.toNat i.toNat).size ≤ fld v.toNat 0 12)) = true := by simpa [fld, or_assoc] using h
  change execQdTail fn i v s = _
  exact (if_neg (by simp [hpresent, hd3])).trans (if_pos hrefused)

end
end

/-- Settles O26: one lemma for the completion head, one for a doorbell that is taken, and one for the three that are refused. -/
theorem queueDoorbellsComplete : Obligations.QueueDoorbellsComplete :=
  fun _ _ _ v hd => ⟨exec_qdCplHead hd v, exec_qdTail hd, exec_qdTail_error hd⟩

/-! ## QUEUE_RESET (R259, R517) -/

section
variable {s : State}

theorem exec_queueReset {m : MbCmd} (hadmits : s.Admits m false anyNoRf false true) (hlen : m.length.toNat = 8) (hbuf : m.buf = 0)
    (hi : m.f 0 2 < 512) (hmask : s.inMask m.dom (m.f 0 2) = true) :
    exec (.queueReset m) s = .next (((s.taken 0x0042 m).resetQueue m.dom (m.f 0 2)).thenReplied 0x0042 m stOk []) := by
  change Host.Outcome.next (s.queueReset m) = _
  have hshape : (m.len 8 && m.noBuf && decide (m.f 0 2 < 512)) = true := by simp [MbCmd.len_true hlen, MbCmd.noBuf_true hbuf, hi]
  rw [State.queueReset, State.command_admitted hadmits _ _ _ _ _ rfl rfl hshape (by rw [State.taken_inMask, hmask])]
  rfl

theorem qKey_eq_iff {d i e k : Nat} (hi : i < 512) (hk : k < 512) : qKey d i = qKey e k ↔ d = e ∧ i = k := by
  simp only [qKey]; omega

theorem resetQueue_queue_same (s : State) (d i : Nat) : (s.resetQueue d i).queue d i = cleared (s.queue d i) := by
  rw [resetQueue_queue, if_pos rfl]

theorem resetQueue_queue_other {d i e k : Nat} (hi : i < 512) (hk : k < 512) (h : e ≠ d ∨ k ≠ i) :
    (s.resetQueue d i).queue e k = s.queue e k := by
  rw [resetQueue_queue, if_neg (by rw [qKey_eq_iff hi hk]; omega)]

/-- A reset touches the queues and the transfers only (R259). -/
theorem resetQueue_sched (s : State) (d i : Nat) : (s.resetQueue d i).sched = { s.sched with queues := (s.resetQueue d i).sched.queues } := rfl

end

/-- Settles O58: `cleared` is what the reset makes of its queue, `resetQueue_queue_other` keeps every other one, and the response
touches none (`side_keeps`). -/
theorem queueResetActs : Obligations.QueueResetActs := by
  rintro s m i hadmits hlen hbuf rfl hi hmask
  refine ⟨(s.taken 0x0042 m).resetQueue m.dom (m.f 0 2), _, exec_queueReset hadmits hlen hbuf hi hmask, rfl, ?_⟩
  obtain ⟨hdrive, -, -, himp, hsched⟩ := side_keeps (State.answer_side ((s.taken 0x0042 m).resetQueue m.dom (m.f 0 2)) (refOf 0x0042 m) stOk [])
  obtain ⟨-, -, hburin⟩ := side_sched (State.answer_side ((s.taken 0x0042 m).resetQueue m.dom (m.f 0 2)) (refOf 0x0042 m) stOk [])
  have hrest := hsched.trans (resetQueue_sched ..)
  rw [State.taken_sched] at hrest
  rw [resetQueue_queue_same, State.taken_queue]
  refine ⟨cleared_on _, rfl, cleared_head _, cleared_tail _, cleared_flight _, fun d k _ hk hother => ?_, congrArg Sched.queues hsched,
    (congrArg Sched.cpls hrest :), (congrArg Sched.batches hrest :), (congrArg Sched.returned hrest :), himp.trans (State.taken_imp ..),
    hburin.trans (State.taken_burin ..), hdrive.trans (State.taken_drive ..)⟩
  rw [resetQueue_queue_other hi hk hother, State.taken_queue]

end Sys2Proof.Machine
end

section
/-! The slot table and the token buckets (R269, R271, R286, R288, R290, R291, R511): what a latch leaves, how a slot starts and the table
stops, and the refill of each domain. -/

namespace Sys2Proof.Machine

section
variable {s : State}

/-! ## The latch of an occurrence (R288, R290, R291) -/

/-- An entry of a bank is the next occurrence, its bank is the active one, and the current occurrence stands. -/
def Latches (s t : State) (bank : Bool) (entry start cycle : Nat) : Prop :=
  t.sched.active = bank ∧ t.sched.current = s.sched.current ∧
    t.sched.next = some { bank := bank, entry := entry, word := s.slotEntry bank entry, start := start, cycle := cycle }

theorem latchOcc_latches (s : State) (o : Option SlotOp) (bank : Bool) (entry start cycle : Nat) :
    Latches s (({ s with sched := { s.sched with op := o, active := bank } } : State).latchOcc entry start cycle) bank entry start cycle :=
  latchOcc_spec ..

theorem exec_slotLatch (h : s.sys.mode.ticks = true) : exec .slotLatch s = .next s.latchDue := by
  change execSlotLatch s = _
  exact if_pos h

theorem latchDue_of_next {o : Occ} (h : s.sched.next = some o) : s.latchDue = s := if_pos (by rw [h]; rfl)

/-- Nothing is latched while the table stands, nor earlier than one tick before the current slot ends. -/
theorem latchDue_waits {c : Occ} (hnext : s.sched.next = none) (hcurrent : s.sched.current = some c)
    (h : s.sched.running = false ∨ s.clk.frame + 1 < c.stop) : s.latchDue = s :=
  latch_idle s s c _ (sched_eta s _ _ _ hnext hcurrent rfl) h

theorem latchDue_starts {o : SlotOp} (hnext : s.sched.next = none) (hcurrent : s.sched.current = none) (hop : s.sched.op = some o)
    (hkind : o.op = 1) (hfree : o.latched = false) (hat : o.at_ ≤ s.clk.frame + 1) (haccepted : o.accepted < s.clk.frame) :
    Latches s s.latchDue o.bank 0 (max o.at_ (s.clk.frame + 1)) 0 := by
  rw [latch_start s s o (sched_eta s _ _ _ hnext hcurrent hop) hkind hfree hat haccepted]
  exact latchOcc_latches ..

section
variable {c : Occ} (hnext : s.sched.next = none) (hcurrent : s.sched.current = some c) (hrunning : s.sched.running = true)
  (hstop : c.stop ≤ s.clk.frame + 1)
include hnext hcurrent hrunning hstop

theorem latchDue_stops {o : SlotOp} (hop : s.sched.op = some o) (hkind : o.op = 2) (haccepted : o.accepted < s.clk.frame) :
    s.latchDue.sched.next = none ∧ s.latchDue.sched.op = some { o with latched := true, fire := max c.stop (s.clk.frame + 1) } := by
  obtain ⟨-, -, hlatch⟩ := latch_run s c hrunning hstop _ _ _ _ rfl rfl rfl s (sched_eta s _ _ _ hnext hcurrent hop)
  rw [hlatch o rfl hkind haccepted]
  have hrecheck := recheck_hd
    { s with sched := { s.sched with op := some { o with latched := true, fire := max c.stop (s.clk.frame + 1) } } }
  exact ⟨hrecheck.nx.trans hnext, hrecheck.op⟩

section
variable {entry start cycle : Nat} (hstart : start = max c.stop (s.clk.frame + 1))
  (hentry : entry = if c.last || decide (c.entry = 511) then 0 else c.entry + 1)
  (hcycle : cycle = if c.last || decide (c.entry = 511) then (c.cycle + 1) % 2 ^ 32 else c.cycle)
include hstart hentry hcycle

theorem latchDue_advances (hop : s.sched.op = none) : Latches s s.latchDue s.sched.active entry start cycle := by
  obtain ⟨hlatch, -, -⟩ := latch_run s c hrunning hstop _ _ _ _ hstart hentry hcycle s (sched_eta s _ _ _ hnext hcurrent hop)
  rw [hlatch rfl]
  exact latchOcc_latches s s.sched.op ..

theorem latchDue_swaps {o : SlotOp} (hop : s.sched.op = some o) (hkind : o.op = 0) (hfree : o.latched = false)
    (hwrap : (c.last || decide (c.entry = 511)) = true) (haccepted : o.accepted < s.clk.frame) (hat : o.at_ ≤ start) :
    Latches s s.latchDue (!s.sched.active) entry start cycle := by
  obtain ⟨-, hlatch, -⟩ := latch_run s c hrunning hstop _ _ _ _ hstart hentry hcycle s (sched_eta s _ _ _ hnext hcurrent hop)
  rw [hlatch o rfl hkind hfree hwrap haccepted hat]
  exact latchOcc_latches ..

end
end

/-! ## The start of a slot, and the stop of the table (R286, R291) -/

theorem exec_slotStart (h : s.sys.mode.ticks = true) : exec .slotStart s = .next s.slotDue := by
  change execSlotStart s = _
  exact if_pos h

theorem slotDue_waits {o : Occ} (hnext : s.sched.next = some o) (h : s.clk.frame < o.start) : s.slotDue = s := by
  rw [State.slotDue, hnext]
  exact if_pos h

/-- The latched occurrence is the one in progress. -/
def State.enterSlot (s : State) (o : Occ) : State :=
  { s with sched := { s.sched with current := some o, next := none, running := true, cycle := o.cycle } }

/-- A slot starts; at most the operation that is pending completes with it (R511). -/
theorem slotDue_starts {o : Occ} (hnext : s.sched.next = some o) (h : o.start ≤ s.clk.frame) :
    ∃ op, s.slotDue.sched = { (s.enterSlot o).sched with op := op } := by
  have hdue : s.slotDue = match (s.enterSlot o).sched.op with
      | some p => if p.latched ∧ p.op ≠ 2 ∧ p.fire = o.start then (s.enterSlot o).finishOp stOk s.clk.tickTime else s.enterSlot o
      | none => s.enterSlot o := by
    rw [State.slotDue, hnext]
    exact if_neg (Nat.not_lt.2 h)
  rw [hdue]
  split
  · split
    · exact ⟨none, finishOp_spec ..⟩
    · exact ⟨_, rfl⟩
  · exact ⟨_, rfl⟩

theorem slotDue_stops {c : Occ} {o : SlotOp} (hnext : s.sched.next = none) (hcurrent : s.sched.current = some c) (hop : s.sched.op = some o)
    (hkind : o.op = 2) (hlatched : o.latched = true) (hstop : c.stop ≤ s.clk.frame) :
    s.slotDue.sched = { s.sched with current := none, running := false, op := none } := by
  have hdue : s.slotDue = ({ s with sched := { s.sched with current := none, running := false } } : State).finishOp stOk s.clk.tickTime := by
    rw [State.slotDue, hnext, hop, hcurrent]
    exact if_pos ⟨hkind, hlatched, hstop⟩
  rw [hdue, finishOp_spec]

/-! ## The refill of the token buckets (R269, R271) -/

/-- What a refill makes of a domain: new rates come into force in every domain, and an enabled one gets its tokens. -/
def Domain.atRefill (x : Domain) : Domain :=
  if x.enable then x.refill
  else match x.nextRates with
    | some (c, p, b, q) => { x with cir := c, pir := p, cbs := b, pbs := q, nextRates := none }
    | none => x

/-- The refill of one domain, which the mirror message of an enabled one reports (R351). -/
def State.refillDomain (s : State) (d : Nat) : State :=
  let x := s.domain d
  if x.enable then (s.setDomain d x.refill).mirrorRequestOf d 0xFFFF none
  else if x.nextRates.isSome then
    (match x.nextRates with
     | some (c, p, b, q) => s.setDomain d { x with cir := c, pir := p, cbs := b, pbs := q, nextRates := none }
     | none => s)
  else s

/-- Every domain is refilled, and the refill of this frame is done. -/
def State.refillAll (s : State) : State :=
  (List.range 128).foldl State.refillDomain { s with clk := { s.clk with refilled := true } }

theorem exec_tokenRefill_idle (h : s.clk.frame % 64 ≠ 0 ∨ s.clk.refilled = true) : exec .tokenRefill s = .next s := by
  change execTokenRefill s = _
  exact if_pos (h.imp_right .inl)

theorem exec_tokenRefill (hticks : s.sys.mode.ticks = true) (hframe : s.clk.frame % 64 = 0) (hdue : s.clk.refilled = false) :
    exec .tokenRefill s = .next s.refillAll := by
  change execTokenRefill s = _
  exact if_neg (by simp [hframe, hdue, hticks])

theorem domain_of_side {t : State} (h : Side s t) (d : Nat) : t.domain d = s.domain d :=
  congrArg (fun x : Sched => rd x.domains d (.init d)) (side_sched h).1

theorem refillDomain_spec (s : State) (d : Nat) :
    (∀ e, (s.refillDomain d).domain e = if d = e then (s.domain d).atRefill else s.domain e) ∧ (s.refillDomain d).clk = s.clk := by
  by_cases henable : (s.domain d).enable = true
  · have hside := State.mirrorRequestOf_side (s.setDomain d (s.domain d).refill) d 0xFFFF none
    obtain ⟨-, -, hclk, -, -⟩ := side_keeps hside
    rw [State.refillDomain, Domain.atRefill, if_pos henable]
    exact ⟨fun e => (domain_of_side hside e).trans (by rw [setDomain_domain, if_pos henable]), hclk⟩
  · rw [State.refillDomain, Domain.atRefill, if_neg henable]
    cases hrates : (s.domain d).nextRates with
    | none => exact ⟨fun e => by simp [henable]; rintro rfl; rfl, rfl⟩
    | some r => exact ⟨fun e => by simp [henable, setDomain_domain], rfl⟩

theorem refillAll_spec (s : State) :
    s.refillAll.clk.refilled = true ∧ ∀ d < 128, s.refillAll.domain d = (s.domain d).atRefill := by
  have hstep (t : State) (d : Nat) : (t.refillDomain d).domain d = (t.domain d).atRefill ∧
      (∀ e, e ≠ d → (t.refillDomain d).domain e = t.domain e) ∧ (t.refillDomain d).clk = t.clk := by
    obtain ⟨hdomain, hclk⟩ := refillDomain_spec t d
    exact ⟨by rw [hdomain, if_pos rfl], fun e he => by rw [hdomain, if_neg he.symm], hclk⟩
  obtain ⟨hclk, hdomain⟩ := refill_fold State.refillDomain Domain.atRefill hstep (List.range 128)
    { s with clk := { s.clk with refilled := true } } List.nodup_range
  rw [State.refillAll]
  exact ⟨by rw [hclk], fun d hd => (hdomain d).trans (if_pos (List.mem_range.2 hd))⟩

end

/-- Settles O47: each way a latch can go is a `latchDue_` lemma, each way a slot begins or the table stops a `slotDue_` lemma;
`refillAll_spec` gives every domain after the refill. -/
theorem slotsAndRefillComplete : Obligations.SlotsAndRefillComplete := by
  intro s hticks
  rw [exec_slotLatch hticks, exec_slotStart hticks]
  refine ⟨fun o h => by rw [latchDue_of_next h], fun c bank entry start cycle hnext hcase => ⟨_, rfl, ?latch⟩,
    fun c o hnext hcurrent hrunning hstop hop hkind haccepted => ⟨_, rfl, latchDue_stops hnext hcurrent hrunning hstop hop hkind haccepted⟩,
    fun c hnext hcurrent h => by rw [latchDue_waits hnext hcurrent h],
    fun o hnext => ⟨fun h => by rw [slotDue_waits hnext h], fun h => ⟨_, rfl, ?start⟩⟩,
    fun c o hnext hcurrent hop hkind hlatched hstop => ⟨_, rfl, ?stop⟩, exec_tokenRefill_idle,
    fun hframe hdue => ⟨_, exec_tokenRefill hticks hframe hdue, refillAll_spec s⟩⟩
  case latch =>
    rcases hcase with ⟨hcurrent, hrunning, hstop, hstart, hentry, hcycle, ⟨hop, rfl⟩ | ⟨o, hop, hkind, hfree, hwrap, haccepted, hat, rfl⟩⟩ |
      ⟨hcurrent, rfl, rfl, o, hop, hkind, hfree, hat, haccepted, rfl, rfl⟩
    · exact latchDue_advances hnext hcurrent hrunning hstop hstart hentry hcycle hop
    · exact latchDue_swaps hnext hcurrent hrunning hstop hstart hentry hcycle hop hkind hfree hwrap haccepted hat
    · exact latchDue_starts hnext hcurrent hop hkind hfree hat haccepted
  case start =>
    obtain ⟨op, hsched⟩ := slotDue_starts hnext h
    rw [hsched]
    exact ⟨rfl, rfl, rfl, rfl⟩
  case stop =>
    rw [slotDue_stops hnext hcurrent hop hkind hlatched hstop]
    exact ⟨rfl, rfl, rfl⟩

end Sys2Proof.Machine
end

section
/-! The scheduler (R257, R261, R265, R273, R277, R278, R281, R284, R355, R480): descriptors that arrive, the checks at the head of a queue, one
arbitration decision, the submission of a batch, and the write of a completion record. -/

namespace Sys2Proof.Machine

section
variable {s : State}

/-! ## Descriptors that arrive (R257, R480) -/

theorem setXfer_side (s : State) (x : Xfer) : Side s (s.setXfer x) := ⟨_, _, _, _, _, _, rfl⟩

theorem dropXfer_side (s : State) (id : Nat) : Side s (s.dropXfer id) := ⟨_, _, _, _, _, _, rfl⟩

theorem busAccess_side (s : State) (m : Nat) (write : Bool) (t : BusTarget) : Side s (s.busAccess m write t) := by
  unfold State.busAccess
  split
  · exact .refl s
  · exact ⟨_, _, _, _, _, _, rfl⟩

/-- The transfer whose burst fetches descriptors of a queue, as one that is in flight. -/
def Fetches (d i : Nat) (x : Xfer) : Bool := decide (x.dom = d) && decide (x.use = .fetch i) && decide (0 < x.inFlight)

section
variable (dom : BitVec 7) (queue : BitVec 9) (descs : List (BitVec 256))

theorem exec_descriptorFetched_none (h : s.host.xfers.find? (Fetches dom.toNat queue.toNat) = none) :
    exec (.descriptorFetched dom queue descs) s = .next s := by
  change execDescriptorFetched dom queue descs s = _
  unfold Fetches at h
  simp only [execDescriptorFetched, h]

section
variable {x : Xfer} (hx : s.host.xfers.find? (Fetches dom.toNat queue.toNat) = some x)
include hx

/-- A read that gives too few descriptors is a failed one: it stops the domain (R480). -/
theorem descriptorFetched_short (hshort : descs.length < x.inFlight / 32) :
    ∃ t, exec (.descriptorFetched dom queue descs) s = .next t ∧ (t.xlate dom.toNat).stopped = true ∧ t.sched = s.sched := by
  have hfetches := List.find?_some hx
  simp only [Fetches, Bool.and_eq_true, decide_eq_true_eq] at hfetches
  obtain ⟨⟨hdom, huse⟩, -⟩ := hfetches
  refine ⟨(s.setXfer { x with issued := x.issued - x.inFlight, inFlight := 0 }).xlateFault
    { x with issued := x.issued - x.inFlight, inFlight := 0 } 8 ((x.iova + (x.issued - x.inFlight)) % 2 ^ 48), ?_, ?_, xlateFault_sched ..⟩
  · change execDescriptorFetched dom queue descs s = _
    unfold Fetches at hx
    simp only [execDescriptorFetched, hx, if_pos hshort]
  · rw [← hdom]
    exact xlateFault_stopped _ { x with issued := x.issued - x.inFlight, inFlight := 0 } _ _ (by simp [Xfer.isEvent, huse])

/-- The queue with the descriptors of a burst behind those that it holds. -/
def Queue.receive (q : Queue) (k : Nat) (descs : List (BitVec 256)) : Queue :=
  { q.setDescs (q.descs ++ descs.take k) with fetching := q.fetching - k }

theorem descriptorFetched_joins (henough : x.inFlight / 32 ≤ descs.length) :
    ∃ t, exec (.descriptorFetched dom queue descs) s = .next t ∧
      t.queue dom.toNat queue.toNat = (s.queue dom.toNat queue.toNat).receive (x.inFlight / 32) descs ∧
      t.sched.domains = s.sched.domains ∧ t.drive = s.drive := by
  let u := (s.busAccess 4 true .queueState).setQueue dom.toNat queue.toNat ((s.queue dom.toNat queue.toNat).receive (x.inFlight / 32) descs)
  let v := if x.len ≤ x.issued then u.dropXfer x.id
    else u.setXfer { x with inFlight := 0, urgent := x.urgent || (descs.take (x.inFlight / 32)).any dUrgent }
  have hside : Side u (v.mirrorRequestOf dom.toNat queue.toNat none) :=
    (Side.ite (dropXfer_side ..) (setXfer_side ..)).trans (State.mirrorRequestOf_side ..)
  obtain ⟨hsched, hdrive, -⟩ := side_sched hside
  obtain ⟨hbusSched, hbusDrive, -⟩ := side_sched (busAccess_side s 4 true .queueState)
  refine ⟨v.mirrorRequestOf dom.toNat queue.toNat none, ?_, ?_, ?_, hdrive.trans hbusDrive⟩
  · change execDescriptorFetched dom queue descs s = _
    unfold Fetches at hx
    simp only [execDescriptorFetched, hx, if_neg (Nat.not_lt.2 henough)]
    rfl
  · rw [queue_congr hsched, queue_setQueue_i]
  · exact (congrArg Sched.domains hsched).trans (congrArg Sched.domains hbusSched :)

end
end

/-! ## The checks of the head (R261, R284) -/

/-- The ports of a descriptor are those of its queue and of its domain (R261). -/
def State.permits (s : State) (d i : Nat) (e : BitVec 256) : Prop := dIngress e = i ∧ dEgress e < 512 ∧ s.inMask d (dEgress e) = true

section
variable {d i : Nat}

theorem exec_descriptorCheck (s : State) (dom : BitVec 7) (queue : BitVec 9) :
    exec (.descriptorCheck dom queue) s = .next (s.checkHead dom.toNat queue.toNat) := rfl

theorem checkHead_idle (h : (s.queue d i).descs = [] ∨ (s.queue d i).checked = true ∨ (s.queue d i).inFlight = true ∨
    s.domainOn d = false ∨ s.schedRuns = false) : s.checkHead d i = s := by
  rw [State.checkHead]
  split
  case h_1 => rfl
  case h_2 hdescs => exact if_pos (by simpa [hdescs, or_assoc] using h)

section
variable {e : BitVec 256} {r : List (BitVec 256)} (hdescs : (s.queue d i).descs = e :: r) (hchecked : (s.queue d i).checked = false)
  (hflight : (s.queue d i).inFlight = false) (hon : s.domainOn d = true) (hruns : s.schedRuns = true)
include hdescs hchecked hflight hon hruns

theorem checkHead_of_not_permitted (h : ¬ s.permits d i e) : s.checkHead d i = s.refuse d i stNotPermitted false := by
  have hports : dIngress e ≠ i ∨ 512 ≤ dEgress e ∨ s.inMask d (dEgress e) = false := by
    simpa only [State.permits, not_and_or, Nat.not_lt, Bool.not_eq_true] using h
  simp only [State.checkHead, hdescs, hchecked, hflight, hon, hruns, Bool.not_true, Bool.or_self, Bool.false_eq_true, if_false]
  exact if_pos (by simpa only [Bool.not_eq_true'] using hports)

section
variable (hports : s.permits d i e)
include hports

theorem checkHead_of_malformed (h : 2 < dAction e ∨ 2 < dWhen e) : s.checkHead d i = s.refuse d i stBadOpcode false := by
  obtain ⟨hingress, hegress, hmask⟩ := hports
  simp [State.checkHead, hdescs, hchecked, hflight, hon, hruns, hingress, hmask, Nat.not_le.2 hegress, h]

theorem checkHead_of_untimed (haction : dAction e ≤ 2) (hwhen : dWhen e = 0) :
    s.checkHead d i = s.setQueue d i { s.queue d i with checked := true, late := false, due := none } := by
  obtain ⟨hingress, hegress, hmask⟩ := hports
  simp [State.checkHead, hdescs, hchecked, hflight, hon, hruns, hingress, hmask, Nat.not_le.2 hegress, Nat.not_lt.2 haction, hwhen]

theorem checkHead_of_timed (haction : dAction e ≤ 2) (hwhen : dWhen e ≤ 2) (htimed : dWhen e ≠ 0) :
    s.checkHead d i = match s.timed e with
    | .past =>
      if dStrict e then s.refuse d i stLate false
      else s.setQueue d i { (s.queue d i).setTimed false with checked := true, late := true, due := none }
    | .waits => s.setQueue d i ((s.queue d i).setTimed true)
    | .due f => s.setQueue d i { (s.queue d i).setTimed (decide (s.clk.frame + 1 < f)) with checked := true, late := false, due := some f } := by
  obtain ⟨hingress, hegress, hmask⟩ := hports
  cases htime : s.timed e <;>
    simp [State.checkHead, hdescs, hchecked, hflight, hon, hruns, hingress, hmask, Nat.not_le.2 hegress, Nat.not_lt.2 haction,
      Nat.not_lt.2 hwhen, htimed, htime]

end
end
end

/-! ## An arbitration decision (R273, R277, R281) -/

theorem exec_arbitrationDecision_idle (h : s.mayForm = false) : exec .arbitrationDecision s = .next s := by
  change execArbitrationDecision s = _
  exact if_pos (by rw [h]; rfl)

theorem missed_iff (r : Req) (k : Nat) : r.missed k = true ↔ ∃ f, r.due = some f ∧ f ≤ k := by
  unfold Req.missed
  split <;> simp_all

theorem joinOrLate_eq (s : State) (r : Req) [Decidable (r.strict = true ∧ ∃ f, r.due = some f ∧ f ≤ s.clk.frame)] :
    s.joinOrLate r = if r.strict = true ∧ ∃ f, r.due = some f ∧ f ≤ s.clk.frame then s.completeBare r stLate 0 else s.join r := by
  rw [State.joinOrLate]
  exact if_congr (by rw [Bool.and_eq_true, missed_iff]) rfl rfl

/-- A domain that a decision has chosen grants its request, which joins the batch or is late (R281, R285). -/
def State.grantBest (s : State) (d : Nat) : State :=
  match s.grant d s.eligible with
  | (u, some r) => (u.joinOrLate r).mirrorGrant r
  | (u, none) => u

theorem grantBest_of_some {u : State} {d : Nat} {r : Req} (h : s.grant d s.eligible = (u, some r)) :
    s.grantBest d = (u.joinOrLate r).mirrorGrant r := by
  rw [State.grantBest, h]

theorem grantBest_of_none {u : State} {d : Nat} (h : s.grant d s.eligible = (u, none)) : s.grantBest d = u := by
  rw [State.grantBest, h]

section
variable (hform : s.mayForm = true)
include hform

/-- A returned request is routed again before any grant (R281). -/
theorem exec_arbitrationDecision_returned {r : Req} {rest : List Req} (h : s.sched.returned = r :: rest) :
    exec .arbitrationDecision s =
      .next ((({ s with sched := { s.sched with returned := rest } } : State).joinOrLate r).mirrorGrant r) := by
  change execArbitrationDecision s = _
  rw [execArbitrationDecision, hform, h]
  rfl

section
variable (hreturned : s.sched.returned = []) {u : State} (hu : u = s.policeHeads) {green : List Nat}
  (hgreen : green = u.eligible.filter (fun d => u.unpoliced || decide (0 < (u.domain d).balC)))
include hreturned hu hgreen

/-- The tier that a decision grants from: the domains with committed tokens, or else all that are eligible (R273). -/
theorem exec_arbitrationDecision :
    exec .arbitrationDecision s = .next
      (((u.smallest (if green = [] then u.eligible else green)).map u.grantBest).getD u.closeBatch) := by
  have htier : (if green.isEmpty then u.eligible else green) = if green = [] then u.eligible else green :=
    if_congr List.isEmpty_iff rfl rfl
  subst hu hgreen
  change execArbitrationDecision s = _
  rw [← htier, execArbitrationDecision, hform, hreturned]
  refine (if_neg (by decide)).trans ?_
  cases hbest : s.policeHeads.smallest _ with
  | none => simp only [hbest, Option.map_none, Option.getD_none]
  | some d =>
    rcases hgrant : s.policeHeads.grant d s.policeHeads.eligible with ⟨v, _ | r⟩
    · simp only [hbest, hgrant, Option.map_some, Option.getD_some, grantBest_of_none hgrant]
    · simp only [hbest, hgrant, Option.map_some, Option.getD_some, grantBest_of_some hgrant]

end
end

/-! ## The submission of a batch (R277, R278) -/

theorem exec_batchSubmit {b : Batch} {dest base : Nat} (hwaiting : s.sched.batches.find? (fun (b : Batch) => b.state == .waiting) = some b)
    (hslot : s.ringSlot = some dest) (hruns : s.schedRuns = true) (hroom : s.burin.queue.length < 8)
    (hbase : base = match (s.sched.batches.filter Batch.inChain).getLast? with | some x => x.dest | none => 0xFFFE) :
    exec .batchSubmit s = .next { s with
      sched := { s.sched with batches := s.sched.batches.map (fun x => if x.id = b.id then { b with dest := dest, base := base, state := .routing } else x) }
      burin := { s.burin with
        queue := s.burin.queue ++ [{ dest := dest, base := base, delta := some (b.reqs.map Req.change), owner := .batch b.id }]
        ringNext := if dest = 511 then 480 else dest + 1 } } := by
  subst hbase
  change execBatchSubmit s = _
  simp only [execBatchSubmit, hwaiting, hslot]
  exact if_neg (by simp [hruns, Nat.not_le.2 hroom])

theorem exec_batchSubmit_idle (h : s.sched.batches.find? (fun (b : Batch) => b.state == .waiting) = none ∨ s.ringSlot = none ∨
    s.schedRuns = false ∨ 8 ≤ s.burin.queue.length) : exec .batchSubmit s = .next s := by
  change execBatchSubmit s = _
  rw [execBatchSubmit]
  split
  case h_1 hwaiting hslot =>
    exact if_pos (by simpa [hwaiting, hslot] using h)
  case h_2 => rfl

/-! ## The write of a completion record (R265, R355) -/

theorem mirrorSend_xfers (s : State) (type : Nat) (p : List Byte) : (s.mirrorSend type p).host.xfers = s.host.xfers := by
  unfold State.mirrorSend State.mirrorTx
  split
  · split <;> rfl
  · rfl

/-- The domain after a completion record has taken the next entry of its ring: the index, the phase at the wrap, the reservation. -/
def Domain.takeEntry (x : Domain) : Domain :=
  { x with
    cWrite := if x.cWrite + 1 = 2 ^ x.cK then 0 else x.cWrite + 1
    cPhase := x.cPhase != decide (x.cWrite + 1 = 2 ^ x.cK)
    cReserved := x.cReserved - 1 }

section
variable {dom : BitVec 7}

theorem exec_completionWrite_idle (h : s.pair.held = false ∨ (s.xlate dom.toNat).stopped = true ∨ s.host.linkUp = false ∨
    (s.fn dom.toNat).d3 = true ∨ (s.domain dom.toNat).cK = 0 ∨ takeCpl dom.toNat s.sched.cpls = none) :
    exec (.completionWrite dom) s = .next s := by
  change execCompletionWrite dom s = _
  rw [execCompletionWrite]
  split
  case isTrue => rfl
  case isFalse hstands =>
    have hnone : takeCpl dom.toNat s.sched.cpls = none := by
      simp only [Bool.or_eq_true, Bool.not_eq_true', decide_eq_true_eq, not_or] at hstands
      tauto
    rw [hnone]

/-- The record goes out as a write of 32 bytes; the queue of records, the ring and the transfers are as R265 gives. -/
theorem completionWrite_spec {c : Cpl} {rest : List Cpl} (hheld : s.pair.held = true) (hstopped : (s.xlate dom.toNat).stopped = false)
    (hlink : s.host.linkUp = true) (hd3 : (s.fn dom.toNat).d3 = false) (hring : (s.domain dom.toNat).cK ≠ 0)
    (htake : takeCpl dom.toNat s.sched.cpls = some (c, rest)) :
    ∃ t y, exec (.completionWrite dom) s = .next t ∧ t.sched.cpls = rest ∧ t.domain dom.toNat = (s.domain dom.toNat).takeEntry ∧
      t.host.xfers = s.host.xfers ++ [y] ∧ y.write = true ∧ y.dom = dom.toNat ∧
      y.iova = (s.domain dom.toNat).cBase + 32 * (s.domain dom.toNat).cWrite ∧ y.len = 32 ∧
      y.data = bytesLE 32 (stampRecord c.record (s.domain dom.toNat).cPhase s.pair.epoch).toNat := by
  let x := s.domain dom.toNat
  let record := bytesLE 32 (stampRecord c.record x.cPhase s.pair.epoch).toNat
  let u := ({ s with sched := { s.sched with cpls := rest } } : State).setDomain dom.toNat x.takeEntry
  let v := u.mirrorSend 0x04 (bytesLE 2 dom.toNat ++ bytesLE 2 x.cWrite ++ record)
  obtain ⟨hsched, -, -⟩ := side_sched (State.mirrorSend_side u 0x04 (bytesLE 2 dom.toNat ++ bytesLE 2 x.cWrite ++ record))
  refine ⟨v.newXfer dom.toNat (.completion x.cWrite) false true (x.cBase + 32 * x.cWrite) 32 record, _, ?_, congrArg Sched.cpls hsched, ?_,
    congrArg (· ++ [_]) (mirrorSend_xfers u ..), rfl, rfl, rfl, rfl, rfl⟩
  · change execCompletionWrite dom s = _
    simp only [execCompletionWrite, hheld, hstopped, hlink, hd3, hring, htake, decide_false, Bool.not_true, Bool.or_self,
      Bool.false_eq_true, if_false]
    simp only [decide_eq_true_eq]
    rfl
  · refine (congrArg (fun y : Sched => rd y.domains dom.toNat (.init dom.toNat)) hsched).trans ?_
    exact domain_setDomain_i ..

end
end

/-- Settles O50: descriptors that arrive join by `descriptorFetched_joins` or stop the domain by `descriptorFetched_short`; each verdict
on a head has its `checkHead_of_` lemma, and `refuse_eq` says what a refusal leaves; a decision is `exec_arbitrationDecision`, a
submission `exec_batchSubmit`, a record `completionWrite_spec`. -/
theorem schedulerCommandsComplete : Obligations.SchedulerCommandsComplete := by
  refine fun s => ⟨?fetched, ?checked, exec_arbitrationDecision_idle, ?returned, ?decided,
    fun b dest base => exec_batchSubmit, exec_batchSubmit_idle, ?written⟩
  case fetched =>
    rintro dom queue descs d i rfl rfl
    exact ⟨exec_descriptorFetched_none dom queue descs, fun x hx =>
      ⟨descriptorFetched_joins dom queue descs hx, descriptorFetched_short dom queue descs hx⟩⟩
  case checked =>
    rintro dom queue d i rfl rfl
    rw [exec_descriptorCheck]
    refine ⟨fun h => by rw [checkHead_idle h], fun e r hdescs hchecked hflight hon hruns ok hok => ?_⟩
    obtain rfl : ok = s.permits dom.toNat queue.toNat e := propext hok
    refine ⟨fun q hq => congrArg _ ?passes, fun st hst => ?refused⟩
    case passes =>
      rcases hq with ⟨hports, haction, hwhen, rfl⟩ | ⟨hports, haction, hwhen, htimed, hq⟩
      · exact checkHead_of_untimed hdescs hchecked hflight hon hruns hports haction hwhen
      · rw [checkHead_of_timed hdescs hchecked hflight hon hruns hports haction hwhen htimed]
        rcases hq with ⟨hpast, hstrict, rfl⟩ | ⟨hwaits, rfl⟩ | ⟨f, hdue, rfl⟩
        · rw [hpast]
          exact if_neg (by rw [hstrict]; decide)
        · rw [hwaits]
        · rw [hdue]
    case refused =>
      have hrefused : s.checkHead dom.toNat queue.toNat = s.refuse dom.toNat queue.toNat st false := by
        rcases hst with ⟨rfl, hports⟩ | ⟨rfl, hports, hshape⟩ | ⟨rfl, hports, haction, hwhen, htimed, hpast, hstrict⟩
        · exact checkHead_of_not_permitted hdescs hchecked hflight hon hruns hports
        · exact checkHead_of_malformed hdescs hchecked hflight hon hruns hports hshape
        · rw [checkHead_of_timed hdescs hchecked hflight hon hruns hports haction hwhen htimed, hpast]
          exact if_pos hstrict
      obtain ⟨hfull, hroom⟩ := refuse_eq s dom.toNat queue.toNat st e r hdescs
      rw [hrefused]
      refine ⟨fun h => by rw [hfull h], fun h => ?_⟩
      obtain ⟨q, hq⟩ := hroom h
      exact ⟨_, q, rfl, hq⟩
  case returned =>
    rintro hform r rest hreturned u rfl
    rw [exec_arbitrationDecision_returned hform hreturned, joinOrLate_eq]
  case decided =>
    intro hform hreturned
    extract_lets u green best
    rw [exec_arbitrationDecision hform hreturned (u := u) rfl (green := green) rfl,
      show u.smallest (if green = [] then u.eligible else green) = best from rfl]
    refine ⟨fun hbest => by rw [hbest, Option.map_none, Option.getD_none], fun d hbest => ?_⟩
    rw [hbest, Option.map_some, Option.getD_some]
    split
    case h_1 v r hgrant => rw [grantBest_of_some hgrant, joinOrLate_eq]
    case h_2 v hgrant => rw [grantBest_of_none hgrant]
  case written =>
    rintro dom d x rfl rfl
    exact ⟨exec_completionWrite_idle, fun hheld hstopped hlink hd3 hring c rest htake =>
      completionWrite_spec hheld hstopped hlink hd3 hring htake⟩

end Sys2Proof.Machine
end

section
/-! Registers of BAR0 whose access is a command of its own (R301, R302, R469, R470, R473, R474, R557 to R559): the acknowledge of MB_RSP,
the event status and the ring head, fabric time, the counters and the commit of the arbiter's priorities. -/

namespace Sys2Proof.Machine

/-! ## The acknowledge of MB_RSP (R469, R470) -/

section
variable {s : State} {n value : Nat}

theorem ackRsp_idle (h : tb value 0 = false ∨ (s.fn n).rspValid = false) : s.ackRsp n value = s :=
  if_pos (by simpa using h)

section
variable (hack : tb value 0 = true) (hvalid : (s.fn n).rspValid = true)
include hack hvalid

theorem ackRsp_last (hwaiting : (s.fn n).waiting = []) : s.ackRsp n value = s.setFn n { s.fn n with rspValid := false } := by
  simp [State.ackRsp, hack, hvalid, hwaiting]

theorem ackRsp_next {r : BitVec 512} {notify : Bool} {rest : List (BitVec 512 × Bool)} (hwaiting : (s.fn n).waiting = (r, notify) :: rest) :
    s.ackRsp n value =
      if notify then (s.setFn n { s.fn n with rsp := r, waiting := rest }).msix n 0
      else s.setFn n { s.fn n with rsp := r, waiting := rest } := by
  simp [State.ackRsp, hack, hvalid, hwaiting]

end
end

/-! ## Accesses to a function that decodes them (R463, R489) -/

section
variable {s : State} {fn : BitVec 7} (hd : s.decodes fn.toNat = true)
include hd

theorem exec_mbRspAck (v : W32) : exec (.mbRspAck fn v) s = .next (s.ackRsp fn.toNat v.toNat) := if_pos hd

theorem exec_evStatusClear {w : Nat} (hw : w < 10) (v : W32) :
    exec (.evStatusClear fn w v) s = .next (s.clearEv fn.toNat w v.toNat) :=
  (if_neg (Nat.not_le.2 hw)).trans (if_pos hd)

theorem exec_evRingHead (v : W32) :
    exec (.evRingHead fn v) s = .next (s.setFn fn.toNat { s.fn fn.toNat with ringHead := v.toNat % 65536 }) := if_pos hd

end

/-! ## Fabric time (R301, R302) -/

/-- TM_FRAME_LAT takes the frame number modulo 2³² (R18, R301). -/
theorem exec_tmNsRead_latches {s : State} {fn : BitVec 7} (hd : s.decodes fn.toNat = true) :
    exec (.tmNsRead fn) s = .next
      ((s.setFn fn.toNat { s.fn fn.toNat with frameLat := BitVec.ofNat 32 s.clk.frame }).emit (.regRead (s.ns % 2 ^ 32))) := by
  have hframe : BitVec.ofNat 32 s.frame32 = BitVec.ofNat 32 s.clk.frame := BitVec.eq_of_toNat_eq (by simp [State.frame32])
  rw [exec_tmNsRead hd, hframe]; rfl

theorem signed_toNat (v : W32) : signed 32 v.toNat = v.toInt := by
  have hv := v.isLt
  rw [signed, BitVec.toInt_eq_toNat_cond, Nat.mod_eq_of_lt hv]
  split <;> split <;> omega

theorem limitFreq_eq (f : Int) : limitFreq f = max (-512000000) (min 512000000 f) := by
  unfold limitFreq clampInt
  split
  · omega
  · split <;> omega

theorem exec_tmAdj_ignored {s : State} {fn : BitVec 7} (v : W32) (h : fn ≠ 0 ∨ s.ft.source ≠ .host) :
    exec (.tmAdj fn v) s = .next s :=
  if_pos (h.imp_right .inl)

theorem exec_tmAdj_host {s : State} (hd : s.decodes 0 = true) (v : W32) (hsource : s.ft.source = .host) :
    exec (.tmAdj 0 v) s = .next (s.due (.freq (max (-512000000) (min 512000000 v.toInt)))) := by
  obtain ⟨-, hd3⟩ := decodes_iff hd
  rw [← limitFreq_eq, ← signed_toNat]
  exact if_neg (by simp [hsource, hd3])

/-! ## Counters and the arbiter (R557 to R559) -/

theorem readPcCycle_eq (s : State) :
    s.readPcCycle =
      { s with clk := { s.clk with pcHi := s.clk.pcCycle.extractLsb' 32 32 },
               host := { s.host with out := s.host.out ++ [.regRead (s.clk.pcCycle.toNat % 2 ^ 32)] } } := by
  have hhigh : BitVec.ofNat 32 (s.clk.pcCycle.toNat / 2 ^ 32) = s.clk.pcCycle.extractLsb' 32 32 := by
    rw [BitVec.extractLsb', Nat.shiftRight_eq_div_pow]
  rw [← hhigh]; rfl

/-- What a table reads after the value of one key has been replaced by a function of it. -/
theorem rd_wr_update {α : Type} (t : Tbl α) (d : α) (g : α → α) (i k : Nat) :
    rd (wr t i (g (rd t i d))) k d = if k = i then g (rd t k d) else rd t k d := by
  rw [rd_wr]
  by_cases hk : k = i
  · subst hk; simp
  · rw [if_neg hk, if_neg (Ne.symm hk)]

/-- A read of a low word latches the high word of its counter, and no other counter changes (R559). -/
theorem readCount_effect (s : State) (n : Nat) :
    (s.readCount n).host.out = s.host.out ++ [.regRead ((rd s.host.perf n .init).count % 2 ^ 32)] ∧
    (∀ k, rd (s.readCount n).host.perf k .init =
      if k = n then { rd s.host.perf k .init with hi := (rd s.host.perf k .init).count / 2 ^ 32 } else rd s.host.perf k .init) ∧
    s.readCount n = { s with host := { s.host with perf := (s.readCount n).host.perf, out := (s.readCount n).host.out } } :=
  ⟨rfl, rd_wr_update s.host.perf .init (fun c => { c with hi := c.count / 2 ^ 32 }) n, rfl⟩

theorem exec_paCommit_pf {s : State} (hd : s.decodes 0 = true) (v : W32) : exec (.paCommit 0 v) s = .next (s.paCommit v.toNat) :=
  if_pos ⟨rfl, hd⟩

theorem exec_paCommit_vf {s : State} {fn : BitVec 7} (hfn : fn ≠ 0) (v : W32) : exec (.paCommit fn v) s = .next s :=
  if_neg fun h => hfn h.1

theorem paCommit_of_set {s : State} {value : Nat} (h : tb value 0 = true) :
    s.paCommit value = { s with host := { s.host with committed := some s.host.shadow } } :=
  if_pos h

theorem paCommit_of_clear {s : State} {value : Nat} (h : tb value 0 = false) : s.paCommit value = s :=
  if_neg (ne_true_of_eq_false h)

/-! ## The obligation -/

/-- Settles O23: each register has its `exec_` lemma; the acknowledge then rests on the three `ackRsp_` lemmas, the event status on
`ev_bits`, and the counters on `readPcCycle_eq` and `readCount_effect`. -/
theorem registerCommandsComplete : Obligations.RegisterCommandsComplete := by
  refine ⟨fun s fn hd => ⟨?idle, ?released, ?status, exec_evRingHead hd⟩,
    fun s fn hd => ⟨exec_tmNsRead_latches hd, exec_tmAdj_ignored, ?adjusted⟩, fun s fn hd => ⟨?pf, ?vf⟩⟩
  case idle =>
    intro v h
    rw [exec_mbRspAck hd, ackRsp_idle h]
  case released =>
    intro v hack hvalid
    rw [exec_mbRspAck hd]
    exact ⟨fun hwaiting => congrArg _ (ackRsp_last hack hvalid hwaiting),
      fun r notify rest hwaiting => congrArg _ (ackRsp_next hack hvalid hwaiting)⟩
  case status =>
    exact fun w v hw => ⟨_, _, exec_evStatusClear hd hw v, rfl, ev_bits _ w v hw⟩
  case adjusted =>
    rintro v rfl hsource
    exact exec_tmAdj_host hd v hsource
  case pf =>
    rintro rfl
    refine ⟨by rw [exec_pcCycleLoRead hd, if_pos rfl, readPcCycle_eq], fun n => ?_, fun v h => ?_, fun v h => ?_⟩
    · exact ⟨_, by rw [exec_countLoRead hd, if_pos rfl], readCount_effect s n.toNat⟩
    · rw [exec_paCommit_pf hd, paCommit_of_set h]
    · rw [exec_paCommit_pf hd, paCommit_of_clear h]
  case vf =>
    intro hfn
    refine ⟨?_, fun n => ?_, exec_paCommit_vf hfn⟩
    · rw [exec_pcCycleLoRead hd, if_neg hfn]; rfl
    · rw [exec_countLoRead hd, if_neg hfn]; rfl

end Sys2Proof.Machine
end

section
/-! Frames of the REF ports (R331): the bytes of a frame, its CRC, the flags of a module. -/

namespace Sys2Proof.Machine

/-! ## Bytes of a frame (R331) -/

theorem refBytes_length (type : Nat) (site : Bool) (flags epoch arg seq : Nat) : (refBytes type site flags epoch arg seq).length = 16 := by
  simp [refBytes, refBody, bytesLE_length]

theorem bit_lt_two (b : Bool) : bit b < 2 := by cases b <;> decide

theorem fieldB_head {n x : Nat} (r : List Byte) (h : x < 256 ^ n) : fieldB (bytesLE n x ++ r) 0 n = x :=
  fieldB_at [] r 0 n x rfl h

/-- The field at an offset behind the first field is that of the rest. -/
theorem fieldB_skip (k x : Nat) (r : List Byte) (o n : Nat) : fieldB (bytesLE k x ++ r) (o + k) n = fieldB r o n := by
  rw [fieldB, sliceB, List.drop_append, List.drop_of_length_le (by rw [bytesLE_length]; omega), bytesLE_length, Nat.add_sub_cancel]
  rfl

/-- Each field of the table of R331, read back at its offset, and CHECK over the 14 bytes before it. -/
theorem refBytes_layout (type : Nat) (site : Bool) (flags epoch arg seq : Nat) (l : List Byte) (hl : l = refBytes type site flags epoch arg seq) :
    l.length = 16 ∧ (type < 2 ^ 8 → fieldB l 0x00 1 = type) ∧ fieldB l 0x01 1 = bit site ∧ (flags < 2 ^ 16 → fieldB l 0x02 2 = flags) ∧
    (epoch < 2 ^ 32 → fieldB l 0x04 4 = epoch) ∧ (arg < 2 ^ 32 → fieldB l 0x08 4 = arg) ∧ (seq < 2 ^ 16 → fieldB l 0x0C 2 = seq) ∧
    fieldB l 0x0E 2 = crc16 (l.take 14) := by
  have hfields : l = bytesLE 1 type ++ (bytesLE 1 (bit site) ++ (bytesLE 2 flags ++ (bytesLE 4 epoch ++ (bytesLE 4 arg ++ (bytesLE 2 seq ++
      (bytesLE 2 (crc16 (refBody type site flags epoch arg seq)) ++ [])))))) := by
    rw [hl]
    simp [refBytes, refBody]
  have hsite : bit site < 256 ^ 1 := (bit_lt_two site).trans (by decide)
  have hlen : l.length = 16 := by rw [hl, refBytes_length]
  have htake : l.take 14 = refBody type site flags epoch arg seq := by rw [hl, refBytes_take]
  rw [htake, hfields] at *
  refine ⟨hlen, fun h => ?_, ?_, fun h => ?_, fun h => ?_, fun h => ?_, fun h => ?_, ?_⟩
  · exact fieldB_head _ h
  · exact (fieldB_skip _ _ _ 0 _).trans (fieldB_head _ hsite)
  · rw [fieldB_skip _ _ _ 1, fieldB_skip _ _ _ 0]; exact fieldB_head _ h
  · rw [fieldB_skip _ _ _ 3, fieldB_skip _ _ _ 2, fieldB_skip _ _ _ 0]; exact fieldB_head _ h
  · rw [fieldB_skip _ _ _ 7, fieldB_skip _ _ _ 6, fieldB_skip _ _ _ 4, fieldB_skip _ _ _ 0]; exact fieldB_head _ h
  · rw [fieldB_skip _ _ _ 11, fieldB_skip _ _ _ 10, fieldB_skip _ _ _ 8, fieldB_skip _ _ _ 4, fieldB_skip _ _ _ 0]; exact fieldB_head _ h
  · rw [fieldB_skip _ _ _ 13, fieldB_skip _ _ _ 12, fieldB_skip _ _ _ 10, fieldB_skip _ _ _ 6, fieldB_skip _ _ _ 2, fieldB_skip _ _ _ 0]
    exact fieldB_head _ (crc16_lt _)

/-! ## The CRC of R331 -/

theorem crc16_append (l : List Byte) (b : Byte) : crc16 (l ++ [b]) = crc16Bit (crc16 l ^^^ (b.toNat * 256)) 8 := by
  simp [crc16]

theorem crc16Bit_succ (c k : Nat) :
    crc16Bit c (k + 1) = crc16Bit (if c.testBit 15 then (2 * c) % 2 ^ 16 ^^^ 0x1021 else (2 * c) % 2 ^ 16) k := by
  rw [crc16Bit, Nat.testBit_eq_decide_div_mod_eq]
  simp only [decide_eq_true_eq]

/-! ## Flags of a module (R332) -/

theorem testBit_pack_bit (b : Bool) (r : List (Nat × Nat)) (i : Nat) :
    (pack ((1, bit b) :: r)).testBit i = if i = 0 then b else (pack r).testBit (i - 1) := by
  rw [testBit_pack_cons]
  by_cases hi : i = 0
  · subst hi; exact testBit_bit_zero b
  · rw [if_neg (by omega), if_neg hi]

theorem refFlags_bits (s : State) : s.refFlags < 2 ^ 8 ∧ s.refFlags.testBit 0 = s.want ∧ s.refFlags.testBit 1 = s.imageEpoch.isSome ∧
    s.refFlags.testBit 2 = s.clk.pref ∧ s.refFlags.testBit 3 = s.faults.healthy ∧ s.refFlags.testBit 4 = s.pair.armed.isSome ∧
    s.refFlags.testBit 5 = s.drive.closed ∧ s.refFlags.testBit 6 = s.pair.extended ∧ s.refFlags.testBit 7 = s.pair.swapReq.isSome := by
  unfold State.refFlags
  refine ⟨pack_lt _, ?_⟩
  simp [testBit_pack_bit, -Nat.testBit_zero]

/-! ## Sending a frame -/

theorem refSend_out (s : State) (port : Bool) (type : Nat) (site : Bool) (flags epoch arg : Nat) :
    (s.refSend port type site flags epoch arg).host.out =
      s.host.out ++ [.refTx port type (refBytes type site flags epoch arg (s.refPort port).seqTx.toNat)] := by
  cases port <;> rfl

theorem refSend_seqTx (s : State) (port : Bool) (type : Nat) (site : Bool) (flags epoch arg : Nat) :
    ((s.refSend port type site flags epoch arg).refPort port).seqTx = (s.refPort port).seqTx + 1 := by
  cases port <;> rfl

theorem refValid_iff (type : Nat) (f : RefFrame) : refValid type f = true ↔
    f.check.toNat = crc16 ((refBytes type f.site f.flags.toNat f.epoch.toNat f.arg.toNat f.seq.toNat).take 14) := by
  rw [refBytes_take, refValid, decide_eq_true_iff]

/-- Settles O60: the fields are read back by `refBytes_layout`, the flags by `refFlags_bits`. -/
theorem refFrameLayout : Obligations.RefFrameLayout :=
  ⟨refBytes_layout, ⟨rfl, crc16_append, fun c _ k => crc16Bit_succ c k, fun _ => rfl⟩,
    fun s port type site flags epoch arg _ ht => ht ▸ ⟨refSend_out s port type site flags epoch arg, refSend_seqTx s port type site flags epoch arg⟩,
    refFlags_bits, refValid_iff⟩

end Sys2Proof.Machine
end

section
/-! Management datagrams (R362, R363, R467): the command that 64 bytes spell, and the four ways a datagram can go. -/

namespace Sys2Proof.Machine

/-! ## What a slot spells (R467) -/

/-- A word as wide as its fields together holds all of them. -/
theorem toNat_ofNat_pack {w : Nat} {l : List (Nat × Nat)} (h : (l.map Prod.fst).sum = w) : (BitVec.ofNat w (pack l)).toNat = pack l := by
  subst h
  rw [BitVec.toNat_ofNat, Nat.mod_eq_of_lt (pack_lt l)]

theorem slotWord_toNat (op : Nat) (m : MbCmd) : (slotWord op m).toNat =
    pack [(16, op), (8, m.length.toNat), (8, bit m.notify), (32, m.token.toNat), (64, m.bufAddr.toNat), (32, m.bufLength.toNat), (32, 0),
      (320, m.payload.toNat)] := by
  rw [slotWord, toNat_ofNat_pack (by simp)]

theorem slotOp_slotWord {op : Nat} (m : MbCmd) (h : op < 2 ^ 16) : slotOp (slotWord op m) = op := by
  rw [slotOp, slotWord_toNat, fld_pack_head, Nat.mod_eq_of_lt h]

/-- A field read, with at most its own width, at the offset that the widths before it add up to. -/
theorem fld_pack_at (pre r : List (Nat × Nat)) {w v n : Nat} (hv : v < 2 ^ n) (hn : n ≤ w) :
    fld (pack (pre ++ (w, v) :: r)) (pre.map Prod.fst).sum n = v := by
  induction pre with
  | nil =>
    have hf : fld (pack ((w, v) :: r)) 0 w = v := by rw [fld_pack_head, Nat.mod_eq_of_lt (hv.trans_le (Nat.pow_le_pow_right (by decide) hn))]
    exact (fld_narrow _ 0 w n (hf.trans_lt hv) hn).trans hf
  | cons e pre ih => exact (fld_pack_tail e.1 e.2 _ _ n).trans ih

theorem ofNat_fld_pack (pre r : List (Nat × Nat)) {w n : Nat} (x : BitVec n) (hn : n ≤ w) :
    BitVec.ofNat n (fld (pack (pre ++ (w, x.toNat) :: r)) (pre.map Prod.fst).sum n) = x := by
  rw [fld_pack_at pre r x.isLt hn, BitVec.ofNat_toNat, BitVec.setWidth_eq]

theorem slotCmd_slotWord (op : Nat) (m : MbCmd) : slotCmd m.src (slotWord op m) = m := by
  obtain ⟨src, length, notify, token, bufAddr, bufLength, payload⟩ := m
  unfold slotCmd
  rw [slotWord_toNat]
  congr 1
  · exact ofNat_fld_pack [(16, _)] _ length le_rfl
  · simp [tb, testBit_pack_cons, testBit_bit_zero, -Nat.testBit_zero]
  · exact ofNat_fld_pack [(16, _), (8, _), (8, _)] _ token le_rfl
  · exact ofNat_fld_pack [(16, _), (8, _), (8, _), (32, _)] _ bufAddr (by decide)
  · exact ofNat_fld_pack [(16, _), (8, _), (8, _), (32, _), (64, _)] _ bufLength (by decide)
  · exact ofNat_fld_pack [(16, _), (8, _), (8, _), (32, _), (64, _), (32, _), (32, _)] _ payload le_rfl

/-! ## Management datagrams (R362, R363) -/

section
variable {s : State} {port : Bool} {d : Datagram}

/-- A request on a port that is up and has an address, with the mailbox open, is looked at (R362, R437). -/
structure Heard (s : State) (port : Bool) (d : Datagram) : Prop where
  request : tb d.flags.toNat 0 = false
  address : s.hasAddress port = true
  up : (s.ptp port).up = true
  isOpen : s.sys.mailboxOpen = true

theorem datagram_unknown (h : Heard s port d) (hk : s.knowsClient d = false) :
    s.datagram port d = s.emit (.mgmtTx port d.client.toNat d.seq.toNat 1 0) := by
  simp [State.datagram, h.request, h.address, h.up, h.isOpen, hk]

theorem datagram_duplicate (h : Heard s port d) (hk : s.knowsClient d = true) {q : Nat} {r : BitVec 512}
    (hf : (rd s.pair.answered d.client.toNat []).find? (fun e => decide (e.1 = d.seq.toNat)) = some (q, r)) :
    s.datagram port d = s.emit (.mgmtTx port d.client.toNat d.seq.toNat 0 r) := by
  simp [State.datagram, h.request, h.address, h.up, h.isOpen, hk, hf]

/-- A sequence number that is neither kept nor that of a command that runs is refused as too old, or its body is performed. -/
theorem datagram_fresh (h : Heard s port d) (hk : s.knowsClient d = true)
    (hf : (rd s.pair.answered d.client.toNat []).find? (fun e => decide (e.1 = d.seq.toNat)) = none)
    (hrun : ∀ c ∈ s.sys.running, ∀ p, c.src ≠ .mgmt d.client d.seq p) (hheld : s.sys.held = []) :
    s.datagram port d = if tooOld (rd s.pair.answered d.client.toNat []) d.seq.toNat = true then
      s.emit (.mgmtTx port d.client.toNat d.seq.toNat 2 0) else opMeaning (slotOp d.body) (slotCmd (.mgmt d.client d.seq port) d.body) s := by
  unfold State.datagram
  simp only [h.request, h.address, h.up, h.isOpen, hk, hf, hheld, List.any_nil, Bool.or_false, Bool.not_true, Bool.false_eq_true, if_false]
  refine if_neg fun hany => ?_
  obtain ⟨c, hc, hsame⟩ := List.any_eq_true.mp hany
  split at hsame
  · rename_i k q p hsrc
    obtain ⟨rfl, rfl⟩ := of_decide_eq_true hsame
    exact hrun c hc p hsrc
  · exact Bool.false_ne_true hsame

end

/-- Settles O18: a datagram that is looked at is answered by `datagram_unknown` or `datagram_duplicate`, and else goes on by `datagram_fresh`;
its body spells the command by `slotCmd_slotWord`. -/
theorem datagramRunsCommand : Obligations.DatagramRunsCommand := by
  intro s port d hrequest haddress hup hopen
  have h : Heard s port d := ⟨hrequest, haddress, hup, hopen⟩
  refine ⟨fun hk => congrArg _ (datagram_unknown h hk), fun q r hk hf => congrArg _ (datagram_duplicate h hk hf),
    fun hk hf hrun hheld => ⟨fun hold => ?_, fun hnew i op m hi hsrc hbody => ?_⟩⟩
  · exact congrArg _ ((datagram_fresh h hk hf hrun hheld).trans (if_pos hold))
  · have hrun := (datagram_fresh h hk hf hrun hheld).trans (if_neg (by simp [hnew]))
    rw [exec_mailbox s i op m hi]
    refine congrArg _ (hrun.trans ?_)
    rw [hbody, slotOp_slotWord m (op_small i op m hi), ← hsrc, slotCmd_slotWord]

end Sys2Proof.Machine
end

section
/-! Leases on a module (R330, R332 to R334, R338, R342): the frames of the referee, GO, ISO, the end at E_m, the heartbeat and CLAIM. -/

namespace Sys2Proof.Machine

variable {s : State} {port : Bool} {f : RefFrame} {now : Nat}

/-! ## Frames of the referee (R332, R333) -/

/-- A port that the module does not serve, and a referee, take no frame of a referee (R329). -/
theorem exec_frame_unserved (h : s.refServed port = false ∨ s.referee = true) {c : Instr}
    (hc : c = .arm port f now ∨ c = .disarm port f now ∨ c = .renew port f now ∨ c = .refStatus port f now ∨ c = .go port now) :
    exec c s = .next (s.islandAt now) := by
  rcases hc with rfl | rfl | rfl | rfl | rfl
  · exact congrArg _ (fromRef_no s port tArm f now _ h)
  · exact congrArg _ (fromRef_no s port tDisarm f now _ h)
  · exact congrArg _ (fromRef_no s port tRenew f now _ h)
  · exact congrArg _ (fromRef_no s port tRefStatus f now _ h)
  · exact if_pos (by rw [served_not h, Bool.true_or])

section
variable (hserved : s.refServed port = true) (href : s.referee = false)
include hserved href

theorem fromReferee_bad {type : Nat} (hbad : refValid type f = false) (act : State → State) :
    s.fromReferee port type f now act = (s.islandAt now).refBad port := by
  rw [fromRef_yes s port type f now act hserved href, hbad, if_neg Bool.false_ne_true]

theorem fromReferee_valid {type : Nat} (hvalid : refValid type f = true) (act : State → State) :
    s.fromReferee port type f now act = act ((s.islandAt now).refHeard port now) := by
  rw [fromRef_yes s port type f now act hserved href, if_pos hvalid]

theorem exec_frame_bad {c : Instr} {type : Nat} (hbad : refValid type f = false)
    (hc : (c = .arm port f now ∧ type = tArm) ∨ (c = .disarm port f now ∧ type = tDisarm) ∨ (c = .renew port f now ∧ type = tRenew) ∨
      (c = .refStatus port f now ∧ type = tRefStatus)) : exec c s = .next ((s.islandAt now).refBad port) := by
  rcases hc with ⟨rfl, rfl⟩ | ⟨rfl, rfl⟩ | ⟨rfl, rfl⟩ | ⟨rfl, rfl⟩ <;> exact congrArg _ (fromReferee_bad hserved href hbad _)

theorem exec_arm_valid (hvalid : refValid tArm f = true) {v : State} (hv : v = (s.islandAt now).refHeard port now) :
    exec (.arm port f now) s = .next (if v.isoOn || !v.linkUp then v else
      { v with pair := { v.pair with armed := some (f.epoch.toNat, f.arg.toNat, now), reportedArmed := false } }) := by
  subst hv
  exact congrArg _ (fromReferee_valid hserved href hvalid _)

theorem exec_disarm_valid (hvalid : refValid tDisarm f = true) {v : State} (hv : v = (s.islandAt now).refHeard port now) :
    exec (.disarm port f now) s = .next { v with pair := { v.pair with armed := none, reportedArmed := false } } := by
  subst hv
  exact congrArg _ (fromReferee_valid hserved href hvalid _)

theorem exec_refStatus_valid (hvalid : refValid tRefStatus f = true) {v : State} (hv : v = (s.islandAt now).refHeard port now) :
    exec (.refStatus port f now) s = .next (v.seeEpoch f.epoch.toNat) := by
  subst hv
  exact congrArg _ (fromReferee_valid hserved href hvalid _)

theorem exec_renew_valid (hvalid : refValid tRenew f = true) {v : State} (hv : v = (s.islandAt now).refHeard port now) :
    exec (.renew port f now) s =
      .next (if (v.pair.held && decide (f.epoch.toNat = v.pair.epoch) && (decide (now < v.pair.em) || v.pair.extended)) = true then
        { v with pair := { v.pair with em := now + f.arg.toNat - 33, len := f.arg.toNat, claimFrom := now, extended := false } }
      else v.seeEpoch f.epoch.toNat) := by
  subst hv
  exact congrArg _ (fromReferee_valid hserved href hvalid _)

theorem exec_renew_extends (hvalid : refValid tRenew f = true) {v : State} (hv : v = (s.islandAt now).refHeard port now)
    (hheld : v.pair.held = true) (hepoch : f.epoch.toNat = v.pair.epoch) (hem : now < v.pair.em ∨ v.pair.extended = true) :
    exec (.renew port f now) s = .next { v with pair := { v.pair with
      em := now + f.arg.toNat - 33, len := f.arg.toNat, claimFrom := now, extended := false } } := by
  rw [exec_renew_valid hserved href hvalid hv, if_pos (by simpa [hheld, hepoch] using hem)]

theorem exec_renew_ignored (hvalid : refValid tRenew f = true) {v : State} (hv : v = (s.islandAt now).refHeard port now)
    (h : v.pair.held = false ∨ f.epoch.toNat ≠ v.pair.epoch ∨ (v.pair.em ≤ now ∧ v.pair.extended = false)) :
    exec (.renew port f now) s = .next (v.seeEpoch f.epoch.toNat) := by
  rw [exec_renew_valid hserved href hvalid hv, if_neg]
  rcases h with h | h | ⟨hem, hext⟩
  · simp [h]
  · simp [h]
  · simp [hext, Nat.not_lt.mpr hem]

/-! ## GO (R338) -/

theorem exec_go_ignored (h : s.pair.held = true ∨ s.pair.armed = none) : exec (.go port now) s = .next (s.islandAt now) := by
  change execGo port now s = _
  unfold execGo
  rw [served_yes hserved href, Bool.false_or]
  split
  · rfl
  · rename_i hheld
    rw [h.resolve_left hheld]

theorem exec_go_armed {epoch len since : Nat} (hheld : s.pair.held = false) (harmed : s.pair.armed = some (epoch, len, since)) :
    exec (.go port now) s =
      if since + 1250 ≤ now ∧ s.linkUp = true ∧ s.want = true ∧ s.pair.hbFresh = true ∧ (s.mirrorUp = true → s.pair.reportedArmed = true) then
        .next ((s.islandAt now).startLease epoch len now) else .next (s.islandAt now) := by
  change execGo port now s = _
  unfold execGo
  rw [served_yes hserved href, hheld, harmed, Bool.false_or, if_neg Bool.false_ne_true]

theorem exec_statusSend_module : exec (.statusSend port now) s =
    .next ((s.islandAt now).refSend port tStatus s.clk.siteId s.refFlags s.refEpochOut 0) := by
  change execStatusSend port now s = _
  unfold execStatusSend
  rw [if_neg (by simp [hserved]), if_neg (by simp [href])]

end

/-! ## ISO (R334) -/

theorem isoLine_idle (h : s.island = false ∨ s.referee = true) (on : Bool) : s.isoLine port on = s :=
  if_pos (by rcases h with h | h <;> simp [h])

/-- A line that falls, stands already, or is not that of the selected port has only its level noted (R329). -/
theorem isoLine_quiet (hisland : s.island = true) (href : s.referee = false) {on : Bool}
    (h : on = false ∨ (s.refPort port).iso = true ∨ port ≠ s.pair.refB) :
    s.isoLine port on = s.setRefPort port { s.refPort port with iso := on } := by
  unfold State.isoLine
  rw [if_neg (by simp [hisland, href])]
  exact if_neg (by rcases h with h | h | h <;> simp [h])

theorem isoLine_acts (hisland : s.island = true) (href : s.referee = false) (hiso : (s.refPort port).iso = false) (hport : port = s.pair.refB) :
    s.isoLine port true = (s.setRefPort port { s.refPort port with iso := true }).isolate := by
  unfold State.isoLine
  rw [if_neg (by simp [hisland, href])]
  exact if_pos (by simp [hiso, ← hport])

theorem endLease_held (s : State) (lapse event : Bool) : (s.endLease lapse event).pair.held = false := by
  cases h : s.pair.held
  · rw [endLease_idle s lapse event h, h]
  · exact (endLease_spec s lapse event h).1

theorem endLease_refPort (s : State) (lapse event : Bool) (b : Bool) : (s.endLease lapse event).refPort b = s.refPort b := by
  cases h : s.pair.held
  · rw [endLease_idle s lapse event h]
  · obtain ⟨-, -, -, -, hport, -⟩ := endLease_spec s lapse event h
    exact hport b

/-- What ISO leaves (R334). -/
structure Isolates (s t : State) : Prop where
  held : t.pair.held = false
  armed : t.pair.armed = none
  port : ∀ b, t.refPort b = s.refPort b
  ended : s.pair.held = true → t.drive.closed = false ∧ t.pair.image = some s.pair.epoch
  enters : s.sys.mode ∉ [Mode.reset, .boot, .startupCal, .isolated] → TickOp.enter .isolated ∈ t.atTick

theorem isolate_spec (s : State) : Isolates s s.isolate := by
  unfold State.isolate
  extract_lets s1 src s2 s3
  have hclosed : s.pair.held = true → s1.drive.closed = false ∧ s1.pair.image = some s.pair.epoch := fun h => by
    obtain ⟨-, -, himage, hdrive, -, -⟩ := endLease_spec s false true h
    exact ⟨congrArg Drive.closed hdrive, himage⟩
  have h2 : s2.pair.held = false ∧ s2.pair.armed = none ∧ (∀ b, s2.refPort b = s.refPort b) ∧
      (s.pair.held = true → s2.drive.closed = false ∧ s2.pair.image = some s.pair.epoch) :=
    ⟨endLease_held s false true, rfl, fun b => endLease_refPort s false true b, hclosed⟩
  obtain ⟨e, g, h3⟩ : Told s2 s3 := State.raiseCore_told ..
  clear_value s3 s2
  subst h3
  obtain ⟨hheld, harmed, hport, hended⟩ := h2
  split
  · rename_i hmode
    exact ⟨hheld, harmed, hport, hended, fun hm => absurd (List.contains_iff_mem.mp hmode) hm⟩
  · exact ⟨hheld, harmed, hport, hended, fun _ => List.mem_append_right _ (List.mem_singleton.2 rfl)⟩

theorem isoLine_isolates (hisland : s.island = true) (href : s.referee = false) (hiso : (s.refPort port).iso = false)
    (hport : port = s.pair.refB) : (s.isoLine port true).pair.held = false ∧ (s.isoLine port true).pair.armed = none ∧
      ((s.isoLine port true).refPort port).iso = true ∧
      (s.pair.held = true → (s.isoLine port true).drive.closed = false ∧ (s.isoLine port true).pair.image = some s.pair.epoch) ∧
      (s.sys.mode ∉ [Mode.reset, .boot, .startupCal, .isolated] → TickOp.enter .isolated ∈ (s.isoLine port true).atTick) := by
  rw [isoLine_acts hisland href hiso hport]
  obtain ⟨-, -, -, -, -, hheld, hepoch, -, -, hsys⟩ := setRefPort_pair s port { s.refPort port with iso := true }
  have h := isolate_spec (s.setRefPort port { s.refPort port with iso := true })
  refine ⟨h.held, h.armed, ?_, fun hh => ?_, fun hm => h.enters (by rwa [hsys])⟩
  · rw [h.port, refPort_set]
  · rw [← hepoch]
    exact h.ended (hheld.trans hh)

/-! ## E_m (R338, R342) -/

theorem exec_leaseEnd_idle (h : s.island = false ∨ s.pair.held = false ∨ now < s.pair.em) : exec (.leaseEnd now) s = .next (s.islandAt now) :=
  if_pos (by rcases h with h | h | h <;> simp [h])

section
variable (hisland : s.island = true)
include hisland

theorem exec_leaseEnd_due (hheld : s.pair.held = true) (hem : s.pair.em ≤ now) : exec (.leaseEnd now) s =
    if (s.mayExtend && (s.pair.extended || !s.linkUp)) = true then
      .next (if s.pair.extended then s.islandAt now
        else ({ s.islandAt now with pair := { (s.islandAt now).pair with extended := true } } : State).raiseCore 62 .m)
    else .next ((s.islandAt now).endLease true true) :=
  if_neg (by simp [hisland, hheld, hem])

theorem exec_leaseEnd_extends (hheld : s.pair.held = true) (hem : s.pair.em ≤ now) (hmay : s.mayExtend = true) (hext : s.pair.extended = false)
    (hlink : s.linkUp = false) :
    ∃ t, exec (.leaseEnd now) s = .next t ∧ t.pair = { (s.islandAt now).pair with extended := true } ∧ t.drive = s.drive := by
  rw [exec_leaseEnd_due hisland hheld hem, if_pos (by simp [hmay, hlink]), hext, if_neg Bool.false_ne_true]
  obtain ⟨hpair, hdrive, -⟩ := told_pair (State.raiseCore_told
    ({ s.islandAt now with pair := { (s.islandAt now).pair with extended := true } } : State) 62 .m {})
  exact ⟨_, rfl, hpair, hdrive⟩

theorem exec_leaseEnd_ends (hheld : s.pair.held = true) (hem : s.pair.em ≤ now)
    (h : s.mayExtend = false ∨ (s.pair.extended = false ∧ s.linkUp = true)) : ∃ t, exec (.leaseEnd now) s = .next t ∧ t.pair.held = false ∧
      t.pair.image = some s.pair.epoch ∧ t.drive = { s.drive with closed := false, holding := false } ∧ TickOp.enter .standby ∈ t.atTick := by
  rw [exec_leaseEnd_due hisland hheld hem, if_neg (by rcases h with h | ⟨h, g⟩ <;> simp [*])]
  obtain ⟨hend, -, himage, hdrive, -, hdue⟩ := endLease_spec (s.islandAt now) true true hheld
  exact ⟨_, rfl, hend, himage, hdrive, hdue rfl⟩

/-! ## The heartbeat, the recovered clock and CLAIM (R338) -/

theorem exec_heartbeatStale : exec (.heartbeatStale now) s =
    .next ({ s.islandAt now with pair := { (s.islandAt now).pair with hbFresh := false } } : State).checkExtension :=
  if_neg (by simp [hisland])

theorem exec_heartbeatStale_kept (h : s.pair.held = false ∨ s.pair.extended = false) : exec (.heartbeatStale now) s =
    .next { s.islandAt now with pair := { (s.islandAt now).pair with hbFresh := false } } := by
  rw [exec_heartbeatStale hisland]
  exact congrArg _ (if_neg (by rcases h with h | h <;> simp [State.islandAt, h]))

/-- An extension does not outlast the heartbeat (R342). -/
theorem exec_heartbeatStale_ends (hheld : s.pair.held = true) (hext : s.pair.extended = true) :
    ∃ t, exec (.heartbeatStale now) s = .next t ∧ t.pair.held = false ∧ t.drive.closed = false := by
  have hmay : ({ s.islandAt now with pair := { (s.islandAt now).pair with hbFresh := false } } : State).mayExtend = false := Bool.and_false _
  rw [exec_heartbeatStale hisland, State.checkExtension, if_pos (by rw [hmay]; simp [State.islandAt, hheld, hext])]
  obtain ⟨hend, -, -, hdrive, -⟩ := endLease_spec
    ({ s.islandAt now with pair := { (s.islandAt now).pair with hbFresh := false } } : State) true true hheld
  exact ⟨_, rfl, hend, congrArg Drive.closed hdrive⟩

theorem exec_recoveredClockLoss : exec (.recoveredClockLoss now) s = .next (if s.pair.recovered then
    { s.islandAt now with pair := { (s.islandAt now).pair with
      recovered := false, em := if s.pair.held then s.pair.em - ceilDiv ((s.pair.em - now) * 100) 1000000 else s.pair.em } } else s.islandAt now) := by
  change execRecoveredClockLoss now s = _
  unfold execRecoveredClockLoss
  cases h : s.pair.recovered <;> simp [hisland]

theorem exec_claimSend_due (hheld : s.pair.held = true) (hfresh : s.pair.hbFresh = true) (hiso : s.isoOn = false)
    (hdue : s.pair.claimFrom + s.pair.len / 5 ≤ now) : exec (.claimSend now) s =
    if s.pair.solo = true then
      if now < s.pair.em then .next { s.islandAt now with pair := { (s.islandAt now).pair with em := now + s.pair.len - 33, claimFrom := now } }
      else .next (s.islandAt now)
    else .next (({ s.islandAt now with pair := { (s.islandAt now).pair with claimFrom := s.pair.claimFrom + s.pair.len / 5 } } : State).refSend
      s.pair.refB tClaim s.clk.siteId s.refFlags s.pair.epoch 0) :=
  if_neg (by simp [hisland, hheld, hfresh, hiso, Nat.not_lt.mpr hdue])

end

theorem exec_claimSend_idle (h : s.pair.held = false ∨ s.pair.hbFresh = false ∨ s.isoOn = true ∨ now < s.pair.claimFrom + s.pair.len / 5) :
    exec (.claimSend now) s = .next (s.islandAt now) :=
  if_pos (by rcases h with h | h | h | h <;> simp [h])

theorem exec_island_off (h : s.island = false) {c : Instr} (hc : c = .heartbeatStale now ∨ c = .recoveredClockLoss now ∨ c = .claimSend now) :
    exec c s = .next (s.islandAt now) := by
  rcases hc with rfl | rfl | rfl <;> exact if_pos (by simp [h])

end Sys2Proof.Machine

namespace Sys2Proof.Machine

/-- Settles O53: one lemma for each frame, event and case; GO rests on `startLease_spec`, every end of a lease on `endLease_spec`. -/
theorem leaseCommandsComplete : Obligations.LeaseCommandsComplete := by
  rintro s now _ rfl
  refine ⟨fun port f => ⟨fun h c hc => exec_frame_unserved h hc, fun h => ?idle, fun hisland href => ?iso, fun hserved href => ?served⟩,
    exec_leaseEnd_idle,
    fun hisland hheld hem => ⟨fun hmay hext => ?extended, exec_leaseEnd_extends hisland hheld hem, exec_leaseEnd_ends hisland hheld hem⟩,
    fun h c hc => exec_island_off h hc, exec_heartbeatStale_kept, exec_heartbeatStale_ends, exec_recoveredClockLoss, fun _ => exec_claimSend_idle,
    fun hisland hheld hfresh hiso hdue => ?claim⟩
  case idle => exact ⟨congrArg _ (isoLine_idle (s := s.islandAt now) h true), congrArg _ (isoLine_idle (s := s.islandAt now) h false)⟩
  case iso =>
    refine ⟨congrArg _ (isoLine_quiet (s := s.islandAt now) hisland href (.inl rfl)), fun h => ?_, fun hiso hport => ?_⟩
    · exact congrArg _ (isoLine_quiet (s := s.islandAt now) hisland href (.inr h))
    · exact ⟨_, rfl, isoLine_isolates (s := s.islandAt now) hisland href hiso hport⟩
  case served =>
    refine ⟨fun c type hc hbad => exec_frame_bad hserved href hbad hc, ?valid, exec_go_ignored hserved href, ?go, exec_statusSend_module hserved href⟩
    case valid =>
      intro v hv
      obtain ⟨hlast, hup⟩ := refHeard_port (s.islandAt now) port now
      exact ⟨hv ▸ hlast, hv ▸ hup, fun h => exec_arm_valid hserved href h hv, fun h => exec_disarm_valid hserved href h hv,
        fun h => exec_refStatus_valid hserved href h hv, fun h => exec_renew_extends hserved href h hv, fun h => exec_renew_ignored hserved href h hv⟩
    case go =>
      intro epoch len since hheld harmed ok hok
      rw [exec_go_armed hserved href hheld harmed]
      refine ⟨fun h => if_neg (mt hok.mpr h), fun h take htake => ⟨_, if_pos (hok.mp h), ?_⟩⟩
      exact startLease_spec (s.islandAt now) epoch len now take htake
  case extended => rw [exec_leaseEnd_due hisland hheld hem, if_pos (by simp [hmay, hext]), if_pos hext]
  case claim =>
    rw [exec_claimSend_due hisland hheld hfresh hiso hdue]
    refine ⟨fun hsolo => ?_, fun hsolo => if_neg (by simp [hsolo])⟩
    rw [if_pos hsolo]
    split <;> rfl

end Sys2Proof.Machine
end

section
/-! The referee (R333, R334, R336, R337): its start, the frames of the modules, arming and GO, the end of a lease; links that go down. -/

namespace Sys2Proof.Machine

variable {s : State} {now : Nat}

theorem exec_referee_off (h : s.referee = false ∨ s.island = false) {c : Instr} {f : RefFrame} {site : Bool}
    (hc : c = .refereeStart now ∨ c = .refereeStatusReceived f now ∨ c = .refereeClaim f now ∨ c = .refereeRelease site now ∨
      c = .refereeStatusDriving f now ∨ c = .refereeExpiry now) : exec c s = .next (s.islandAt now) := by
  rcases hc with rfl | rfl | rfl | rfl | rfl | rfl
  · exact if_pos (by rcases h with h | h <;> simp [h])
  · exact congrArg _ (hear_no s tStatus f now _ h)
  · exact congrArg _ (hear_no s tClaim f now _ h)
  · exact if_neg (by rcases h with h | h <;> simp [h])
  · exact congrArg _ (hear_no s tStatus f now _ h)
  · exact if_neg (by rcases h with h | h <;> simp [h])

/-! ## The start (R336) -/

theorem exec_refereeStart_ready (h : s.pair.refReady = true) : exec (.refereeStart now) s = .next (s.islandAt now) :=
  if_pos (by simp [h])

/-! ## What the referee notes of a module (R337) -/

/-- The referee after a valid frame of a module: the link counted, FLAGS and EPOCH of the site noted. -/
def State.moduleHeard (s : State) (f : RefFrame) (now : Nat) : State :=
  let v := (s.islandAt now).refHeard f.site now
  v.setRefPort f.site { v.refPort f.site with flags := f.flags, epoch := f.epoch.toNat, seen := true }

/-- What hearing a module leaves of what the referee keeps of leases. -/
theorem moduleHeard_pair (s : State) (f : RefFrame) (now : Nat) :
    (s.moduleHeard f now).pair.refHolder = s.pair.refHolder ∧ (s.moduleHeard f now).pair.refX = s.pair.refX ∧
      (s.moduleHeard f now).pair.refEpoch = s.pair.refEpoch ∧ (s.moduleHeard f now).pair.refReady = s.pair.refReady ∧
      (s.moduleHeard f now).pair.refEnd = s.pair.refEnd := by
  obtain ⟨hholder, hx, hepoch, hready, hend⟩ := refHeard_pair (s.islandAt now) f.site now
  unfold State.moduleHeard
  extract_lets v
  obtain ⟨gholder, gx, gepoch, gready, gend, -⟩ := setRefPort_pair v f.site
    { v.refPort f.site with flags := f.flags, epoch := f.epoch.toNat, seen := true }
  exact ⟨gholder.trans hholder, gx.trans hx, gepoch.trans hepoch, gready.trans hready, gend.trans hend⟩

/-- A site drives that is not the holder, while the other one holds or 4 µs after the end of its own lease (R337). -/
def State.strayDriver (s : State) (f : RefFrame) (now : Nat) : Bool :=
  tb f.flags.toNat 5 && decide (s.pair.refHolder ≠ some f.site) &&
    (s.pair.refHolder.isSome || (match find? s.pair.refEnd (bit f.site) with | some e => decide (e + 250 ≤ now) | none => false))

theorem strayDriver_iff (s : State) (f : RefFrame) (now : Nat) : s.strayDriver f now = true ↔
    tb f.flags.toNat 5 = true ∧ s.pair.refHolder ≠ some f.site ∧
      (s.pair.refHolder.isSome = true ∨ ∃ e, find? s.pair.refEnd (bit f.site) = some e ∧ e + 250 ≤ now) := by
  unfold State.strayDriver
  cases find? s.pair.refEnd (bit f.site) <;> simp [and_assoc]

theorem moduleHeard_strayDriver (s : State) (f : RefFrame) (now : Nat) : (s.moduleHeard f now).strayDriver f now = s.strayDriver f now := by
  obtain ⟨hholder, -, -, -, hend⟩ := moduleHeard_pair s f now
  unfold State.strayDriver
  rw [hholder, hend]

section
variable (href : s.referee = true) (hisland : s.island = true)
include href hisland

theorem exec_refereeStart (h : s.pair.refReady = false) {both : Prop} (hboth : both ↔ (s.pair.portA.up = true ∧ s.pair.portB.up = true ∧
      s.pair.portA.upSince + 1875 ≤ now ∧ s.pair.portB.upSince + 1875 ≤ now)) :
    (¬ both ∧ now < s.pair.refSince + 6250 → exec (.refereeStart now) s = .next (s.islandAt now)) ∧
    (both ∨ s.pair.refSince + 6250 ≤ now → exec (.refereeStart now) s = .next { s.islandAt now with pair := { (s.islandAt now).pair with
      refReady := true, refEpoch := max (if s.pair.portA.seen then s.pair.portA.epoch else 0) (if s.pair.portB.seen then s.pair.portB.epoch else 0) } }) := by
  have hlinks : (s.pair.portA.up && s.pair.portB.up &&
      decide (s.pair.portA.upSince + 1875 ≤ now ∧ s.pair.portB.upSince + 1875 ≤ now)) = true ↔ both := by
    simp [hboth, and_assoc]
  have hon : ¬ (!s.referee || !s.island || s.pair.refReady) = true := by simp [href, hisland, h]
  refine ⟨fun ⟨hnot, hearly⟩ => (if_neg hon).trans (if_neg ?_), fun hstart => (if_neg hon).trans (if_pos ?_)⟩
  · rw [Bool.or_eq_true, hlinks, decide_eq_true_eq]
    exact fun hc => hc.elim hnot (Nat.not_le.mpr hearly)
  · rwa [Bool.or_eq_true, hlinks, decide_eq_true_eq]

/-! ## Frames of the modules (R333, R337) -/

variable {f : RefFrame}

theorem refereeHear_bad {type : Nat} (hbad : refValid type f = false) (act : State → State) :
    s.refereeHear type f now act = (s.islandAt now).refBad f.site := by
  rw [hear_yes s type f now act href hisland, hbad, if_neg Bool.false_ne_true]

theorem refereeHear_valid {type : Nat} (hvalid : refValid type f = true) (act : State → State) :
    s.refereeHear type f now act = (act (s.moduleHeard f now)).refereeWatch := by
  rw [hear_yes s type f now act href hisland, if_pos hvalid]
  rfl

theorem exec_refereeStatusDriving (hvalid : refValid tStatus f = true) : exec (.refereeStatusDriving f now) s = .next
    (if s.strayDriver f now = true then (s.moduleHeard f now).refereeIso f.site true else s.moduleHeard f now).refereeWatch := by
  rw [← moduleHeard_strayDriver]
  exact congrArg _ (refereeHear_valid href hisland hvalid _)

theorem exec_refereeClaim (hvalid : refValid tClaim f = true) :
    exec (.refereeClaim f now) s = .next (State.refereeWatch
      (if (!s.pair.refReady || decide (f.epoch.toNat ≠ s.pair.refEpoch)) = true then s.moduleHeard f now
       else if s.pair.refHolder = some f.site then
        (if now + 250 ≤ s.pair.refX then (s.moduleHeard f now).refereeRenew f.site now else s.moduleHeard f now)
       else if (s.pair.refHolder.isNone && tb f.flags.toNat 5) = true then (s.moduleHeard f now).refereeRenew f.site now
       else s.moduleHeard f now)) := by
  obtain ⟨hholder, hx, hepoch, hready, -⟩ := moduleHeard_pair s f now
  rw [← hholder, ← hx, ← hepoch, ← hready]
  exact congrArg _ (refereeHear_valid href hisland hvalid _)

theorem exec_refereeClaim_renews (hvalid : refValid tClaim f = true) (hready : s.pair.refReady = true) (hepoch : f.epoch.toNat = s.pair.refEpoch)
    (h : (s.pair.refHolder = some f.site ∧ now + 250 ≤ s.pair.refX) ∨ (s.pair.refHolder = none ∧ tb f.flags.toNat 5 = true)) :
    exec (.refereeClaim f now) s = .next ((s.moduleHeard f now).refereeRenew f.site now).refereeWatch := by
  rw [exec_refereeClaim href hisland hvalid, if_neg (by simp [hready, hepoch])]
  rcases h with ⟨hholder, hx⟩ | ⟨hholder, hdriving⟩
  · rw [if_pos hholder, if_pos hx]
  · rw [hholder, if_neg (by simp), if_pos (by simp [hdriving])]

theorem exec_refereeClaim_ignored (hvalid : refValid tClaim f = true)
    (h : s.pair.refReady = false ∨ f.epoch.toNat ≠ s.pair.refEpoch ∨ (s.pair.refHolder = some f.site ∧ s.pair.refX < now + 250) ∨
      (s.pair.refHolder = none ∧ tb f.flags.toNat 5 = false) ∨ s.pair.refHolder = some (!f.site)) :
    exec (.refereeClaim f now) s = .next (s.moduleHeard f now).refereeWatch := by
  rw [exec_refereeClaim href hisland hvalid]
  split
  · rfl
  · rename_i hnamed
    simp only [Bool.or_eq_true, Bool.not_eq_true', decide_eq_true_eq, not_or] at hnamed
    obtain ⟨hready, hepoch⟩ := hnamed
    rcases (h.resolve_left hready).resolve_left hepoch with ⟨hholder, hx⟩ | ⟨hholder, hdriving⟩ | hother
    · rw [if_pos hholder, if_neg (Nat.not_le.mpr hx)]
    · rw [hholder, if_neg (by simp), if_neg (by simp [hdriving])]
    · rw [hother, if_neg (by cases f.site <;> simp), if_neg (by simp)]

/-! ## The end of a lease (R337) -/

theorem exec_refereeRelease (site : Bool) : exec (.refereeRelease site now) s =
    .next (if s.pair.refHolder = some site then ((s.islandAt now).refereeFree now).refereeWatch else s.islandAt now) := by
  change execRefereeRelease site now s = _
  unfold execRefereeRelease
  by_cases h : s.pair.refHolder = some site <;> simp [href, hisland, h]

theorem exec_refereeExpiry : exec (.refereeExpiry now) s = .next (if s.pair.refHolder.isSome = true ∧ s.pair.refX ≤ now then
    ((s.islandAt now).refereeFree s.pair.refX).refereeWatch else s.islandAt now) := by
  change execRefereeExpiry now s = _
  unfold execRefereeExpiry
  by_cases h : s.pair.refHolder.isSome = true ∧ s.pair.refX ≤ now
  · rw [if_pos h, if_pos (by simp [href, hisland, h])]
  · rw [if_neg h, if_neg (by simpa [href, hisland] using h)]

end

/-! ## Arming and GO (R337) -/

section
variable {v : State} (hv : v = (s.islandAt now).refereeWatch)
include hv

theorem exec_refereeArm_idle (h : s.referee = false ∨ s.island = false ∨ s.pair.refReady = false ∨ v.pair.refArmed.isSome = true ∨
    v.refereeChoice = none) : exec (.refereeArm now) s = .next v := by
  change execRefereeArm now s = _
  unfold execRefereeArm
  rw [← hv]
  dsimp only
  split
  · rfl
  · rename_i hmay
    simp only [Bool.or_eq_true, Bool.not_eq_true', not_or] at hmay
    obtain ⟨⟨⟨href, hisland⟩, hready⟩, harmed⟩ := hmay
    rw [(((h.resolve_left href).resolve_left hisland).resolve_left hready).resolve_left harmed]

theorem exec_refereeArm {site : Bool} (href : s.referee = true) (hisland : s.island = true) (hready : s.pair.refReady = true)
    (harmed : v.pair.refArmed = none) (hchoice : v.refereeChoice = some site) : exec (.refereeArm now) s =
      .next (({ v with pair := { v.pair with refArmed := some (site, now + 90) } } : State).refSend site tArm site 0
        ((v.pair.refEpoch + 1) % 2 ^ 32) v.pair.refL) := by
  change execRefereeArm now s = _
  unfold execRefereeArm
  rw [← hv, if_neg (by simp [href, hisland, hready, harmed]), hchoice]

theorem exec_refereeGo_idle (h : s.referee = false ∨ s.island = false ∨ s.pair.refReady = false ∨ v.pair.refHolder.isSome = true ∨
    v.pair.refArmed = none ∨ ∃ site since, v.pair.refArmed = some (site, since) ∧ now < since + 1250) : exec (.refereeGo now) s = .next v := by
  change execRefereeGo now s = _
  unfold execRefereeGo
  rw [← hv]
  dsimp only
  split
  · rfl
  · rename_i site since harmed
    refine if_pos ?_
    rcases h with h | h | h | h | h | ⟨site', since', h, hearly⟩
    · simp [h]
    · simp [h]
    · simp [h]
    · simp [h]
    · rw [h] at harmed; cases harmed
    · rw [h] at harmed; cases harmed; simp [hearly]

theorem exec_refereeGo {site : Bool} {since : Nat} (href : s.referee = true) (hisland : s.island = true) (hready : s.pair.refReady = true)
    (hholder : v.pair.refHolder = none) (harmed : v.pair.refArmed = some (site, since)) (hdue : since + 1250 ≤ now) :
    exec (.refereeGo now) s = .next (({ v with pair := { v.pair with
      refEpoch := (v.pair.refEpoch + 1) % 2 ^ 32, refHolder := some site, refX := max (v.pair.refFree + 32) (now + 5) + v.pair.refL
      refArmed := none } } : State).emit (.refSymbol site)) := by
  change execRefereeGo now s = _
  unfold execRefereeGo
  rw [← hv]
  dsimp only
  rw [harmed]
  exact if_neg (by simp [href, hisland, hready, hholder, Nat.not_lt.mpr hdue])

end

/-! ## Links (R333) -/

section
variable {port : Bool}

theorem exec_statusSend_unserved (h : s.refServed port = false) : exec (.statusSend port now) s = .next (s.islandAt now) :=
  if_pos (by simp [h])

theorem exec_statusSend_referee (h : s.refServed port = true) (href : s.referee = true) : exec (.statusSend port now) s =
    .next ((s.islandAt now).refSend port tRefStatus port 0 s.pair.refEpoch (match s.pair.refHolder with | some h => bit h | none => 0xFF)) :=
  (if_neg (by simp [h])).trans (if_pos href)

theorem exec_refLinkDown_idle (h : s.refServed port = false ∨ (s.refPort port).up = false) : exec (.refLinkDown port now) s = .next (s.islandAt now) :=
  if_pos (by rcases h with h | h <;> simp [h])

/-- The link is down; a referee looks at its arming again, a module discards its ARM (R342). -/
theorem exec_refLinkDown (h : s.refServed port = true) (hup : (s.refPort port).up = true) : ∃ v : State, (v.refPort port).up = false ∧
    (v.refPort port).valid = 0 ∧ v.pair.held = s.pair.held ∧ v.drive = s.drive ∧ exec (.refLinkDown port now) s =
      .next (if s.referee then v.refereeWatch else { v with pair := { v.pair with armed := none, reportedArmed := false } }) := by
  obtain ⟨-, -, -, -, -, hheld, -, -, hdrive, -⟩ := setRefPort_pair (s.islandAt now) port { s.refPort port with up := false, valid := 0 }
  have htold := State.raiseCore_told ((s.islandAt now).setRefPort port { s.refPort port with up := false, valid := 0 }) 59 .m {}
  obtain ⟨hpair, htdrive, -⟩ := told_pair htold
  have hport := (refPort_told htold port).trans (refPort_set ..)
  refine ⟨_, by rw [hport], by rw [hport], by rw [hpair, hheld]; rfl, htdrive.trans hdrive, (if_neg (by simp [h, hup])).trans ?_⟩
  split <;> rfl

end

end Sys2Proof.Machine

namespace Sys2Proof.Machine

/-- Settles O54: one lemma for each event and case; what a frame heard leaves of the leases is `moduleHeard_pair`. -/
theorem refereeCommandsComplete : Obligations.RefereeCommandsComplete := by
  rintro s now _ rfl
  refine ⟨fun h c f site hc => exec_referee_off h hc, fun href hisland => ⟨fun both hboth => ?start, fun f hbad => ?bad, fun f hbad => ?badClaim,
    ?heard, exec_refereeRelease href hisland, exec_refereeExpiry href hisland⟩, fun v hv => ⟨exec_refereeArm_idle hv, fun site => exec_refereeArm hv,
    exec_refereeGo_idle hv, fun site since hr hi hready hholder harmed hdue => ?go⟩,
    fun port => ⟨fun h => ?unserved, fun h => ?down, exec_statusSend_referee, exec_refLinkDown⟩⟩
  case start =>
    cases hready : s.pair.refReady
    · obtain ⟨hwaits, hstarts⟩ := exec_refereeStart (now := now) href hisland hready hboth
      exact ⟨fun h => hwaits (h.resolve_left (by simp)), fun _ => hstarts⟩
    · exact ⟨fun _ => exec_refereeStart_ready hready, fun h => by cases h⟩
  case bad => exact ⟨congrArg _ (refereeHear_bad href hisland hbad _), congrArg _ (refereeHear_bad href hisland hbad _)⟩
  case badClaim => exact congrArg _ (refereeHear_bad href hisland hbad _)
  case heard =>
    rintro f _ _ rfl rfl
    obtain ⟨hholder, hx, hepoch, hready, -⟩ := moduleHeard_pair s f now
    refine ⟨hholder, hx, hepoch, hready, fun hvalid => ⟨congrArg _ (refereeHear_valid href hisland hvalid _), ?_⟩,
      fun hvalid => ⟨fun ⟨hr, he, hc⟩ => exec_refereeClaim_renews href hisland hvalid hr he hc, exec_refereeClaim_ignored href hisland hvalid⟩⟩
    rw [exec_refereeStatusDriving href hisland hvalid]
    split
    · rename_i hstray
      rw [if_pos ((strayDriver_iff s f now).mp hstray)]
      rfl
    · rename_i hstray
      rw [if_neg (mt (strayDriver_iff s f now).mpr hstray)]
      rfl
  case go => exact ⟨_, exec_refereeGo hv hr hi hready hholder harmed hdue, rfl, rfl⟩
  case unserved => exact ⟨exec_statusSend_unserved h, exec_refLinkDown_idle (.inl h)⟩
  case down => exact exec_refLinkDown_idle (.inr h)

end Sys2Proof.Machine
end

section
/-! Messages of the lease holder on the mirror link (R348, R350 to R354, R357): what a partner takes from each, and the installation of
drive image and loop set. -/

namespace Sys2Proof.Machine

variable {s u : State} {h : MirrorHdr}

/-! ## A module that is no partner -/

theorem exec_mirror_ignored (g : s.asPartner = false) {c : Instr}
    (hc : (∃ m, c = .mirrorFrame h m) ∨ (∃ m, c = .mirrorImpression h m) ∨ (∃ m, m.dom < 128 ∧ c = .mirrorRequest h m) ∨
      (∃ d i r, d < 128 ∧ c = .mirrorCompletion h d i r) ∨ (∃ l, c = .mirrorProof h l) ∨ (∃ n p, n < 4608 ∧ c = .mirrorPin h n p) ∨
      (∃ p o l, p < 512 ∧ o + l.length ≤ 4096 ∧ c = .mirrorPlate h p o l) ∨ (∃ f k l, k < 10 ∧ c = .mirrorImage h f k l) ∨
      (∃ f k l, k < 32 ∧ c = .mirrorLoopset h f k l) ∨ (∃ d, c = .mirrorResyncData h d) ∨ c = .mirrorBadCheck ∨
      (∃ d, c = .mirrorDelayEcho d)) : exec c s = .next s := by
  have hno : ∀ act, s.mirrorIn h act = s := fun act => mirrorIn_no s h act g
  rcases hc with ⟨m, rfl⟩ | ⟨m, rfl⟩ | ⟨m, hd, rfl⟩ | ⟨d, i, r, hd, rfl⟩ | ⟨l, rfl⟩ | ⟨n, p, hn, rfl⟩ | ⟨p, o, l, hp, hl, rfl⟩ |
    ⟨f, k, l, hk, rfl⟩ | ⟨f, k, l, hk, rfl⟩ | ⟨d, rfl⟩ | rfl | ⟨d, rfl⟩
  · exact congrArg _ (hno _)
  · exact congrArg _ (hno _)
  · exact (if_neg (by omega)).trans (congrArg _ (hno _))
  · exact (if_neg (by omega)).trans (congrArg _ (hno _))
  · exact congrArg _ (hno _)
  · exact (if_neg (by omega)).trans (congrArg _ (hno _))
  · exact (if_neg (by omega)).trans (congrArg _ (hno _))
  · exact (if_neg (by omega)).trans (congrArg _ (hno _))
  · exact (if_neg (by omega)).trans (congrArg _ (hno _))
  · exact congrArg _ (hno _)
  · exact congrArg _ (if_neg (by simp [g]))
  · exact congrArg _ (if_neg (by simp [g]))

/-! ## Messages of a partner's holder (R351, R352) -/

/-- A message of this header finds the state u, with SEQ and EPOCH noted and a resync started at a gap (R350, R353). -/
def Finds (s : State) (h : MirrorHdr) (u : State) : Prop := ∀ act, s.mirrorIn h act = act u

/-- What a FRAME message sets before the impression that it names (R351, R354, R455). -/
def State.frameNoted (u : State) (m : FrameMsg) : State :=
  { u with
    mirror := { u.mirror with
      lastFrame := some m, framesSeen := (m.frame :: u.mirror.framesSeen).take 4, silent := false, named := none,
      offset := tickOffset ((m.arrival : Int) - (u.mirror.delay : Int) - (u.clk.tickTime : Int)) }
    sys := { u.sys with holdLegacy := decide (m.mode = 11) || (decide (m.mode = 5) && u.sys.holdLegacy) } }

/-- The sequence number that a FRAME message leaves to the next impression. -/
def State.frameCounted (v : State) (m : FrameMsg) : State := { v with imp := { v.imp with seq := (m.seq.toNat + 1) % 2 ^ 32 } }

section
variable (ht : Finds s h u)
include ht

theorem exec_mirrorFrame (m : FrameMsg) : exec (.mirrorFrame h m) s = .next
    (if m.seq.toNat = 0xFFFFFFFF then u.frameNoted m
     else if 512 ≤ m.plate then (u.frameNoted m).frameCounted m
     else match ((u.frameNoted m).frameCounted m).mirror.impressions.find? (fun i => decide (i.plate = m.plate)) with
       | some i => ((u.frameNoted m).frameCounted m).applyNamedBy m i
       | none => { (u.frameNoted m).frameCounted m with mirror := { ((u.frameNoted m).frameCounted m).mirror with named := some m } }) := by
  have hlegacy : (decide (m.mode = 11) || (decide (m.mode = 5) && u.sys.holdLegacy)) =
      if m.mode = 11 then true else if m.mode = 5 then u.sys.holdLegacy else false := by
    by_cases h11 : m.mode = 11
    · simp [h11]
    · by_cases h5 : m.mode = 5 <;> simp [h11, h5]
  refine congrArg _ ((ht _).trans ?_)
  unfold State.frameNoted State.frameCounted
  rewrite [hlegacy]
  rfl

theorem exec_mirrorFrame_plain {m : FrameMsg} (hseq : m.seq.toNat = 0xFFFFFFFF) : exec (.mirrorFrame h m) s = .next (u.frameNoted m) := by
  rw [exec_mirrorFrame ht, if_pos hseq]

theorem exec_mirrorFrame_retry {m : FrameMsg} (hseq : m.seq.toNat ≠ 0xFFFFFFFF) (hplate : 512 ≤ m.plate) :
    exec (.mirrorFrame h m) s = .next ((u.frameNoted m).frameCounted m) := by
  rw [exec_mirrorFrame ht, if_neg hseq, if_pos hplate]

theorem exec_mirrorFrame_named {m : FrameMsg} (hseq : m.seq.toNat ≠ 0xFFFFFFFF) (hplate : m.plate < 512) {i : ImpressionMsg}
    (hi : ((u.frameNoted m).frameCounted m).mirror.impressions.find? (fun i => decide (i.plate = m.plate)) = some i) :
    exec (.mirrorFrame h m) s = .next (((u.frameNoted m).frameCounted m).applyNamedBy m i) := by
  rw [exec_mirrorFrame ht, if_neg hseq, if_neg (Nat.not_le.mpr hplate), hi]

theorem exec_mirrorFrame_waits {m : FrameMsg} (hseq : m.seq.toNat ≠ 0xFFFFFFFF) (hplate : m.plate < 512)
    (hi : ((u.frameNoted m).frameCounted m).mirror.impressions.find? (fun i => decide (i.plate = m.plate)) = none) :
    exec (.mirrorFrame h m) s =
      .next { (u.frameNoted m).frameCounted m with mirror := { ((u.frameNoted m).frameCounted m).mirror with named := some m } } := by
  rw [exec_mirrorFrame ht, if_neg hseq, if_neg (Nat.not_le.mpr hplate), hi]

theorem exec_mirrorImpression_named {m : ImpressionMsg} {f : FrameMsg} (hf : u.mirror.named = some f) (hplate : f.plate = m.plate) :
    exec (.mirrorImpression h m) s = .next (u.applyNamedBy f m) := by
  refine congrArg _ ((ht _).trans ?_)
  rw [hf]
  exact if_pos hplate

theorem exec_mirrorImpression_kept {m : ImpressionMsg} (hnot : ∀ f, u.mirror.named = some f → f.plate ≠ m.plate) :
    exec (.mirrorImpression h m) s = .next { u with mirror := { u.mirror with impressions := keepImpressions u.mirror.impressions m } } := by
  refine congrArg _ ((ht _).trans ?_)
  split
  · rename_i f hf
    exact if_neg (hnot f hf)
  · rfl

/-- The ring goes on behind the record, which is kept, and the request is granted no more (R351, R357). -/
theorem exec_mirrorCompletion {d : Nat} (hd : d < 128) (i : Nat) (r : BitVec 256) (hdrive : u.drive = s.drive) :
    ∃ t, exec (.mirrorCompletion h d i r) s = .next t ∧
      t.domain d = { u.domain d with cWrite := if i + 1 = 2 ^ (u.domain d).cK then 0 else i + 1
                                     cPhase := tb r.toNat 63 != decide (i + 1 = 2 ^ (u.domain d).cK) } ∧
      t.mirror.granted = u.mirror.granted.filter (fun q => !(decide (q.1.dom = d) && decide (dTag q.1.desc = fld r.toNat 0 32))) ∧
      (d, i, r) ∈ t.mirror.cpls ∧ t.drive = s.drive := by
  refine ⟨_, (if_neg (by omega)).trans (congrArg _ (ht _)), ?_, rfl, List.mem_append_right _ (List.mem_singleton.2 rfl), hdrive⟩
  refine (rd_wr u.sched.domains d d _ _).trans ((if_pos rfl).trans ?_)
  simp only [decide_eq_true_eq]

theorem exec_mirrorRequest {m : RequestMsg} (hd : m.dom < 128) : exec (.mirrorRequest h m) s = .next (u.takeRequest m) :=
  (if_neg (by omega)).trans (congrArg _ (ht _))

theorem exec_mirrorPin {n : Nat} (hn : n < 4608) (b : Option Bool) : exec (.mirrorPin h n b) s = .next (u.adoptPin n b) :=
  (if_neg (by omega)).trans (congrArg _ (ht _))

theorem exec_mirrorPlate {p o : Nat} {l : List Byte} (hp : p < 512) (hl : o + l.length ≤ 4096) :
    exec (.mirrorPlate h p o l) s = .next (u.portWrite 6 p o l none) :=
  (if_neg (by omega)).trans (congrArg _ (ht _))

theorem exec_mirrorImage (f : Nat) {k : Nat} (l : List Nat) (hk : k < 10) {v : State}
    (hv : v = match u.mirror.image with | some (g, _) => if g = f then u else u.dropImage | none => u) :
    exec (.mirrorImage h f k l) s = .next (State.trySwapReady { v with mirror := { v.mirror with
      image := some (f, wr (match v.mirror.image with | some (_, x) => x | none => []) k l) } }) := by
  subst hv
  exact (if_neg (by omega)).trans (congrArg _ (ht _))

theorem exec_mirrorLoopset (f : Nat) {k : Nat} (l : List Byte) (hk : k < 32) :
    exec (.mirrorLoopset h f k l) s = .next (State.trySwapReady { u with mirror := { u.mirror with
      loopset := some (f, wr (match u.mirror.loopset with | some (g, x) => if g = f then x else [] | none => []) k l) } }) :=
  (if_neg (by omega)).trans (congrArg _ (ht _))

end

/-! ## Resync (R353) -/

theorem startResync_captures (s : State) : s.startResync.mirror.image = none ∧ s.startResync.mirror.loopset = none := by
  obtain ⟨-, -, -, hmirror, -⟩ := told_rest (State.raise_told
    ({ s with mirror := { s.mirror with resync := true, ready := false, dropped := 0, image := none, loopset := none } } : State) 69 .m {})
  unfold State.startResync
  rw [hmirror]
  exact ⟨rfl, rfl⟩

theorem exec_mirrorBadCheck (g : s.asPartner = true) : exec .mirrorBadCheck s = .next s.startResync := congrArg _ (if_pos g)

theorem exec_mirrorDelayEcho (g : s.asPartner = true) (d : Nat) :
    exec (.mirrorDelayEcho d) s = .next { s with mirror := { s.mirror with delay := d } } := congrArg _ (if_pos g)

/-! ## Installation (R348, R352) -/

theorem atTickNow_later (h : s.clk.cycle ≠ 0) (o : TickOp) (f : State → State) : s.atTickNow o f = s.due o := if_neg h

theorem atTickNow_now (h : s.clk.cycle = 0) (o : TickOp) (f : State → State) : s.atTickNow o f = f s := if_pos h

theorem exec_imageInstall_now (h : s.clk.cycle = 0) : exec .imageInstall s = .next s.imageTick := congrArg _ (atTickNow_now h _ _)

theorem exec_loopsetInstall_now (h : s.clk.cycle = 0) : exec .loopsetInstall s = .next s.loopsetTick := congrArg _ (atTickNow_now h _ _)

theorem imageTick_idle (h : s.asPartner = false ∨ s.mirror.image = none) : s.imageTick = s := by
  unfold State.imageTick
  split
  · rfl
  · rename_i hpartner
    rw [h.resolve_left (by simpa using hpartner)]

theorem imageTick_due (g : s.asPartner = true) {f : Nat} {l : List (Nat × List Nat)} (h : s.mirror.image = some (f, l)) :
    s.imageTick = if s.clk.frame < f + 8 then s else if l.length = 10 then s.installImage f l else s.dropImage := by
  unfold State.imageTick
  rw [if_neg (by simp [g]), h]

theorem loopsetTick_idle (h : s.asPartner = false ∨ s.mirror.loopset = none) : s.loopsetTick = s := by
  unfold State.loopsetTick
  split
  · rfl
  · rename_i hpartner
    rw [h.resolve_left (by simpa using hpartner)]

theorem loopsetTick_due (g : s.asPartner = true) {f : Nat} {l : List (Nat × List Byte)} (h : s.mirror.loopset = some (f, l)) :
    s.loopsetTick = if s.clk.frame < f + (if s.pair.swapFrame = some f then 8 else 64) then s
      else if l.length = 32 then s.installLoopset l else { s with mirror := { s.mirror with loopset := none } } := by
  unfold State.loopsetTick
  rw [if_neg (by simp [g]), h]

end Sys2Proof.Machine

namespace Sys2Proof.Machine

/-- Settles O55: `mirrorIn_yes` says in which state a message finds a partner, then one lemma for each type of message and each capture. -/
theorem mirrorMessagesComplete : Obligations.MirrorMessagesComplete := by
  intro s h
  refine ⟨fun g c hc => exec_mirror_ignored g hc, fun g gap u0 u hgap hu0 hu => ?messages, fun g => ⟨?badCheck, exec_mirrorDelayEcho g⟩,
    fun hc => ⟨congrArg _ (atTickNow_later hc _ _), congrArg _ (atTickNow_later hc _ _)⟩, fun hc => ?installs⟩
  case messages =>
    subst hu0
    have ht : Finds s h u := fun act => mirrorIn_yes s u h act g gap hgap hu
    have hdrive : u.drive = s.drive := by
      rcases hu with ⟨-, rfl⟩ | ⟨-, rfl⟩
      · exact (startResync_spec _).2.2
      · rfl
    refine ⟨?frame, fun m => ⟨fun f => exec_mirrorImpression_named ht, exec_mirrorImpression_kept ht⟩, fun m hd => exec_mirrorRequest ht hd,
      fun d i r hd => exec_mirrorCompletion ht hd i r hdrive, fun l => congrArg _ (ht _), fun n b hn => exec_mirrorPin ht hn b,
      fun p o l hp hl => exec_mirrorPlate ht hp hl, fun f k l hk v hv => exec_mirrorImage ht f l hk hv, fun f k l hk => exec_mirrorLoopset ht f l hk,
      fun d => congrArg _ (ht _)⟩
    case frame =>
      rintro m v w rfl rfl
      exact ⟨exec_mirrorFrame_plain ht, exec_mirrorFrame_retry ht,
        fun hseq hplate => ⟨fun i hi => exec_mirrorFrame_named ht hseq hplate hi, fun hi => exec_mirrorFrame_waits ht hseq hplate hi⟩⟩
  case badCheck =>
    obtain ⟨hresync, hready, hdrive⟩ := startResync_spec s
    obtain ⟨himage, hloopset⟩ := startResync_captures s
    exact ⟨_, exec_mirrorBadCheck g, hresync, hready, himage, hloopset, hdrive⟩
  case installs =>
    rw [exec_imageInstall_now hc, exec_loopsetInstall_now hc]
    exact ⟨fun g => ⟨congrArg _ (imageTick_idle (.inl g)), congrArg _ (loopsetTick_idle (.inl g))⟩,
      fun g => ⟨fun hi => congrArg _ (imageTick_idle (.inr hi)), fun f l hi => congrArg _ (imageTick_due g hi),
        fun hl => congrArg _ (loopsetTick_idle (.inr hl)), fun f l hl => congrArg _ (loopsetTick_due g hl)⟩⟩

end Sys2Proof.Machine
end

section
/-! Mirror lanes, the status of the partner, and planned swaps (R342, R346 to R349, R353, R359, R360, R533): what ends a swap, what its
capture sends, and the handover. -/

namespace Sys2Proof.Machine

variable {s : State}

/-! ## The partner ceases to be ready (R346) -/

theorem partnerReady_of_silent (h : s.mirror.status = none) : s.partnerReady = false := by
  rw [State.partnerReady, h]

theorem partnerReady_of_status {m : StandbyMsg} (h : s.mirror.status = some m) (hready : m.ready = true) (harmed : m.armed = true)
    (ht : s.clk.ticks ≤ s.mirror.statusTick + 2) : s.partnerReady = true := by
  rw [State.partnerReady, h]
  simp [hready, harmed, ht]

theorem restartLoops_links (s : State) : s.restartLoops.pair = s.pair ∧ s.restartLoops.mirror = s.mirror := by
  unfold State.restartLoops
  refine List.foldlRecOn s.drives _ (motive := fun t : State => t.pair = s.pair ∧ t.mirror = s.mirror) ⟨rfl, rfl⟩ fun t ht i _ => ?_
  split
  · exact ht
  · split <;> exact ht

theorem swapWatch_of_none (h : s.pair.swap = none) : s.swapWatch = s := by
  unfold State.swapWatch
  rw [h]

theorem swapWatch_of_ready (h : s.pair.held = false ∨ s.partnerReady = true) : s.swapWatch = s := by
  unfold State.swapWatch
  split
  · rfl
  · exact if_pos (by rcases h with h | h <;> simp [h])

/-- A swap whose partner is not ready goes; the mirror link stays as it is in any case. -/
theorem swapWatch_spec (s : State) : s.swapWatch.mirror = s.mirror ∧
    (s.pair.held = true → s.partnerReady = false → s.swapWatch.pair.swap = none) := by
  unfold State.swapWatch
  split
  · rename_i hswap
    exact ⟨rfl, fun _ _ => hswap⟩
  · split
    · rename_i hkept
      exact ⟨rfl, fun hheld hready => by simp [hheld, hready] at hkept⟩
    · extract_lets src s1 s2
      have h2 : s2.mirror = s.mirror ∧ s2.pair.swap = none := by
        obtain ⟨hpair, hmirror⟩ := restartLoops_links s1
        simp only [s2, when]
        split
        · exact ⟨hmirror, congrArg Pair.swap hpair⟩
        · exact ⟨rfl, rfl⟩
      have spoke : ∀ {u v : State}, Spoke u v → u.mirror = s.mirror ∧ u.pair.swap = none → v.mirror = s.mirror ∧ (s.pair.held = true →
          s.partnerReady = false → v.pair.swap = none) := by
        rintro u v ⟨_, _, _, _, _, rfl⟩ hu
        exact ⟨hu.1, fun _ _ => hu.2⟩
      split
      · split
        · exact spoke (State.answer_spoke ..) h2
        · exact spoke (State.answer_spoke ..) h2
      · obtain ⟨hpair, -, -, hmirror, -⟩ := told_rest (State.raise_told ({ s2 with pair := { s2.pair with swapDeferred := true } } : State) 66 .m {})
        exact ⟨hmirror.trans h2.1, fun _ _ => (congrArg Pair.swap hpair).trans h2.2⟩

/-! ## Lanes (R342, R349, R353) -/

theorem exec_mirrorResyncEnd_idle (h : s.mirror.resync = false) : exec .mirrorResyncEnd s = .next s := congrArg _ (if_neg (by simp [h]))

theorem exec_mirrorResyncEnd (h : s.mirror.resync = true) : ∃ t, exec .mirrorResyncEnd s = .next t ∧
    t.mirror = { s.mirror with resync := false } ∧ t.drive = s.drive := by
  obtain ⟨-, hdrive, -, hmirror, -⟩ := told_rest (State.raise_told ({ s with mirror := { s.mirror with resync := false } } : State) 69 .m {})
  exact ⟨_, congrArg Host.Outcome.next (if_pos h), hmirror, hdrive⟩

theorem laneDown_of_both (h0 : s.mirror.lane0 = true) (h1 : s.mirror.lane1 = true) (lane : Bool) :
    s.laneDown lane = (s.laneOff lane).raise 67 .m := by
  unfold State.laneDown
  extract_lets m was other s1 src s2
  have hwas : was = true := by simp only [was, m]; split <;> assumption
  have hother : other = true := by simp only [other, m]; split <;> assumption
  rw [if_neg (by simp [hwas]), if_pos hother]
  rfl

/-- The last lane is down: the partner's status and the captures in arrival and in departure are gone (R349). -/
def State.linkOff (s : State) (lane : Bool) : State :=
  { s.laneOff lane with mirror := { (s.laneOff lane).mirror with
      ready := false, seqRx := none, status := none, statusPrev := none, image := none, loopset := none, imageOut := [], loopsetOut := [] } }

theorem laneDown_of_last (h : s.mirror.lane0 ≠ s.mirror.lane1) :
    s.laneDown s.mirror.lane1 = ((s.linkOff s.mirror.lane1).raise 68 .m).applyNamed.checkExtension.swapWatch := by
  unfold State.laneDown
  extract_lets m was other s1 src s2
  have hwas : was = true := by simp only [was, m, Bool.eq_not.mpr h]; split <;> simp_all
  have hother : other = false := by simp only [other, m, Bool.eq_not.mpr h]; split <;> simp_all
  rw [if_neg (by simp [hwas]), if_neg (by simp [hother])]
  rfl

theorem linkOff_mirrorUp (h : s.mirror.lane0 ≠ s.mirror.lane1) : (s.linkOff s.mirror.lane1).mirrorUp = false := by
  have hlane0 := Bool.eq_not.mpr h
  unfold State.linkOff State.laneOff State.mirrorUp
  cases hlane1 : s.mirror.lane1 <;> simp [hlane0, hlane1]

theorem linkOff_named (s : State) (lane : Bool) : (s.linkOff lane).mirror.named = s.mirror.named := by cases lane <;> rfl

theorem checkExtension_idle (h : s.pair.held = false ∨ s.pair.extended = false) : s.checkExtension = s :=
  if_neg (by rcases h with h | h <;> simp [h])

theorem applyNamed_of_none (h : s.mirror.named = none) : s.applyNamed = s := by
  unfold State.applyNamed
  rw [h]

/-- The last lane goes down with no impression to complete and no extension to end: a planned swap is all that ends. -/
theorem exec_mirrorLaneDown_last (hlanes : s.mirror.lane0 ≠ s.mirror.lane1) (hnamed : s.mirror.named = none)
    (hext : s.pair.held = false ∨ s.pair.extended = false) :
    ∃ t, exec (.mirrorLaneDown s.mirror.lane1) s = .next t ∧ t.mirrorUp = false ∧ t.mirror.ready = false ∧ t.mirror.status = none ∧
      t.mirror.image = none ∧ t.mirror.loopset = none ∧ t.drive.closed = s.drive.closed ∧ t.pair.held = s.pair.held ∧
      (s.pair.swap = none → t.pair = s.pair ∧ t.drive = s.drive) ∧ (s.pair.held = true → t.pair.swap = none) := by
  obtain ⟨hpair, hdrive, -, hlinks, -⟩ := told_rest (State.raise_told (s.linkOff s.mirror.lane1) 68 .m {})
  have hlast := laneDown_of_last hlanes
  generalize (s.linkOff s.mirror.lane1).raise 68 .m {} = u at hpair hdrive hlinks hlast
  -- the event leaves the pair and the link, so nothing but the swap is looked at
  rw [applyNamed_of_none (by rw [hlinks, linkOff_named, hnamed]), checkExtension_idle (by rw [hpair]; exact hext)] at hlast
  obtain ⟨hmirror, hswap⟩ := swapWatch_spec u
  rw [hlinks] at hmirror
  have hstill := State.swapWatch_still u
  refine ⟨_, congrArg Host.Outcome.next hlast, ?_, ?_, ?_, ?_, ?_, ?_, ?_, fun hnone => ?_, fun hheld => ?_⟩
  · rw [State.mirrorUp, hmirror]; exact linkOff_mirrorUp hlanes
  · rw [hmirror]; rfl
  · rw [hmirror]; rfl
  · rw [hmirror]; rfl
  · rw [hmirror]; rfl
  · exact (congrArg Still.closed hstill).trans (congrArg Drive.closed hdrive)
  · exact (congrArg Still.held hstill).trans (congrArg Pair.held hpair)
  · rw [swapWatch_of_none (by rw [hpair]; exact hnone)]
    exact ⟨hpair, hdrive⟩
  · exact hswap (by rw [hpair]; exact hheld) (partnerReady_of_silent (by rw [hlinks]; rfl))

theorem exec_mirrorLaneUp_off (h : s.clk.ethref = false) (lane : Bool) : exec (.mirrorLaneUp lane) s = .next s := if_pos (by simp [h])

theorem exec_mirrorLaneUp (h : s.clk.ethref = true) (lane : Bool) {v : State}
    (hv : v = { s with mirror := if lane then { s.mirror with lane1 := true } else { s.mirror with lane0 := true } }) :
    exec (.mirrorLaneUp lane) s = .next (if s.mirrorUp = false ∧ v.asPartner = true then v.startResync else v) := by
  refine (if_neg (by simp [h])).trans ?_
  subst hv
  simp only [Bool.and_eq_true, Bool.not_eq_true']

/-! ## The status of the partner (R342, R346) -/

theorem exec_standbyStatus_idle (h : s.paired = false ∨ s.pair.held = false ∨ s.mirrorUp = false) (hd : MirrorHdr) (m : StandbyMsg) :
    exec (.standbyStatus hd m) s = .next s := if_pos (by rcases h with h | h | h <;> simp [h])

/-- The status noted; `fresh`, that the partner has become not READY, asks for a resync (R353). -/
def State.statusNoted (s : State) (m : StandbyMsg) (fresh : Bool) : State :=
  { s with mirror := { s.mirror with
      status := some m, statusPrev := if s.clk.ticks ≤ s.mirror.statusTick + 1 then s.mirror.status else none, statusTick := s.clk.ticks,
      statusLast := some m, statusFrame := s.clk.frame, resyncOut := s.mirror.resyncOut || fresh } }

/-- A status that is READY and ARMED, or comes without a swap, ends neither a swap nor a lease that is not extended. -/
theorem statusNoted_watched {m : StandbyMsg} (fresh : Bool) (hext : s.pair.extended = false)
    (h : s.pair.swap = none ∨ (m.ready = true ∧ m.armed = true)) : (s.statusNoted m fresh).checkExtension.swapWatch = s.statusNoted m fresh := by
  rw [checkExtension_of_not_extended (s := s.statusNoted m fresh) hext]
  rcases h with h | ⟨hready, harmed⟩
  · exact swapWatch_of_none h
  · exact swapWatch_of_ready (.inr (partnerReady_of_status rfl hready harmed (Nat.le_add_right _ 2)))

/-- The partner becomes not READY with this status. -/
def State.ceasesReady (s : State) (m : StandbyMsg) : Bool :=
  match s.mirror.status with | some x => x.ready && !m.ready | none => !m.ready

/-- SWAP_REQ is set in this status and was not before. -/
def State.asksAnew (s : State) (m : StandbyMsg) : Bool :=
  m.swapReq && (match s.mirror.status with | some x => !x.swapReq | none => true)

theorem ceasesReady_iff (s : State) (m : StandbyMsg) :
    s.ceasesReady m = true ↔ m.ready = false ∧ ∀ x, s.mirror.status = some x → x.ready = true := by
  unfold State.ceasesReady
  cases s.mirror.status <;> simp [and_comm]

theorem asksAnew_iff (s : State) (m : StandbyMsg) :
    s.asksAnew m = true ↔ m.swapReq = true ∧ ∀ x, s.mirror.status = some x → x.swapReq = false := by
  unfold State.asksAnew
  cases s.mirror.status <;> simp

theorem exec_standbyStatus (hpaired : s.paired = true) (hheld : s.pair.held = true) (hup : s.mirrorUp = true) (hd : MirrorHdr) {m : StandbyMsg}
    {w : State} (hw : w = (s.statusNoted m (s.ceasesReady m)).checkExtension.swapWatch) :
    exec (.standbyStatus hd m) s = .next (if (s.asksAnew m && w.pair.held && w.pair.swap.isNone) = true then w.startSwap none false else w) := by
  subst hw
  exact if_neg (by simp [hpaired, hheld, hup])

/-! ## The swap frame (R348) -/

theorem exec_swapCapture_idle (h : s.pair.held = false ∨ s.pair.swapCaptured = true ∨ s.pair.swapFrame ≠ some s.clk.frame) :
    exec .swapCapture s = .next s := if_neg (by rcases h with h | h | h <;> simp [h])

/-- A message sent leaves the pair, the drive channels and the segments that are still to be sent. -/
structure KeepsSegments (s t : State) : Prop where
  pair : t.pair = s.pair
  drive : t.drive = s.drive
  imageOut : t.mirror.imageOut = s.mirror.imageOut
  loopsetOut : t.mirror.loopsetOut = s.mirror.loopsetOut

theorem KeepsSegments.refl (s : State) : KeepsSegments s s := ⟨rfl, rfl, rfl, rfl⟩

theorem KeepsSegments.trans {s t u : State} (h : KeepsSegments s t) (g : KeepsSegments t u) : KeepsSegments s u :=
  ⟨g.pair.trans h.pair, g.drive.trans h.drive, g.imageOut.trans h.imageOut, g.loopsetOut.trans h.loopsetOut⟩

theorem mirrorSend_segments (s : State) (type : Nat) (p : List Byte) : KeepsSegments s (s.mirrorSend type p) := by
  unfold State.mirrorSend State.mirrorTx
  split
  · split <;> exact ⟨rfl, rfl, rfl, rfl⟩
  · exact .refl s

theorem sendAll_segments (type : Nat) (l : List (List Byte)) (s : State) : KeepsSegments s (l.foldl (fun t p => t.mirrorSend type p) s) :=
  List.foldlRecOn l _ (motive := KeepsSegments s) (.refl s) fun _ h p _ => h.trans (mirrorSend_segments _ type p)

/-- The segments that leave in a frame are taken from what is still to be sent. -/
theorem sendCaptures_spec (s : State) : s.sendCaptures.pair = s.pair ∧ s.sendCaptures.drive = s.drive ∧
    s.sendCaptures.mirror.imageOut = s.mirror.imageOut.drop 2 ∧
    s.sendCaptures.mirror.loopsetOut = s.mirror.loopsetOut.drop (if s.pair.swapCaptured then 5 else 1) := by
  unfold State.sendCaptures
  extract_lets n m s1
  obtain ⟨hpair, hdrive, himage, hloopset⟩ := (sendAll_segments 0x07 (m.imageOut.take 2) s1).trans (sendAll_segments 0x08 (m.loopsetOut.take n) _)
  exact ⟨hpair, hdrive, himage, hloopset⟩

theorem exec_swapCapture (hheld : s.pair.held = true) (hcaptured : s.pair.swapCaptured = false) (hframe : s.pair.swapFrame = some s.clk.frame) :
    ∃ t, exec .swapCapture s = .next t ∧
      t = ({ s with pair := { s.pair with swapCaptured := true } } : State).captureImage.captureLoopset.sendCaptures ∧
      t.pair = { s.pair with swapCaptured := true } ∧ t.drive = s.drive ∧ t.mirror.imageOut.length = 8 ∧ t.mirror.loopsetOut.length = 27 := by
  obtain ⟨hpair, hdrive, himage, hloopset⟩ :=
    sendCaptures_spec ({ s with pair := { s.pair with swapCaptured := true } } : State).captureImage.captureLoopset
  refine ⟨_, if_pos (by simp [hheld, hcaptured, hframe]), rfl, hpair, hdrive, ?_, ?_⟩
  · rw [himage]; rfl
  · rw [hloopset]; rfl

theorem exec_swapReady (hd : MirrorHdr) (frame : Nat) : exec (.swapReady hd frame) s =
    .next (if s.pair.held = true ∧ s.pair.swapCaptured = true ∧ s.pair.swapFrame = some frame then
      { s with pair := { s.pair with swapReady := true } } else s) := by
  change execSwapReady hd frame s = _
  unfold execSwapReady
  simp only [Bool.and_eq_true, decide_eq_true_eq, and_assoc]

/-! ## The handover (R348) -/

theorem exec_swapHandover_idle (h : s.pair.swapFrame = none ∨ s.pair.swap = none ∨ s.pair.held = false ∨ s.pair.swapCaptured = false ∨
    s.pair.swapReady = false ∨ s.partnerReady = false ∨ (∃ f, s.pair.swapFrame = some f ∧ s.clk.frame < f + 8)) :
    exec .swapHandover s = .next s := by
  change execSwapHandover s = _
  unfold execSwapHandover
  split
  · rename_i f a c standby hframe hswap
    refine if_neg ?_
    rcases h with h | h | h | h | h | h | ⟨f', h, hearly⟩
    · rw [h] at hframe; cases hframe
    · rw [h] at hswap; cases hswap
    · simp [h]
    · simp [h]
    · simp [h]
    · simp [h]
    · rw [h] at hframe; cases hframe; simp [hearly]
  · rfl

theorem sendRelease_keeps (s : State) : s.sendRelease.pair = s.pair ∧ s.sendRelease.drive = s.drive := by
  unfold State.sendRelease
  split <;> exact ⟨rfl, rfl⟩

/-- The end of the handover: the partner's status is forgotten, and Standby follows at the next tick. -/
def State.handedOver (s : State) : State :=
  ({ s with mirror := { s.mirror with imageAt := some s.clk.frame, loopsetAt := some s.clk.frame, status := none, statusPrev := none,
                                      seqRx := none, image := none, loopset := none } } : State).due (.enter .standby)

/-- The request that the handover completes: SET_MODE with Standby, PAIR_SWAP at the next tick (R432, R533). -/
def State.swapDone (s : State) (c : Option CmdRef) (standby : Bool) : State :=
  match c with
  | some c => if standby then s.due (.modeDone c) else s.answerDue c stOk []
  | none => s

theorem swapDone_due (s : State) (c : Option CmdRef) (standby : Bool) : s.swapDone c standby = s ∨ ∃ o, s.swapDone c standby = s.due o := by
  unfold State.swapDone
  split
  · split <;> exact .inr ⟨_, rfl⟩
  · exact .inl rfl

theorem exec_swapHandover {f a : Nat} {c : Option CmdRef} {standby : Bool} (hframe : s.pair.swapFrame = some f)
    (hswap : s.pair.swap = some (a, c, standby)) (hheld : s.pair.held = true) (hcaptured : s.pair.swapCaptured = true)
    (hready : s.pair.swapReady = true) (hpartner : s.partnerReady = true) (hdue : f + 8 ≤ s.clk.frame) :
    ∃ t, exec .swapHandover s = .next t ∧ t.pair.held = false ∧ t.pair.image = some s.pair.epoch ∧
      t.drive = { s.drive with closed := false, holding := false } ∧ t.mirror.status = none ∧ TickOp.enter .standby ∈ t.atTick := by
  have hstep : exec .swapHandover s = .next
      ((({ s with pair := { s.pair with swap := none } } : State).sendRelease.endLease false true).handedOver.swapDone c standby) := by
    change execSwapHandover s = _
    unfold execSwapHandover
    rw [hframe, hswap]
    exact if_pos (by simp [hheld, hpartner, hcaptured, hready, hdue])
  obtain ⟨hpair, hdrive⟩ := sendRelease_keeps ({ s with pair := { s.pair with swap := none } } : State)
  obtain ⟨hend, -, himage, hopen, -⟩ := endLease_spec
    (({ s with pair := { s.pair with swap := none } } : State).sendRelease) false true (by rw [hpair]; exact hheld)
  rw [hpair] at himage
  rw [hdrive] at hopen
  generalize ({ s with pair := { s.pair with swap := none } } : State).sendRelease.endLease false true = v at hstep hend himage hopen
  have henter : TickOp.enter .standby ∈ v.handedOver.atTick := List.mem_append_right _ (List.mem_singleton.2 rfl)
  refine ⟨_, hstep, ?_⟩
  rcases swapDone_due v.handedOver c standby with hdone | ⟨o, hdone⟩
  · rw [hdone]
    exact ⟨hend, himage, hopen, rfl, henter⟩
  · rw [hdone]
    exact ⟨hend, himage, hopen, rfl, side_atTick_due _ _ _ henter⟩

/-! ## Time limits and requests of the module (R347, R359, R360, R533) -/

theorem exec_swapTimeout_idle (hswap : s.pair.swap = none) (hreq : ∀ a c, s.pair.swapReq ≠ some (a, some c)) : exec .swapTimeout s = .next s := by
  change execSwapTimeout s = _
  unfold execSwapTimeout
  split
  · rename_i h
    rw [hswap] at h; cases h
  · rename_i h
    exact absurd h (hreq _ _)
  · rfl

theorem exec_swapTimeout_swap {a : Nat} {c : Option CmdRef} {standby : Bool} (hswap : s.pair.swap = some (a, c, standby)) {v : State}
    (hv : v = { s with pair := { s.pair with swap := none, swapFrame := none, swapRequested := false } }) :
    exec .swapTimeout s = if s.clk.frame < a + 500000 ∨ s.pair.swapCaptured = true then .next s
      else .next (match (generalizing := false) c with
        | some c => v.answer c stTimeout (if standby then [(0, s.sys.mode.num), (1, s.sys.target.num)] else [])
        | none => v) := by
  subst hv
  change execSwapTimeout s = _
  unfold execSwapTimeout
  rewrite [hswap]
  rfl

theorem exec_swapTimeout_request {a : Nat} {c : CmdRef} (hswap : s.pair.swap = none) (hreq : s.pair.swapReq = some (a, some c)) :
    exec .swapTimeout s = .next (if s.clk.frame < a + 1000000 then s
      else ({ s with pair := { s.pair with swapReq := none } } : State).answer c stTimeout []) := by
  change execSwapTimeout s = _
  unfold execSwapTimeout
  rw [hswap, hreq]
  dsimp only
  split <;> rfl

theorem exec_revertDelay (s : State) : exec .revertDelay s = .next (if s.clk.pref = true ∧ s.asPartner = true ∧ s.mirror.ready = true ∧
      s.faults.healthy = true ∧ 0 < s.pair.revertDelay ∧ s.pair.swapReq = none ∧ s.pair.standbySince + 1000000000 * s.pair.revertDelay ≤ s.ns then
    { s with pair := { s.pair with swapReq := some (s.clk.frame, none) } } else s) := by
  change execRevertDelay s = _
  unfold execRevertDelay
  simp only [Bool.and_eq_true, decide_eq_true_eq, Option.isNone_iff_eq_none, and_assoc]
  split <;> rfl

theorem exec_swapInterval (s : State) : exec .swapInterval s = .next (if s.paired = true ∧ s.pair.held = true ∧ s.pair.swap = none ∧
      s.pair.swapDeferred = false ∧ 0 < s.pair.swapInterval ∧ s.pair.lastChange + 1000000000 * s.pair.swapInterval ≤ s.ns then
    s.startSwap none false else s) := by
  change execSwapInterval s = _
  unfold execSwapInterval
  simp only [Bool.and_eq_true, Bool.not_eq_true', decide_eq_true_eq, Option.isNone_iff_eq_none, and_assoc]
  split <;> rfl

end Sys2Proof.Machine

namespace Sys2Proof.Machine

/-- Settles O56: the last lane by `exec_mirrorLaneDown_last`, the status by `exec_standbyStatus`, the swap frame by `exec_swapCapture`, the
handover by `exec_swapHandover`; each other event has its lemma. -/
theorem swapsAndLanesComplete : Obligations.SwapsAndLanesComplete := by
  refine fun s => ⟨exec_mirrorResyncEnd_idle, exec_mirrorResyncEnd, fun lane h => congrArg _ (laneDown_of_off h), fun h0 h1 lane => ?oneLane,
    exec_mirrorLaneDown_last, fun lane => ⟨fun h => exec_mirrorLaneUp_off h lane, fun h v hv => exec_mirrorLaneUp h lane hv⟩,
    fun h m => ⟨fun hidle => exec_standbyStatus_idle hidle h m, fun hpaired hheld hup fresh hfresh => ?status⟩,
    exec_swapCapture_idle, exec_swapCapture, exec_swapReady, exec_swapHandover_idle, fun f a c standby => exec_swapHandover,
    exec_swapTimeout_idle, fun a c standby hswap => ⟨fun h => ?early, fun hdue hcaptured v hv => ?late⟩,
    fun a c => exec_swapTimeout_request, exec_revertDelay s, exec_swapInterval s⟩
  case oneLane =>
    obtain ⟨hpair, hdrive, -, hmirror, -⟩ := told_rest (State.raise_told (s.laneOff lane) 67 .m {})
    exact ⟨_, congrArg Host.Outcome.next (laneDown_of_both h0 h1 lane), hmirror, hdrive, hpair⟩
  case status =>
    rintro v w rfl hw
    obtain rfl : fresh = s.ceasesReady m := by rw [Bool.eq_iff_iff, hfresh, ceasesReady_iff]
    refine ⟨fun hext hgoes => hw.trans (statusNoted_watched _ hext hgoes), ?_⟩
    rw [exec_standbyStatus hpaired hheld hup h hw]
    simp only [Bool.and_eq_true, asksAnew_iff, Option.isNone_iff_eq_none, and_assoc]
  case early => rw [exec_swapTimeout_swap hswap rfl, if_pos h]
  case late =>
    rw [exec_swapTimeout_swap hswap hv, if_neg (by simp [hcaptured, Nat.not_lt.mpr hdue])]
    exact ⟨fun hc => by rw [hc], fun r hc => by rw [hc]⟩

end Sys2Proof.Machine
end

section
/-! Supply and process monitors, the health report, temperature triggers, starts and ends of calibration runs, and the head of the fault queue
(R370, R381, R384 to R388, R399, R401, R405, R423). -/

namespace Sys2Proof.Machine

section
variable {s : State}

/-! ## The health report (R388, R423) -/

/-- The writes of calibration records that failed are tried again (R423). -/
def State.retryRecords (s : State) : State :=
  let t := if s.cal.convDue then s.writeConv else s
  if t.cal.fabDue then t.writeFab else t

theorem retryRecords_rest (s : State) : s.retryRecords.clk = s.clk ∧ s.retryRecords.faults = s.faults := by
  unfold State.retryRecords
  extract_lets t
  have ht : t.clk = s.clk ∧ t.faults = s.faults := by
    unfold t
    split <;> exact ⟨rfl, rfl⟩
  split <;> exact ht

theorem exec_healthReport_idle (h : s.clk.frame % 50000 ≠ 0 ∨ s.clk.reported = true ∨ s.sys.restarting = true ∨ s.runs = false) :
    exec .healthReport s = .next s := by
  change execHealthReport s = _
  refine if_pos ?_
  rcases h with h | h | h | h <;> simp [h]

theorem exec_healthReport (hframe : s.clk.frame % 50000 = 0) (hdue : s.clk.reported = false) (hup : s.sys.restarting = false) (hruns : s.runs = true)
    (hreset : s.sys.mode ≠ .reset) (hboot : s.sys.mode ≠ .boot) : exec .healthReport s = .next s.publish.retryRecords := by
  change execHealthReport s = _
  exact if_neg (by simp [hframe, hdue, hup, hruns, hreset, hboot])

/-! ## Supply monitors (R386) -/

/-- 24 readings are latched. -/
def State.voltsLatched (s : State) (v : List Nat) : State :=
  { s with faults := { s.faults with volts := v, voltSampled := true } }

theorem exec_samples_stopped (h : s.runs = false) (v : List Nat) : exec (.voltSample v) s = .next s ∧ exec (.procMonitorCount v) s = .next s := by
  have hstop : (!s.runs) = true := by rw [h]; rfl
  exact ⟨if_pos hstop, if_pos hstop⟩

theorem readings_of_length {v : List Nat} {n : Nat} (h : v.length = n) (d : Nat → Nat) :
    (List.range n).map (fun k => (v[k]?).getD (d k)) = v := by
  refine List.ext_getElem (by simp [h]) fun k _ hk => ?_
  simp [List.getElem?_eq_getElem hk]

theorem exec_voltSample (hruns : s.runs = true) {v : List Nat} (hv : v.length = 24) :
    exec (.voltSample v) s = .next ((List.range 24).foldl State.voltCheck (s.voltsLatched v)) := by
  change execVoltSample v s = _
  rw [execVoltSample, if_neg (by simp [hruns]), readings_of_length hv, State.voltsLatched]

/-- An alarm that stands ends with the second sample inside; one that does not starts with the second outside. -/
theorem railAlarm_next (alarm : Bool) (nOut nIn : Nat) : ((decide (2 ≤ nOut) && !alarm) || (alarm && !decide (2 ≤ nIn))) =
    (if alarm then decide (nIn < 2) else decide (2 ≤ nOut)) := by
  cases alarm
  · simp
  · simp [← decide_not]

theorem voltChecks_rail (s : State) {l : List Nat} (hl : l.Nodup) {k : Nat} (hk : k ∈ l) {t : State} (ht : t = l.foldl State.voltCheck s)
    {out : Bool} (hout : out = outside (s.rail k).1 (s.rail k).2.1 1 ((s.faults.volts[k]?).getD 0)) :
    rd t.faults.voltOut k 0 = (if out then rd s.faults.voltOut k 0 + 1 else 0) ∧
    rd t.faults.voltIn k 0 = (if out then 0 else rd s.faults.voltIn k 0 + 1) ∧
    rd t.faults.voltAlarm k false = (if rd s.faults.voltAlarm k false then decide (rd t.faults.voltIn k 0 < 2)
      else decide (2 ≤ rd t.faults.voltOut k 0)) := by
  obtain ⟨hrdOut, hrdIn, hrdAlarm⟩ := ((voltFold l hl s).2.2 k).2 hk
  obtain ⟨-, -, hvOut, hvIn, hvAlarm⟩ := voltCheck_spec s k
  subst ht hout
  rw [hrdOut, hrdIn, hrdAlarm, hvOut, hvIn, hvAlarm, railAlarm_next]
  simp only [rd_wr, if_true, and_self]

/-! ## Process monitors (R387) -/

theorem exec_procMonitorCount (hruns : s.runs = true) {v : List Nat} (hv : v.length = 16) :
    exec (.procMonitorCount v) s = .next (v.zipIdx.foldl (fun t e => t.procCheck e.2 e.1) s) := by
  change execProcMonitorCount v s = _
  rw [execProcMonitorCount, hruns, List.take_of_length_le hv.le]
  rfl

theorem procChecks_monitor (s : State) {v : List Nat} {p : Nat} (hp : p < v.length) {t : State}
    (ht : t = v.zipIdx.foldl (fun t e => t.procCheck e.2 e.1) s) :
    rd t.faults.procBase p 0 = (if rd s.faults.procBase p 0 = 0 ∧ s.sys.mode = .standby then (v[p]?).getD 0 else rd s.faults.procBase p 0) ∧
    rd t.faults.procAlarm p false = (rd s.faults.procAlarm p false || decide (rd s.faults.procBase p 0 ≠ 0 ∧
      s.faults.procDrift * rd s.faults.procBase p 0 < 100 * (rd s.faults.procBase p 0 - (v[p]?).getD 0))) := by
  have hv : v[p]? = some v[p] := List.getElem?_eq_getElem hp
  have hmem : (v[p], p) ∈ v.zipIdx := List.mem_zipIdx_iff_getElem?.2 hv
  have hnodup : (v.zipIdx.map Prod.snd).Nodup := by
    rw [List.zipIdx_map_snd]
    exact List.nodup_range'
  obtain ⟨hrdBase, hrdAlarm⟩ := ((procFold v.zipIdx hnodup s).2.2 p).2 _ hmem
  obtain ⟨-, -, hbase, -, halarm⟩ := procCheck_spec s p v[p]
  subst ht
  rw [hrdBase, hrdAlarm, hbase, halarm, hv]
  refine ⟨?_, rfl⟩
  split
  · simp
  · rfl

end

/-- Settles O48: the report of a period is `publish_spec`, which `retryRecords_rest` leaves as it is; `voltChecks_rail` says what the samples do
to one rail, `procChecks_monitor` what the counts do to one process monitor. -/
theorem healthEventsComplete : Obligations.HealthEventsComplete := by
  refine fun s => ⟨fun hframe hdue hup hruns hreset hboot => ⟨_, exec_healthReport hframe hdue hup hruns hreset hboot, ?report⟩,
    exec_healthReport_idle, exec_samples_stopped, fun hruns v hv => ⟨_, exec_voltSample hruns hv, ?volts, fun k hk out hout => ?rail⟩,
    fun hruns v hv => ⟨_, exec_procMonitorCount hruns hv, fun p hp b hb => ?monitor⟩⟩
  case report =>
    obtain ⟨hclk, hfaults⟩ := retryRecords_rest s.publish
    obtain ⟨f, p, h, hpublish, hspec⟩ := publish_spec s
    rw [hclk, hfaults, hpublish]
    exact ⟨rfl, hspec⟩
  case volts => exact (voltFold _ List.nodup_range _).1
  case rail => exact voltChecks_rail (s.voltsLatched v) List.nodup_range (List.mem_range.2 hk) rfl hout
  case monitor =>
    subst hb
    exact procChecks_monitor s (by omega) rfl

section
variable {s : State}

/-! ## Temperature triggers (R399) -/

/-- Every scope whose sensor moved too far becomes pending. -/
def State.tempPend (s : State) : State :=
  (converterScopes.filter s.tempDue).foldl (fun t n => t.setScope n { t.scope n with pending := true }) s

theorem tempPend_scope (s : State) (n : Nat) :
    s.tempPend.scope n = if converterScopes.contains n && s.tempDue n then { s.scope n with pending := true } else s.scope n := by
  have hmem : (converterScopes.filter s.tempDue).contains n = (converterScopes.contains n && s.tempDue n) := by
    rw [Bool.eq_iff_iff, Bool.and_eq_true, List.contains_iff_mem, List.contains_iff_mem, List.mem_filter]
  rw [State.tempPend, pendFold, hmem]

theorem exec_calTempCheck_idle
    (h : s.clk.frame % 64 ≠ 0 ∨ s.cal.tempTrigger = false ∨ s.sys.restarting = true ∨ s.sys.mode.calibrates = false) :
    exec .calTempCheck s = .next s := by
  change execCalTempCheck s = _
  refine if_pos ?_
  rcases h with h | h | h | h <;> simp [h]

theorem exec_calTempCheck (hframe : s.clk.frame % 64 = 0) (htrigger : s.cal.tempTrigger = true) (hup : s.sys.restarting = false)
    (hmode : s.sys.mode.calibrates = true) : exec .calTempCheck s = .next s.tempPend := by
  change execCalTempCheck s = _
  exact if_neg (by simp [hframe, htrigger, hup, hmode])

/-! ## Starts and ends of runs (R401, R405) -/

theorem exec_calStart_idle (h : s.sys.restarting = true ∨ s.sys.mode.calibrates = false ∨ s.cal.lastStart = some s.clk.frame) :
    exec .calStart s = .next s := by
  change execCalStart s = _
  refine if_pos ?_
  rcases h with h | h | h <;> simp [h]

theorem exec_calStart (hup : s.sys.restarting = false) (hmode : s.sys.mode.calibrates = true) (hfree : s.cal.lastStart ≠ some s.clk.frame) {n : Nat}
    (hfirst : (converterScopes ++ [0x300]).find? (fun n => (s.scope n).pending && s.canStart n) = some n) :
    exec .calStart s = .next { s with atTick := s.atTick ++ [.calStart n], cal := { s.cal with lastStart := some s.clk.frame } } := by
  change execCalStart s = _
  rw [execCalStart, if_neg (by simp [hup, hmode, hfree]), hfirst]
  rfl

theorem exec_calInForce_idle {scope : BitVec 16} (hscope : isScope scope.toNat = true) (h : (s.scope scope.toNat).running = none) (d : CalData) :
    exec (.calInForce scope d) s = .next s := by
  change execCalInForce scope d s = _
  rw [execCalInForce, hscope, h]
  rfl

theorem exec_calInForce {scope : BitVec 16} (hscope : isScope scope.toNat = true) {f : Nat} (h : (s.scope scope.toNat).running = some f)
    (hpassed : f + s.runLength scope.toNat ≤ s.clk.frame + 1) (hfree : ∀ e ∈ s.cal.due, e.1 ≠ scope.toNat) (d : CalData) :
    exec (.calInForce scope d) s = .next { s with atTick := s.atTick ++ [.calForce scope.toNat],
                                                  cal := { s.cal with due := s.cal.due ++ [(scope.toNat, d)] } } := by
  have hnone : s.cal.due.any (fun e => decide (e.1 = scope.toNat)) = false := by simpa using hfree
  change execCalInForce scope d s = _
  rw [execCalInForce, hscope, h]
  dsimp only
  rw [hnone, decide_eq_false (Nat.not_lt.2 hpassed)]
  rfl

/-! ## The head of the fault queue (R370, R381, R384) -/

/-- The unit of an entry is to be retired (R370). -/
def State.retires (s : State) (e : FEntry) : Bool := e.permanent && !s.retired e.kind e.index && [1, 2, 3, 4, 5].contains e.kind

/-- The record of an entry in the fault log (R381, R394). -/
def FEntry.logged (e : FEntry) : Ev :=
  { kind := e.kind, unit := e.index, flags := (if e.permanent then 2 else 1) + 16 * bit e.escalated, count := e.count, reason := e.reason,
    date := some e.frame }

/-- The head of the fault queue is taken out and logged (R381). -/
def State.logEntry (s : State) (e : FEntry) (q : List FEntry) : State :=
  let u : State := { s with faults := { s.faults with queue := q } }
  (u.appendLog (u.logRecord 0xFFFF e.logged false)).wrapped u.wraps

/-- The head of the fault queue is handled, before an overflow of the queue is judged (R370, R381). -/
def State.handleEntry (s : State) (e : FEntry) (q : List FEntry) : State :=
  when (s.retires e) (fun t => t.due (.retire e.kind e.index e.reason)) (s.logEntry e q)

theorem logEntry_lg (s : State) (e : FEntry) (q : List FEntry) : Lg { s with faults := { s.faults with queue := q } } (s.logEntry e q) := by
  unfold State.logEntry
  extract_lets u
  exact Lg.trans ⟨_, _, _, _, _, _, rfl⟩ (wrapped_lg ..)

theorem handleEntry_spec (s : State) (e : FEntry) (q : List FEntry) :
    (s.handleEntry e q).faults.queue = q ∧ (s.handleEntry e q).faults.units = s.faults.units ∧
    (s.handleEntry e q).faults.overflow = s.faults.overflow ∧
    (s.handleEntry e q).atTick = s.atTick ++ (if s.retires e then [.retire e.kind e.index e.reason] else []) := by
  unfold State.handleEntry
  obtain ⟨l, n, w, k, p, h, hlog⟩ := logEntry_lg s e q
  rw [hlog]
  cases s.retires e
  · exact ⟨rfl, rfl, rfl, (List.append_nil _).symm⟩
  · exact ⟨rfl, rfl, rfl, rfl⟩

theorem endOverflow_of_none (h : s.faults.overflow = false) : s.endOverflow = s := if_neg (by simp [h])

theorem exec_faultEntryHandled_idle (h : s.sys.restarting = true) : exec .faultEntryHandled s = .next s := if_pos h

theorem exec_faultEntryHandled (hup : s.sys.restarting = false) {e : FEntry} {q : List FEntry} (hq : s.faults.queue = e :: q) :
    exec .faultEntryHandled s = .next (s.handleEntry e q).endOverflow := by
  change execFaultEntryHandled s = _
  rw [execFaultEntryHandled, hup, hq]
  rfl

end

/-- Settles O49: each command has its lemma; `tempPend_scope` gives every scope after a comparison, `handleEntry_spec` the fault queue after
its head is handled. -/
theorem calibrationAndFaultEventsComplete : Obligations.CalibrationAndFaultEventsComplete := by
  refine fun s => ⟨fun hframe htrigger hup hmode => ⟨_, exec_calTempCheck hframe htrigger hup hmode, tempPend_scope s⟩, exec_calTempCheck_idle,
    exec_calStart_idle, fun hup hmode hfree n => exec_calStart hup hmode hfree, fun scope d hscope =>
      ⟨fun h => exec_calInForce_idle hscope h d, fun f h hpassed hfree => exec_calInForce hscope h hpassed hfree d⟩,
    exec_faultEntryHandled_idle, fun e q hup hq hcalm => ?calm, fun e q hup hq _ => ?overflow⟩
  all_goals obtain ⟨hqueue, hunits, hover, htick⟩ := handleEntry_spec s e q
  case calm =>
    refine ⟨_, exec_faultEntryHandled hup hq, ?_⟩
    rw [endOverflow_of_none (hover.trans hcalm)]
    exact ⟨hqueue, hunits, htick⟩
  case overflow => exact ⟨_, _, exec_faultEntryHandled hup hq, rfl, hqueue, htick⟩

end Sys2Proof.Machine
end

section
/-! The mailbox: a command at its slot (R467), what becomes of one that is taken, waits or reaches nothing (R446, R453, R470), and
what its response leaves with the function (R468, R469). -/

namespace Sys2Proof.Machine

/-- Settles O8: `step` reads the queue first. -/
theorem stepTakesFront : Obligations.StepTakesFront := fun _ _ _ => rfl

/-- Settles O13: the fuses are among what `step_keeps` says a step keeps. -/
theorem fusesOnlyGrow : Obligations.FusesOnlyGrow := by
  intro s t hstep k hk
  obtain ⟨_, hkeeps⟩ := step_keeps s t hstep
  exact hkeeps.fuses k hk

/-- Settles O16: `slotOp_slotWord` and `slotCmd_slotWord` read the two parts back. -/
theorem slotSpellsCommand : Obligations.SlotSpellsCommand :=
  fun op m hop => ⟨slotOp_slotWord m hop, slotCmd_slotWord op m⟩

/-! ## Commands that are not performed -/

section
variable {s : State} {op : Nat} {m : MbCmd}

theorem command_unreached (h : s.reached m.src = false) (rules : State → Rules) (act : CmdRef → State → State) :
    s.command op m rules act = s := if_pos (by rw [h]; rfl)

theorem command_untaken (h : s.reached m.src = true) (hwait : s.mayTake m.src = false) (rules : State → Rules) (act : CmdRef → State → State) :
    s.command op m rules act = s.keepCmd op m := by
  simp [State.command, h, hwait]

theorem command_bootFailed (h : s.reached m.src = true) (htake : s.mayTake m.src = true) (hfailed : s.sys.bootFailed = true)
    (rules : State → Rules) (act : CmdRef → State → State) : s.command op m rules act = s.replied op m stInternal [] := by
  have hboot : (s.take (refOf op m)).sys.bootFailed = true := (State.taken_sys_bootFailed s op m).trans hfailed
  simp [State.command, h, htake, hboot, State.replied, State.taken]

theorem keepCmd_fn {n : BitVec 7} (h : m.src = .fn n) :
    s.keepCmd op m = s.setFn n.toNat { s.fn n.toNat with cmd := slotWord op m, cmdFull := true } := by
  simp only [State.keepCmd, h, State.modFn]

theorem keepCmd_mgmt (h : srcRemote m.src = true) (hrestart : s.sys.restarting = true) :
    s.keepCmd op m = { s with sys := { s.sys with held := s.sys.held ++ [(op, m)] } } := by
  cases hsrc : m.src with
  | fn n => rw [hsrc] at h; cases h
  | mgmt c q p => simp only [State.keepCmd, hsrc, hrestart, if_true]

end

/-- Settles O19: every opcode goes through `State.command`, which answers before it judges. -/
theorem bootFailedAnswersInternal : Obligations.BootFailedAnswersInternal := by
  intro s i op m hi hreach htake hfailed
  obtain ⟨rules, act, hcmd⟩ := meaning_command s i op m hi
  rw [exec_mailbox s i op m hi, hcmd, command_bootFailed hreach htake hfailed]

/-- Settles O20: every opcode goes through `State.command`, which keeps a command that is not taken. -/
theorem untakenCommandsWait : Obligations.UntakenCommandsWait := by
  intro s i op m hi
  obtain ⟨rules, act, hcmd⟩ := meaning_command s i op m hi
  rw [exec_mailbox s i op m hi, hcmd]
  refine ⟨fun hreach => by rw [command_unreached hreach], fun hreach hwait => ?_⟩
  rw [command_untaken hreach hwait]
  exact ⟨fun n hn => by rw [keepCmd_fn hn], fun hremote hrestart => by rw [keepCmd_mgmt hremote hrestart]⟩

/-! ## Doorbells (R469, R470) -/

@[simp] theorem fn_setFn (s : State) (n k : Nat) (f : Fn) : (s.setFn n f).fn k = if n = k then f else s.fn k := rd_wr ..

theorem fn_setFn_same (s : State) (n : Nat) (f : Fn) : (s.setFn n f).fn n = f := (fn_setFn ..).trans (if_pos rfl)

section
variable {s : State} {n : BitVec 7} {seq : W16}

theorem exec_mbDoorbell (hd : s.decodes n.toNat = true) : exec (.mbDoorbell n seq) s = .next (s.doorbell n.toNat seq) := if_pos hd

theorem doorbell_full (h : (s.fn n.toNat).cmdFull = true) :
    s.doorbell n.toNat seq = s.setFn n.toNat { s.fn n.toNat with dbIgnored := true } := if_pos h

theorem doorbell_free (h : (s.fn n.toNat).cmdFull = false) :
    s.doorbell n.toNat seq = (s.setFn n.toNat { s.fn n.toNat with cmdFull := true, seq := seq }).takeSlot n.toNat := if_neg (by simp [h])

@[simp] theorem mayTake_setFn (s : State) (k : Nat) (f : Fn) (src : Src) : (s.setFn k f).mayTake src = s.mayTake src := rfl

theorem takeSlot_eq (s : State) (n : BitVec 7) : s.takeSlot n.toNat = if ((s.fn n.toNat).cmdFull && s.mayTake (.fn n)) = true then
    opMeaning (slotOp (s.fn n.toNat).cmd) (slotCmd (.fn n) (s.fn n.toNat).cmd) s else s := by
  rw [State.takeSlot, BitVec.ofNat_toNat, BitVec.setWidth_eq]

end

/-- Settles O17: a doorbell with the slot free presents the slot to `State.takeSlot`; the slot spells the command by `slotCmd_slotWord`. -/
theorem doorbellRunsSlotCommand : Obligations.DoorbellRunsSlotCommand := by
  intro s n seq hd
  rw [exec_mbDoorbell hd]
  refine ⟨fun hfull => by rw [doorbell_full hfull], fun hfree hwait => ?wait, fun i op m hi hsrc hslot hfree htake => ?run⟩
  all_goals
    rw [doorbell_free hfree, takeSlot_eq, fn_setFn_same]
  case wait => exact congrArg _ (if_neg (by simp [hwait]))
  case run =>
    rw [if_pos (by simp [htake]), exec_mailbox _ i op m hi, hslot, slotOp_slotWord m (op_small i op m hi), ← hsrc, slotCmd_slotWord]

/-! ## Responses (R468, R470) -/

section
variable {s : State} {n : Nat} {r : BitVec 512} {notify : Bool}

/-- A message that waits or is sent changes the pending bits of its function only. -/
theorem msix_fn (s : State) (n v : Nat) : (s.msix n v).fn n = { s.fn n with vPend := ((s.msix n v).fn n).vPend } := by
  unfold State.msix
  dsimp only
  split
  · rw [fn_setFn_same]
  · rfl

theorem present_rsp_behind (h : (s.fn n).rspValid = true) :
    s.present_rsp n r notify = s.setFn n { s.fn n with waiting := (s.fn n).waiting ++ [(r, notify)] } := if_pos h

theorem present_rsp_free (h : (s.fn n).rspValid = false) :
    (s.present_rsp n r notify).fn n = { s.fn n with rsp := r, rspValid := true, vPend := ((s.present_rsp n r notify).fn n).vPend } := by
  have hp : s.present_rsp n r notify = if notify = true then (s.setFn n { s.fn n with rsp := r, rspValid := true }).msix n 0
      else s.setFn n { s.fn n with rsp := r, rspValid := true } := if_neg (by simp [h])
  rw [hp]
  split
  · rw [msix_fn, fn_setFn_same]
  · rw [fn_setFn_same]

theorem msix_sys (s : State) (n v : Nat) : (s.msix n v).sys = s.sys := by
  obtain ⟨f, h, e⟩ := s.msix_told n v
  rw [e]

theorem present_rsp_sys (s : State) (n : Nat) (r : BitVec 512) (notify : Bool) : (s.present_rsp n r notify).sys = s.sys := by
  unfold State.present_rsp
  dsimp only
  split
  · rfl
  · split
    · exact msix_sys ..
    · rfl

end

/-- A command that was not running and is taken and answered: it is not counted any more, and its response is presented. -/
theorem replied_fn {s : State} {op : Nat} {m : MbCmd} {n : BitVec 7} (hsrc : m.src = .fn n) (hup : s.sys.restarting = false)
    (hnew : refOf op m ∉ s.sys.running) (hread : s.sys.bufDone = []) (status : Nat) (payload : List (Nat × Nat)) :
    s.replied op m status payload =
      ({ s.taken op m with sys := { (s.taken op m).sys with running := s.sys.running, bufDone := [] } } : State).present_rsp n.toNat
        (rspWord (refOf op m) status 0 0 s.pair.epoch s.ns payload) m.notify := by
  have hleft : (s.taken op m).sys.running.erase (refOf op m) = s.sys.running := by
    rw [State.taken_running, List.erase_append_right _ hnew, List.erase_cons_head, List.append_nil]
  have hdone : (s.taken op m).sys.bufDone = [] := (State.taken_sys_bufDone ..).trans hread
  have hs : (refOf op m).src = .fn n := hsrc
  unfold State.replied State.answer State.answerAt
  rw [if_neg (by simp [hup])]
  simp only [hs, hdone, hleft, State.taken_ns, State.taken_pair, List.find?_nil, List.eraseP_nil, Nat.max_self]
  rfl

/-- Settles O21: the taking is `State.taken_fn`, and `replied_fn` presents the response; it stands in MB_RSP by `present_rsp_free`, or waits
by `present_rsp_behind`. -/
theorem responseReachesFunction : Obligations.ResponseReachesFunction := by
  intro s op m n status payload hsrc hup hnew hread r f
  have hf : f = (s.replied op m status payload).fn n.toNat := rfl
  have htaken := State.taken_fn s op m n hsrc
  rw [replied_fn hsrc hup hnew hread] at hf ⊢
  generalize hu : ({ s.taken op m with sys := { (s.taken op m).sys with running := s.sys.running, bufDone := [] } } : State) = u at hf ⊢
  have hfn : u.fn n.toNat = { s.fn n.toNat with cmdFull := false, lastSeq := (s.fn n.toNat).seq } := by rw [← hu]; exact htaken
  have hrun : u.sys.running = s.sys.running := by rw [← hu]
  cases hvalid : (s.fn n.toNat).rspValid with
  | false =>
    have huv : (u.fn n.toNat).rspValid = false := by rw [hfn]; exact hvalid
    rw [present_rsp_free huv, hfn] at hf
    rw [present_rsp_sys, hrun, hf]
    exact ⟨rfl, rfl, rfl, fun _ => ⟨rfl, rfl, rfl⟩, nofun⟩
  | true =>
    have huv : (u.fn n.toNat).rspValid = true := by rw [hfn]; exact hvalid
    rw [present_rsp_behind huv, fn_setFn_same, hfn] at hf
    rw [present_rsp_sys, hrun, hf]
    exact ⟨rfl, rfl, rfl, nofun, fun _ => ⟨rfl, hvalid, rfl⟩⟩

/-! ## Accesses that are not aligned and of 32 bits (R462) -/

/-- Settles O25: an access is decoded where the function is present and in D0. -/
theorem badAccessesAreLogged : Obligations.BadAccessesAreLogged := by
  intro s fn
  refine ⟨fun hpresent hd0 => ?_, fun hnone w => if_pos ?_⟩
  · have hd : s.decodes fn.toNat = true := by simp [State.decodes, hpresent, hd0]
    simp only [exec, execBarBadAccess, hd]
    exact ⟨rfl, rfl⟩
  · rcases hnone with h | h <;> simp [State.decodes, h]

end Sys2Proof.Machine
end

section
/-! Functions of the host interface: what power-on reset leaves (R426), the MSI-X table (R595), and resets and power states of
functions (R463, R486 to R489). -/

namespace Sys2Proof.Machine

/-- Settles O10: the tables of `State.reset` list nothing, so that every entry reads as its reset value. -/
theorem resetValues : Obligations.ResetValues := by
  refine ⟨rfl, rfl, rfl, rfl, rfl, rfl, rfl, rfl, rfl, rfl, rfl, fun _ => rfl, fun _ => ⟨rfl, rfl, rfl⟩,
    fun _ => ⟨rfl, rfl, rfl, rfl, rfl, rfl, rfl, rfl⟩, fun _ _ => rfl, fun _ => ⟨rfl, rfl, rfl, rfl⟩, fun _ => ⟨rfl, rfl⟩, rfl, rfl⟩

/-! ## Messages (R595) -/

/-- Bit k of the three bits in which vector v alone is set. -/
theorem getLsbD_vectorBit {v k : Nat} (hk : k < 3) : (BitVec.ofNat 3 (2 ^ v)).getLsbD k = decide (k = v) := by
  rw [BitVec.getLsbD_ofNat, Nat.testBit_two_pow]
  simp [hk, eq_comm]

theorem getLsbD_setVector (p : BitVec 3) {v k : Nat} (hk : k < 3) :
    (p ||| BitVec.ofNat 3 (2 ^ v)).getLsbD k = (p.getLsbD k || decide (k = v)) := by
  rw [BitVec.getLsbD_or, getLsbD_vectorBit hk]

theorem getLsbD_clearVector (p : BitVec 3) {v k : Nat} (hk : k < 3) :
    (p &&& ~~~(BitVec.ofNat 3 (2 ^ v))).getLsbD k = (p.getLsbD k && decide (k ≠ v)) := by
  rw [BitVec.getLsbD_and, BitVec.getLsbD_not, getLsbD_vectorBit hk]
  simp [hk]

theorem tb_toNat {w : Nat} (x : BitVec w) (i : Nat) : tb x.toNat i = x.getLsbD i := rfl

section
variable {s : State} {n v : Nat}

theorem msix_waits (h : (s.fn n).vMask.getLsbD v = true ∨ (s.fn n).msixEnable = false ∨ (s.fn n).funcMask = true) :
    s.msix n v = s.setFn n { s.fn n with vPend := (s.fn n).vPend ||| BitVec.ofNat 3 (2 ^ v) } :=
  if_pos (by rcases h with h | h | h <;> simp [tb_toNat, h])

theorem msix_sent (hmask : (s.fn n).vMask.getLsbD v = false) (hen : (s.fn n).msixEnable = true) (hfm : (s.fn n).funcMask = false)
    (hd0 : (s.fn n).d3 = false) (hlink : s.host.linkUp = true) :
    s.msix n v = s.emit (.msix n (rd (s.fn n).vAddr v 0) (rd (s.fn n).vData v 0)) :=
  if_neg (by simp [tb_toNat, hmask, hen, hfm, hd0, hlink])

theorem sendPending_held (h : (s.fn n).vPend.getLsbD v = false ∨ (s.fn n).msixEnable = false ∨ (s.fn n).funcMask = true) :
    s.sendPending n v = s := if_neg (by rcases h with h | h | h <;> simp [tb_toNat, h])

theorem sendPending_sent (hpend : (s.fn n).vPend.getLsbD v = true) (hmask : (s.fn n).vMask.getLsbD v = false)
    (hen : (s.fn n).msixEnable = true) (hfm : (s.fn n).funcMask = false) (hd0 : (s.fn n).d3 = false) (hlink : s.host.linkUp = true) :
    s.sendPending n v = (s.setFn n { s.fn n with vPend := (s.fn n).vPend &&& ~~~(BitVec.ofNat 3 (2 ^ v)) }).emit
      (.msix n (rd (s.fn n).vAddr v 0) (rd (s.fn n).vData v 0)) :=
  if_pos (by simp [tb_toNat, hpend, hmask, hen, hfm, hd0, hlink])

theorem wr_wr {α : Type} (t : Tbl α) (i : Nat) (v w : α) : wr (wr t i v) i w = wr t i w := by
  induction t with
  | nil => simp [wr]
  | cons e r ih =>
    obtain ⟨k, u⟩ := e
    by_cases hlt : i < k
    · simp [wr, hlt]
    · by_cases heq : i = k
      · simp [wr, heq]
      · simp [wr, hlt, heq, ih]

theorem setFn_setFn (s : State) (n : Nat) (f g : Fn) : (s.setFn n f).setFn n g = s.setFn n g := by
  simp only [State.setFn, wr_wr]

/-- What the host makes of a function when it unmasks a vector with MSI-X enabled and Function Mask clear. -/
def Fn.unmask (f : Fn) (v : Nat) : Fn := { f with vMask := f.vMask &&& ~~~(BitVec.ofNat 3 (2 ^ v)), msixEnable := true, funcMask := false }

theorem exec_msixUnmask {fn : BitVec 7} (hd : s.decodes fn.toNat = true) (hv : v < 3) : exec (.msixUnmask fn v) s =
    .next ((s.setFn fn.toNat ((s.fn fn.toNat).unmask v)).sendPending fn.toNat v) := by
  obtain ⟨hpresent, hd0⟩ := decodes_iff hd
  change execMsixUnmask fn v s = _
  unfold execMsixUnmask
  rw [if_neg (by omega), if_neg (by simp [hpresent, hd0])]
  rfl

end

/-! ## Resets of the PF (R487, R488) -/

/-- What Conventional Reset adds to FLR of the PF (R488). -/
def State.linkReset (s : State) : State :=
  { s with host := { s.host with linkUp := false, fns := s.host.fns.map (fun e => (e.1, { e.2 with d3 := false, aerUr := false })) } }

theorem linkReset_fn (s : State) (n : Nat) : s.linkReset.fn n = { s.fn n with d3 := false, aerUr := false } := by
  change (find? (s.host.fns.map (fun e => (e.1, { e.2 with d3 := false, aerUr := false }))) n).getD .init = _
  rw [find?_mapFn (fun f => { f with d3 := false, aerUr := false })]
  unfold State.fn rd
  cases find? s.host.fns n <;> rfl

/-- What FLR of the PF leaves (R487). -/
structure PfReset (s t : State) : Prop where
  clk : t.clk = { s.clk with pcCycle := 0, pcHi := 0 }
  mode : t.sys.mode = s.sys.mode
  pair : t.pair = s.pair
  loops : t.loops = s.loops
  burin : t.burin = s.burin
  cal : t.cal = s.cal
  ft : t.ft = s.ft
  mirror : t.mirror = s.mirror
  vfEnable : t.host.vfEnable = false
  xlate : t.host.xlate = []
  tlb : t.host.tlb = []
  committed : t.host.committed = none
  active : t.host.active = HostIf.init.active
  pf : ∃ d a, t.fn 0 = { Fn.init with d3 := d, aerUr := a }

theorem resetPf_spec (s : State) : PfReset s s.resetPf := by
  obtain ⟨hdrop, hvf, -⟩ := dropVfs_spec s
  obtain ⟨hpf, -, -, -, -, -, h', sc', run', held', rd', st', hreset, -, -, hvf'⟩ := resetFn_spec s.dropVfs 0
  obtain ⟨h, sc, run, held, rd, st, heq⟩ := hdrop.trans (resetFn_chain s.dropVfs 0)
  have hclear : (s.dropVfs.resetFn 0).host.vfEnable = false := by rw [hreset]; exact hvf'.trans hvf
  unfold State.resetPf
  generalize s.dropVfs.resetFn 0 = u at hpf heq hclear
  refine ⟨?_, ?_, ?_, ?_, ?_, ?_, ?_, ?_, hclear, rfl, rfl, rfl, rfl, ⟨_, _, hpf⟩⟩ <;> rw [heq]

theorem PfReset.linkReset {s t : State} (h : PfReset s t) : PfReset s t.linkReset := by
  obtain ⟨d, a, hpf⟩ := h.pf
  exact { h with pf := ⟨false, false, by rw [linkReset_fn, hpf]⟩ }

/-- Settles O40: `resetPf_spec`, which Conventional Reset keeps (`PfReset.linkReset`); VF Enable that clears is `dropVfs_spec`. -/
theorem pfResetComplete : Obligations.PfResetComplete := by
  intro s
  refine ⟨fun i hi => ?resets, rfl, ?vfs, fun hr hc => if_pos (by simp [hr, hc])⟩
  case resets =>
    have hreset : ∃ t, exec i s = .next t ∧ PfReset s t ∧
        (i = .conventionalReset → t.host.linkUp = false ∧ (t.fn 0).d3 = false ∧ (t.fn 0).aerUr = false) := by
      rcases hi with rfl | rfl
      · exact ⟨_, rfl, resetPf_spec s, nofun⟩
      · exact ⟨s.resetPf.linkReset, rfl, (resetPf_spec s).linkReset, fun _ => by rw [linkReset_fn]; exact ⟨rfl, rfl, rfl⟩⟩
    obtain ⟨t, hexec, h, hlink⟩ := hreset
    obtain ⟨_, _, hpf⟩ := h.pf
    refine ⟨t, hexec, h.vfEnable, fun d => by rw [State.xlate, h.xlate]; rfl, h.tlb, h.committed, h.active, h.clk, ?_, ?_, ?_, ?_, h.mode,
      h.pair, h.loops, h.burin, h.cal, h.ft, h.mirror, hlink⟩
    all_goals rw [hpf]; rfl
  case vfs =>
    obtain ⟨⟨h, sc, run, held, rd, st, hdrop⟩, hvf, hpf⟩ := dropVfs_spec s
    exact ⟨s.dropVfs, rfl, hvf, hpf, by rw [hdrop], by rw [hdrop]⟩

/-! ## FLR of a VF (R486) -/

theorem exec_flrVf {s : State} {fn : BitVec 7} (hfn : fn ≠ 0) (hpresent : s.present fn.toNat = true) :
    exec (.flrVf fn) s = .next (s.resetFn fn.toNat) := if_neg (not_or.mpr ⟨hfn, by simp [hpresent]⟩)

/-- Settles O39: each clause is one of `resetFn_spec`. -/
theorem vfResetComplete : Obligations.VfResetComplete := by
  intro s fn hfn hpresent
  obtain ⟨hself, hother, hqueues, hdomain, hxlate, hxfers, h, sc, run, held, rd, st, hrest, hA, hB, -⟩ := resetFn_spec s fn.toNat
  refine ⟨_, exec_flrVf hfn hpresent, hself, hother, hqueues, hdomain, hxlate, hxfers, ?_⟩
  rw [hrest]
  exact ⟨rfl, rfl, rfl, rfl, rfl, hA, hB, rfl⟩

/-! ## The MSI-X table -/

theorem Clean.reads_zero {f : Fn} (h : Clean f) : f.vMask = 7 ∧ f.vPend = 0 ∧ ∀ v, rd f.vAddr v 0 = 0 ∧ rd f.vData v 0 = 0 := by
  obtain ⟨hmask, hpend, haddr, hdata⟩ := h
  exact ⟨hmask, hpend, fun v => by rw [haddr, hdata]; exact ⟨rfl, rfl⟩⟩

theorem reset_clean (s : State) (fn : BitVec 7) (i : Instr)
    (hi : i = .flrPf ∨ i = .conventionalReset ∨ (i = .flrVf fn ∧ fn ≠ 0 ∧ s.present fn.toNat = true)) :
    ∃ t, exec i s = .next t ∧ Clean (t.fn fn.toNat) := by
  rcases hi with rfl | rfl | ⟨rfl, hfn, hpresent⟩
  · exact ⟨s.resetPf, rfl, resetPf_clean s fn.toNat⟩
  · refine ⟨s.resetPf.linkReset, rfl, ?_⟩
    obtain ⟨hmask, hpend, haddr, hdata⟩ := resetPf_clean s fn.toNat
    rw [linkReset_fn]
    exact ⟨hmask, hpend, haddr, hdata⟩
  · refine ⟨s.resetFn fn.toNat, exec_flrVf hfn hpresent, ?_⟩
    rw [(resetFn_spec s _).1]
    exact ⟨rfl, rfl, rfl, rfl⟩

/-- Settles O28: every reset leaves a `Clean` table; a message waits by `msix_waits` or goes by `msix_sent`, and the one that waits goes by
`sendPending_sent` when its vector is unmasked. -/
theorem msixTableActs : Obligations.MsixTableActs := by
  refine ⟨fun n v => ⟨rfl, rfl, rfl, rfl⟩, fun s fn i hi => ?resets, fun s n v hv => ⟨fun hwait => ?waits, msix_sent⟩,
    fun s fn v hd hv hlink => ?unmask⟩
  case resets =>
    obtain ⟨t, hexec, hclean⟩ := reset_clean s fn i hi
    exact ⟨t, hexec, hclean.reads_zero⟩
  case waits => exact ⟨_, msix_waits hwait, fun k hk => getLsbD_setVector _ hk⟩
  case unmask =>
    rw [exec_msixUnmask hd hv]
    have hfn := fn_setFn_same s fn.toNat ((s.fn fn.toNat).unmask v)
    refine ⟨fun hpend => ?_, fun hnone => ⟨_, _, rfl, sendPending_held (.inl (by rw [hfn]; exact hnone)), rfl, rfl, rfl⟩⟩
    have hmask : ((s.fn fn.toNat).unmask v).vMask.getLsbD v = false := by
      rw [Fn.unmask, getLsbD_clearVector _ hv]; simp
    refine ⟨_, { (s.fn fn.toNat).unmask v with vPend := (s.fn fn.toNat).vPend &&& ~~~(BitVec.ofNat 3 (2 ^ v)) }, rfl, ?_, rfl, rfl,
      fun k hk => ⟨getLsbD_clearVector _ hk, getLsbD_clearVector _ hk⟩⟩
    have hsend := sendPending_sent (s := s.setFn fn.toNat ((s.fn fn.toNat).unmask v)) (n := fn.toNat) (v := v)
    rw [hfn, setFn_setFn] at hsend
    exact hsend hpend hmask rfl rfl (decodes_iff hd).2 hlink

/-! ## Power states (R489) -/

theorem exec_powerStateChange_d3 {s : State} {fn : BitVec 7} (h : s.present fn.toNat = true) :
    exec (.powerStateChange fn true) s = .next (s.setFn fn.toNat { s.fn fn.toNat with d3 := true }) := if_neg (by simp [h])

theorem exec_powerStateChange_d0 {s : State} {fn : BitVec 7} (h : s.present fn.toNat = true) :
    exec (.powerStateChange fn false) s = .next ((List.range 3).foldl (fun t v => t.sendPending fn.toNat v)
      (s.setFn fn.toNat { s.fn fn.toNat with d3 := false })) := if_neg (by simp [h])

/-- A function in which no message waits sends none. -/
theorem sendPending_foldl_of_none {s : State} {n : Nat} (h : (s.fn n).vPend = 0) (l : List Nat) :
    l.foldl (fun t v => t.sendPending n v) s = s := by
  induction l with
  | nil => rfl
  | cons v l ih => rw [List.foldl_cons, sendPending_held (.inl (by simp [h])), ih]

theorem decodes_of_d3 {s : State} {n : Nat} (h : (s.fn n).d3 = true) : s.decodes n = false := by simp [State.decodes, h]

/-- Settles O41: an access of a function in D3hot is not decoded (`decodes_of_d3`). -/
theorem powerStatesComplete : Obligations.PowerStatesComplete := by
  intro s fn hpresent
  refine ⟨exec_powerStateChange_d3 hpresent, fun hnone => ?_, fun hd3 v q => ?_⟩
  · rw [exec_powerStateChange_d0 hpresent, sendPending_foldl_of_none (by rw [fn_setFn_same]; exact hnone)]
  · have hd := decodes_of_d3 hd3
    refine ⟨if_neg (by simp [hd]), if_neg (by simp [hd]), if_neg (by simp [hd]), ?_, ?_, if_pos (by simp [hd])⟩
    · exact if_pos (by simp [hd3])
    · exact if_pos (by simp [hd3])

end Sys2Proof.Machine
end

section
/-! Mailbox commands (R499 to R509): the command of an admitted row is its performance on the state in which it has been taken; the
commands of module, mode and descriptor, and of plates, impressions and proof. -/

namespace Sys2Proof.Machine

/-- An instruction that is a mailbox command, where its row of R499 admits it and its first three checks (R493) pass. -/
theorem exec_admitted {i : Instr} {s t : State} {op : Nat} {m : MbCmd} {rules : State → Rules} {act : CmdRef → State → State}
    {remote : Bool} {modes : List Mode} {interval legacy sel len perm : Bool}
    (hexec : exec i s = .next (s.command op m rules act)) (h : s.Admits m remote modes interval legacy)
    (hrow : rules (s.taken op m) = (s.taken op m).row m sel len perm remote modes interval legacy)
    (hsel : sel = true) (hlen : len = true) (hperm : perm = true) (hact : act (refOf op m) (s.taken op m) = t) : exec i s = .next t := by
  rw [hexec, State.command_admitted h rules act sel len perm hrow hsel hlen hperm, hact]

/-! The order of the checks (R493): the first that fails answers. -/

section
variable {i : Instr} {s : State} {op : Nat} {m : MbCmd} {rules : State → Rules} {act : CmdRef → State → State}
  (hexec : exec i s = .next (s.command op m rules act)) (h : s.Takes m)
include hexec h

theorem exec_badOpcode (hsel : (rules (s.taken op m)).sel = false) : exec i s = .next (s.replied op m stBadOpcode []) := by
  rw [hexec, State.command_judged h, State.judged, if_pos (by simp [hsel])]
  rfl

theorem exec_badLength (hsel : (rules (s.taken op m)).sel = true) (hlen : (rules (s.taken op m)).len = false) :
    exec i s = .next (s.replied op m stBadLength []) := by
  rw [hexec, State.command_judged h, State.judged, if_neg (by simp [hsel]), if_pos (by simp [hlen])]
  rfl

theorem exec_notPermitted (hsel : (rules (s.taken op m)).sel = true) (hlen : (rules (s.taken op m)).len = true)
    (hperm : (rules (s.taken op m)).perm = false) : exec i s = .next (s.replied op m stNotPermitted []) := by
  rw [hexec, State.command_judged h, State.judged, if_neg (by simp [hsel]), if_neg (by simp [hlen]), if_pos (by simp [hperm])]
  rfl

theorem exec_wrongMode (hsel : (rules (s.taken op m)).sel = true) (hlen : (rules (s.taken op m)).len = true)
    (hperm : (rules (s.taken op m)).perm = true) (hmode : (rules (s.taken op m)).mode = false) :
    exec i s = .next (s.replied op m stWrongMode []) := by
  rw [hexec, State.command_judged h, State.judged, if_neg (by simp [hsel]), if_neg (by simp [hlen]), if_neg (by simp [hperm]),
    if_pos (by simp [hmode])]
  rfl

end

@[simp] theorem MbCmd.len_iff {m : MbCmd} {n : Nat} : m.len n = true ↔ m.length.toNat = n := by simp [MbCmd.len]
@[simp] theorem MbCmd.noBuf_iff {m : MbCmd} : m.noBuf = true ↔ m.buf = 0 := by simp [MbCmd.noBuf]
@[simp] theorem MbCmd.bufIs_iff {m : MbCmd} {n : Nat} : m.bufIs n = true ↔ m.buf = n := by simp [MbCmd.bufIs]
@[simp] theorem MbCmd.pf_iff {m : MbCmd} : m.pf = true ↔ m.dom = 0 := by simp [MbCmd.pf]

theorem noBuf_of_pos {m : MbCmd} (h : 1 ≤ m.buf) : m.noBuf = false := by simp [MbCmd.noBuf]; omega

theorem bufferOut_write {s : State} {c : CmdRef} {iova : Nat} {data : List Byte} {p : List (Nat × Nat)} (h : data ≠ []) :
    s.bufferOut c iova data p = s.newXfer (srcDom c.src) (.write c stOk p) false true iova data.length data :=
  if_neg (by simp [h])

/-! ## Module, mode and descriptor -/

section
variable {s : State} {m : MbCmd}

theorem exec_getInfo (h : s.Admits m true anyMode true true) (hlen : m.length.toNat = 0) (hbuf : m.buf = 0) :
    exec (.getInfo m) s = .next (s.replied 0x0001 m stOk (s.info m.dom)) :=
  exec_admitted rfl h rfl rfl (by simp [hlen, hbuf]) rfl (by rw [State.taken_infoOf]; rfl)

theorem exec_getHealth (h : s.Admits m true anyMode true true) (hlen : m.length.toNat = 0) (hbuf : m.buf = 0) :
    exec (.getHealth m) s = .next (s.replied 0x0002 m stOk [(0, fieldB s.faults.report 0 40)]) :=
  exec_admitted rfl h rfl rfl (by simp [hlen, hbuf]) rfl (by rw [State.taken_faults, MbCmd.noBuf_true hbuf]; rfl)

theorem exec_getHealth_buffer (h : s.Admits m true anyMode true true) (hlen : m.length.toNat = 0) (hbuf : m.buf = 64)
    (hreport : s.faults.report ≠ []) : exec (.getHealth m) s =
      .next (s.buffered 0x0002 m s.faults.report [(0, fieldB s.faults.report 0 40)]) :=
  exec_admitted rfl h rfl rfl (by simp [hlen, hbuf]) rfl
    (by rw [State.taken_faults, noBuf_of_pos (by omega)]; exact bufferOut_write hreport)

theorem exec_loadDescriptor (h : s.Admits m false [.standby, .service, .isolated] true false) (hlen : m.length.toNat = 4)
    (hbuf : m.buf = 16576) (hdom : m.dom = 0) (hidle : s.desc.reading = false) : exec (.loadDescriptor m) s =
      .next { s.reads 0x0010 m (.descriptor (tb (m.f 0 1) 0)) false with desc := { s.desc with reading := true } } :=
  exec_admitted rfl h rfl rfl (by simp [hlen, hbuf]) (by simp [hdom])
    ((if_neg (by simp [hidle])).trans (by rw [State.taken_desc]; rfl))

theorem exec_readDescriptor_none (h : s.Admits m false anyMode true true) (hlen : m.length.toNat = 0) (hbuf : m.buf = 16576)
    (hnone : s.desc.loaded = false) : exec (.readDescriptor m) s = .next (s.replied 0x0011 m stOk [(0, 0)]) :=
  exec_admitted rfl h rfl rfl (by simp [hlen, hbuf]) rfl (if_neg (by simp [hnone]))

theorem exec_readDescriptor (h : s.Admits m false anyMode true true) (hlen : m.length.toNat = 0) (hbuf : m.buf = 16576)
    (hloaded : s.desc.loaded = true) (hbytes : s.desc.bytes ≠ []) :
    exec (.readDescriptor m) s = .next (s.buffered 0x0011 m s.desc.bytes [(0, 1)]) :=
  exec_admitted rfl h rfl rfl (by simp [hlen, hbuf]) rfl
    ((if_pos (by simp [hloaded])).trans (by rw [State.taken_desc]; exact bufferOut_write hbytes))

/-! ### SET_MODE (R428, R502) -/

@[simp] theorem State.taken_mayName (s : State) (op m n) : (s.taken op m).mayName n = s.mayName n := by
  unfold State.taken State.take; cases (refOf op m).src <;> rfl

@[simp] theorem State.taken_modeCondition (s : State) (op m n force) : (s.taken op m).modeCondition n force = s.modeCondition n force := by
  unfold State.taken State.take; cases (refOf op m).src <;> rfl

@[simp] theorem State.taken_modeReply (s : State) (op m) : (s.taken op m).modeReply = s.modeReply := by
  unfold State.taken State.take; cases (refOf op m).src <;> rfl

@[simp] theorem State.taken_paired (s : State) (op m) : (s.taken op m).paired = s.paired := by
  unfold State.taken State.take; cases (refOf op m).src <;> rfl

/-- No change of mode waits, and Hold is not one that an overflow keeps (R434). -/
structure State.ModeFree (s : State) : Prop where
  pending : s.sys.modePending = none
  swap : s.pair.swap = none
  overflow : s.sys.mode = .hold → s.pair.solo = true → s.faults.overflow = false

theorem State.ModeFree.taken (h : s.ModeFree) (op : Nat) (m : MbCmd) : (s.taken op m).ModeFree :=
  ⟨by simp [h.pending], by simp [h.swap], by simpa using h.overflow⟩

section
variable {c : CmdRef} {n : Mode} {persist force : Bool}

theorem setMode_same (h : s.ModeFree) (hn : n = s.sys.mode) (hp : persist = false) :
    s.setMode c n persist force = s.answer c stOk s.modeReply := by
  unfold State.setMode
  rw [if_neg (by simp [h.pending, h.swap]), if_neg (fun k => absurd (h.overflow k.1 k.2.1) (by simp [k.2.2.1])), if_pos hn]
  exact if_neg (by simp [hp])

section
variable (h : s.ModeFree) (hn : n ≠ s.sys.mode) (hname : s.mayName n = true) (hcond : s.modeCondition n force = stOk)
include h hn hname hcond

theorem setMode_target (hnamed : n.named = true) (hheld : s.pair.held = false) (hsolo : s.pair.solo = false) :
    s.setMode c n persist force = ({ s with sys := { s.sys with target := n } } : State).answer c stOk [(0, s.sys.mode.num), (1, n.num)] := by
  unfold State.setMode
  rw [if_neg (by simp [h.pending, h.swap]), if_neg (fun k => absurd (h.overflow k.1 k.2.1) (by simp [k.2.2.1])), if_neg hn,
    if_neg (by simp [hname]), if_neg (by simp [hcond]), if_pos (by simp [hnamed, hheld, hsolo])]
  rfl

theorem setMode_waits (hleased : ¬ (n.named = true ∧ s.pair.held = false ∧ s.pair.solo = false))
    (hswap : ¬ (n = .standby ∧ s.pair.held = true ∧ s.paired = true ∧ s.partnerReady = true)) :
    s.setMode c n persist force = (s.modeAccept c n (persist && (n == .standby || n == .referee))).due (.setMode c n) := by
  unfold State.setMode
  rw [if_neg (by simp [h.pending, h.swap]), if_neg (fun k => absurd (h.overflow k.1 k.2.1) (by simp [k.2.2.1])), if_neg hn,
    if_neg (by simp [hname]), if_neg (by simp [hcond]), if_neg (by simpa [and_assoc] using hleased), if_neg hswap]

end
end

theorem exec_setMode {n : Mode} {t : State} (h : s.Admits m true anyMode false true) (hlen : m.length.toNat = 8) (hbuf : m.buf = 0) (hdom : m.dom = 0)
    (hn : Mode.ofNum (m.f 0 1) = some n)
    (ht : (s.taken 0x0003 m).setMode (refOf 0x0003 m) n (tb (m.f 1 1) 0) (tb (m.f 1 1) 1) = t) : exec (.setMode m) s = .next t :=
  exec_admitted rfl h rfl rfl (by simp [hlen, hbuf]) (by simp [hdom]) (by rw [hn]; exact ht)

end

/-- Settles O1: an equation per command and answer; those of SET_MODE go through the equations of `State.setMode`. -/
theorem moduleCommandsComplete : Obligations.ModuleCommandsComplete := by
  intro s m
  refine ⟨exec_getInfo, fun h hlen => ⟨exec_getHealth h hlen, exec_getHealth_buffer h hlen⟩, ?setMode, exec_loadDescriptor,
    fun h hlen hbuf => ⟨exec_readDescriptor_none h hlen hbuf, exec_readDescriptor h hlen hbuf⟩⟩
  intro n h hlen hbuf hdom hnum hpending hswap hoverflow
  have hfree := (State.ModeFree.mk hpending hswap hoverflow).taken 0x0003 m
  refine ⟨fun hn hpersist => ?_, fun hn hname hcond => ⟨fun hnamed hheld hsolo => ?_, fun hleased hplanned => ?_⟩⟩
  · refine exec_setMode h hlen hbuf hdom hnum ((setMode_same hfree (by simpa using hn) hpersist).trans ?_)
    rw [State.taken_modeReply, hn]
    rfl
  · refine exec_setMode h hlen hbuf hdom hnum ((setMode_target hfree (by simpa using hn) (by simpa using hname) (by simpa using hcond)
      hnamed (by simpa using hheld) (by simpa using hsolo)).trans ?_)
    rw [State.taken_sys_mode]
    rfl
  · refine exec_setMode h hlen hbuf hdom hnum ((setMode_waits hfree (by simpa using hn) (by simpa using hname) (by simpa using hcond)
      (by simpa using hleased) (by simpa using hplanned)).trans ?_)
    rw [State.due, State.modeAccept, State.taken_atTick]

/-! ## Plates (R505 to R507) -/

section
variable {s : State} {m : MbCmd}

theorem plateSpan_iff {m : MbCmd} : plateSpan m = true ↔ m.f 0 2 < 512 ∧ (1 ≤ m.buf ∧ m.buf ≤ 4096) ∧ m.f 2 2 + m.buf ≤ 4096 := by
  simp [plateSpan, and_assoc]

theorem exec_plateWrite (h : s.Admits m false anyNoRf false true) (hlen : m.length.toNat = 8) (hplate : m.f 0 2 < 480) (hpos : 1 ≤ m.buf)
    (hend : m.f 2 2 + m.buf ≤ 4096) (hwin : s.inWindow m.dom (m.f 0 2) = true) :
    exec (.plateWrite m) s = .next (s.reads 0x0020 m (.plate (m.f 0 2) (m.f 2 2)) (tb (m.f 4 1) 0)) :=
  exec_admitted rfl h rfl rfl (by simp only [Bool.and_eq_true, MbCmd.len_iff, plateSpan_iff]; omega) (by simp [hwin, hplate]) rfl

theorem exec_plateRead (h : s.Admits m false anyNoRf false true) (hlen : m.length.toNat = 8) (hplate : m.f 0 2 < 512) (hpos : 1 ≤ m.buf)
    (hend : m.f 2 2 + m.buf ≤ 4096)
    (hwin : s.inWindow m.dom (m.f 0 2) = true ∨ m.dom = 0 ∧ 480 ≤ m.f 0 2 ∧ s.legacyGeo = false) : exec (.plateRead m) s = .next
      { s.taken 0x0021 m with atTick := s.atTick ++ [.plateCopy (refOf 0x0021 m) m.iova (m.f 0 2) (m.f 2 2) m.buf] } :=
  exec_admitted rfl h rfl rfl (by simp only [Bool.and_eq_true, MbCmd.len_iff, plateSpan_iff]; omega) (by simpa [and_assoc] using hwin)
    (by rw [State.due, State.taken_atTick])

/-- A base that a route may name: the default plates, or a slot in the window (R506). -/
def State.RouteBase (s : State) (m : MbCmd) : Prop :=
  m.f 2 2 = 0xFFFE ∨ m.f 2 2 = 0xFFFF ∨ m.f 2 2 < 512 ∧ s.inWindow m.dom (m.f 2 2) = true

theorem routeNames_of_base (hplate : m.f 0 2 < 480) (hbase : s.RouteBase m) : routeNames m = true := by
  simp only [routeNames, Bool.and_eq_true, Bool.or_eq_true, decide_eq_true_eq]
  rcases hbase with h | h | ⟨h, -⟩ <;> omega

theorem routeWindow_of_base (hplate : m.f 0 2 < 480) (hwin : s.inWindow m.dom (m.f 0 2) = true) (hbase : s.RouteBase m) (op : Nat) :
    (s.taken op m).routeWindow m = true := by
  simp only [State.routeWindow, State.taken_inWindow, hwin, hplate, Bool.and_eq_true, Bool.or_eq_true, decide_eq_true_eq, true_and]
  rcases hbase with h | h | ⟨-, h⟩
  · exact .inl (by omega)
  · exact .inl (by omega)
  · exact .inr h

theorem submit_queued {c : CmdRef} {dest base : Nat} {delta : Option (List Change)} (hloaded : s.desc.loaded = true)
    (hroom : s.burin.queue.length + bit s.burin.running.isSome < 9) : s.submit c dest base delta =
      { s with burin := { s.burin with queue := s.burin.queue ++ [{ dest := dest, base := base, delta := delta, owner := .cmd c }] } } := by
  unfold State.submit
  rw [if_neg (by simp [hloaded]), if_neg (by omega)]

theorem exec_plateRoute (h : s.Admits m false anyNoRf false true) (hlen : m.length.toNat = 4) (hbuf : m.buf = 0) (hplate : m.f 0 2 < 480)
    (hwin : s.inWindow m.dom (m.f 0 2) = true) (hbase : s.RouteBase m) (hloaded : s.desc.loaded = true)
    (hroom : s.burin.queue.length + bit s.burin.running.isSome < 9) : exec (.plateRoute m) s = .next
      { s.taken 0x0022 m with
        burin := { s.burin with
          queue := s.burin.queue ++ [{ dest := m.f 0 2, base := m.f 2 2, delta := none, owner := .cmd (refOf 0x0022 m) }] } } :=
  exec_admitted rfl h rfl rfl (by simp [hlen, hbuf, routeNames_of_base hplate hbase]) (routeWindow_of_base hplate hwin hbase _)
    ((submit_queued (by simpa using hloaded) (by simpa using hroom)).trans (by rw [State.taken_burin]))

section
variable (h : s.Admits m false anyNoRf false false) (hplate : m.f 0 2 < 480) (hwin : s.inWindow m.dom (m.f 0 2) = true)
  (hbase : s.RouteBase m) (hloaded : s.desc.loaded = true)
include h hplate hwin hbase hloaded

theorem exec_plateRouteDelta_inline (hbuf : m.buf = 0) (hpos : 1 ≤ m.f 4 2) (hmax : m.f 4 2 ≤ 4) (hlen : m.length.toNat = 8 + 8 * m.f 4 2)
    (hactions : actionsOk (inlineChanges m (m.f 4 2)) = true) (hports : portsOk (inlineChanges m (m.f 4 2)) = true)
    (hmask : s.changesMask m.dom (inlineChanges m (m.f 4 2)) = true) (hroom : s.burin.queue.length + bit s.burin.running.isSome < 9) :
    exec (.plateRouteDelta m) s = .next
      { s.taken 0x0023 m with
        burin := { s.burin with
          queue := s.burin.queue ++ [{ dest := m.f 0 2, base := m.f 2 2, delta := some (inlineChanges m (m.f 4 2)),
                                       owner := .cmd (refOf 0x0023 m) }] } } := by
  have hinline := MbCmd.noBuf_true hbuf
  have hlist : (if (m.noBuf && (decide (1 ≤ m.f 4 2) && if m.noBuf = true then decide (m.f 4 2 ≤ 4) else decide (m.f 4 2 ≤ 512))) = true
      then inlineChanges m (m.f 4 2) else []) = inlineChanges m (m.f 4 2) := if_pos (by simp [hinline, hpos, hmax])
  refine exec_admitted (congrArg Host.Outcome.next (State.plateRouteDelta.eq_1 m s)) h rfl (by rw [hlist]; exact hactions) ?_ ?_ ?_
  · simp [hbuf, hlen, hpos, hmax, hports, routeNames_of_base hplate hbase]
  · simp [hbuf, hpos, hmax, hmask, routeWindow_of_base hplate hwin hbase]
  · rw [if_pos hinline, hlist, submit_queued (by simpa using hloaded) (by simpa using hroom), State.taken_burin]

theorem exec_plateRouteDelta_buffer (hbuf : m.buf = 8 * m.f 4 2) (hpos : 1 ≤ m.f 4 2) (hmax : m.f 4 2 ≤ 512) (hlen : m.length.toNat = 8) :
    exec (.plateRouteDelta m) s = .next (s.reads 0x0023 m (.changes (m.f 0 2) (m.f 2 2)) false) := by
  have hinline : m.noBuf = false := noBuf_of_pos (by omega)
  refine exec_admitted (congrArg Host.Outcome.next (State.plateRouteDelta.eq_1 m s)) h rfl (by simp [hinline, actionsOk]) ?_ ?_ ?_
  · simp [hinline, hlen, hpos, hmax, hbuf, portsOk, routeNames_of_base hplate hbase]
  · simp [hinline, State.changesMask, routeWindow_of_base hplate hwin hbase]
  · simp only [hinline]
    exact (if_neg (by simp)).trans ((if_neg (by simp [hloaded])).trans rfl)

end

/-! ## Impressions and proof (R508, R509) -/

/-- What IMPRESS arms, before its snapshot read starts. -/
def State.asked (s : State) (c : CmdRef) (plate trigger time : Nat) (strict : Bool) : Armed :=
  { source := 2, trigger := if trigger = 0 then .asap else if trigger = 1 then .atTime else .onSync, plate := plate,
    due := if trigger = 0 then some s.ns else if trigger = 1 then some time else none, order := 0,
    strict := strict && decide (trigger = 1), late := false, cmd := some c, batch := none, frame := none, read := none, snap := none }

theorem armImpress_armed {c : CmdRef} {plate trigger time : Nat} {strict : Bool} (hroom : s.sharedTaken < 4)
    (hsync : trigger = 2 → s.imp.armed.all (fun a => a.trigger != .onSync) = true)
    (hlate : trigger = 1 → strict = true → s.clk.frame + 2 ≤ ceilDiv time 2000) :
    ∃ r, (s.armImpress c plate trigger time strict).imp.armed =
        s.imp.armed ++ [{ s.asked c plate trigger time strict with read := r, order := s.imp.order }] ∧
      (trigger ≠ 1 → r.isSome = true) := by
  have hbusy : ¬ (4 ≤ s.sharedTaken ∨ (trigger = 2 ∧ s.imp.armed.any (fun x => decide (x.trigger = .onSync)))) := by
    rintro (h | ⟨h2, hany⟩)
    · omega
    · obtain ⟨x, hx, hxs⟩ := List.any_eq_true.mp hany
      exact absurd (List.all_eq_true.mp (hsync h2) x hx) (by simp [of_decide_eq_true hxs])
  have htime : ¬ ((s.asked c plate trigger time strict).strict ∧
      (s.asked c plate trigger time strict).dueFrame < s.clk.frame + 1 + bit s.clk.committed) := by
    rintro ⟨hs, hdue⟩
    obtain ⟨hs, h1⟩ : strict = true ∧ trigger = 1 := by simpa [State.asked] using hs
    have hframe : (s.asked c plate trigger time strict).dueFrame = ceilDiv time 2000 := by simp [State.asked, Armed.dueFrame, h1]
    have := hlate h1 hs
    have hbit : bit s.clk.committed ≤ 1 := by cases s.clk.committed <;> decide
    omega
  unfold State.armImpress
  extract_lets next tr a
  rw [if_neg hbusy, if_neg (show ¬ (a.strict ∧ a.dueFrame < next) from htime)]
  split
  · next h => exact ⟨none, rfl, fun hn => absurd h.1 hn⟩
  · exact ⟨_, rfl, fun _ => rfl⟩

theorem exec_impress (h : s.Admits m true [.standby, .active, .legacy] false true) (hlen : m.length.toNat = 16) (hbuf : m.buf = 0)
    (hplate : m.f 0 2 < 512) (htrigger : m.f 2 1 ≤ 2) (hwin : s.inWindow m.dom (m.f 0 2) = true)
    (hdomain : m.dom = 0 ∨ (s.domain m.dom).impressEn = true) (hheld : s.pair.held = true) : exec (.impress m) s = .next
      ((s.taken 0x0024 m).armImpress (refOf 0x0024 m) (m.f 0 2) (m.f 2 1) (m.f 8 8) (tb (m.f 3 1) 0)) :=
  exec_admitted rfl h rfl (by simp [htrigger]) (by simp [hlen, hbuf, hplate]) (by simpa [hwin] using hdomain) (if_neg (by simp [hheld]))

theorem exec_proofRead_none (h : s.Admits m false anyNoRf false true) (hlen : m.length.toNat = 4) (hbuf : m.buf = 576)
    (hnone : s.proofRec (m.f 0 4) = none) : exec (.proofRead m) s = .next (s.replied 0x0025 m stOk [(0, 0)]) :=
  exec_admitted rfl h rfl rfl (by simp [hlen, hbuf]) rfl (by rw [State.taken_proofRec, hnone]; rfl)

theorem exec_proofRead {r : ProofRec} (h : s.Admits m false anyNoRf false true) (hlen : m.length.toNat = 4) (hbuf : m.buf = 576)
    (hrec : s.proofRec (m.f 0 4) = some r) (hbytes : r.bytes (fun i => m.pf || s.inMask m.dom i) ≠ []) : exec (.proofRead m) s =
      .next (s.buffered 0x0025 m (r.bytes (fun i => m.pf || s.inMask m.dom i)) [(0, 1 + 2 * bit (s.recFinal r))]) :=
  exec_admitted rfl h rfl rfl (by simp [hlen, hbuf]) rfl
    (by simp only [State.taken_proofRec, hrec, State.taken_inMask, State.taken_recFinal]; exact bufferOut_write hbytes)

end

/-- Settles O2: an equation per command and answer; what IMPRESS arms is `armImpress_armed`. -/
theorem plateCommandsComplete : Obligations.PlateCommandsComplete := by
  intro s m
  refine ⟨exec_plateWrite, exec_plateRead, exec_plateRoute, fun h hplate hwin hbase hloaded => ⟨?_, ?_⟩,
    fun h hlen hbuf hplate htrigger hwin hdomain hheld hroom hsync hlate => ?_,
    fun h hlen hbuf => ⟨exec_proofRead_none h hlen hbuf, fun _ => exec_proofRead h hlen hbuf⟩⟩
  · exact exec_plateRouteDelta_inline h hplate hwin hbase hloaded
  · exact exec_plateRouteDelta_buffer h hplate hwin hbase hloaded
  · obtain ⟨r, harmed, hread⟩ := armImpress_armed (s := s.taken 0x0024 m) (c := refOf 0x0024 m) (plate := m.f 0 2) (trigger := m.f 2 1)
      (time := m.f 8 8) (strict := tb (m.f 3 1) 0) (by simpa using hroom) (by simpa using hsync) (by simpa using hlate)
    rw [State.taken_imp] at harmed
    refine ⟨_, _, exec_impress h hlen hbuf hplate htrigger hwin hdomain hheld, harmed, rfl, rfl, rfl, rfl, rfl, rfl, ?_, hread⟩
    rw [State.asked, State.taken_ns]

end Sys2Proof.Machine
end

section
/-! Mailbox commands of the slot table, the gate, domains and queues (R510 to R517). -/

namespace Sys2Proof.Machine

theorem taken_due (s : State) (op : Nat) (m : MbCmd) (o : TickOp) :
    (s.taken op m).due o = { s.taken op m with atTick := s.atTick ++ [o] } := by rw [State.due, State.taken_atTick]

theorem taken_dueNow (s : State) (op : Nat) (m : MbCmd) (o : TickOp) (p : List (Nat × Nat)) : (s.taken op m).dueNow (refOf op m) o p =
    ({ s.taken op m with atTick := s.atTick ++ [o] } : State).thenReplied op m stOk p := by
  rw [State.dueNow, taken_due, State.thenReplied]

theorem taken_dueThen (s : State) (op : Nat) (m : MbCmd) (o : TickOp) : (s.taken op m).dueThen (refOf op m) o =
    { s.taken op m with atTick := s.atTick ++ [o, .answer (refOf op m) stOk 0 0 []] } := by
  rw [State.dueThen, taken_due, State.answerDue, State.due, List.append_assoc]
  rfl

/-! ## Slot table and gate (R510 to R512) -/

section
variable {s : State} {m : MbCmd}

section
variable (h : s.Admits m false anyNoRf false true) (hdom : m.dom = 0) (hbank : m.f 0 1 ≤ 1) (hpos : 1 ≤ m.f 4 2)
  (hend : m.f 2 2 + m.f 4 2 ≤ 512) (hlive : decide (m.f 0 1 = 1) ≠ s.sched.active ∨ tb (m.f 1 1) 0 = true)
include h hdom hbank hpos hend hlive

theorem exec_slotTableWrite_inline (hbuf : m.buf = 0) (hmax : m.f 4 2 ≤ 3) (hlen : m.length.toNat = 8 + 8 * m.f 4 2) :
    exec (.slotTableWrite m) s = .next
      (({ s.taken 0x0030 m with
          atTick := s.atTick ++ [.slots (decide (m.f 0 1 = 1)) (m.f 2 2) ((List.range (m.f 4 2)).map (fun k => m.f (8 + 8 * k) 8))] }
        : State).thenReplied 0x0030 m stOk []) := by
  refine exec_admitted (congrArg Host.Outcome.next (State.slotWrite.eq_1 m s)) h rfl rfl (by simp [hbank, hpos, hend, hbuf, hmax, hlen])
    (by simp [hdom]) ?_
  rw [if_neg (by simpa using fun h => hlive.resolve_left (not_not_intro h)), if_pos (by simp [hbuf]), taken_dueNow]

theorem exec_slotTableWrite_buffer (hbuf : m.buf = 8 * m.f 4 2) (hlen : m.length.toNat = 8) :
    exec (.slotTableWrite m) s = .next (s.reads 0x0030 m (.slots (decide (m.f 0 1 = 1)) (m.f 2 2)) false) := by
  have hinline : m.noBuf = false := noBuf_of_pos (by omega)
  refine exec_admitted (congrArg Host.Outcome.next (State.slotWrite.eq_1 m s)) h rfl rfl (by simp [hbank, hpos, hend, hbuf, hinline, hlen])
    (by simp [hdom]) ?_
  rw [if_neg (by simpa using fun h => hlive.resolve_left (not_not_intro h)), if_neg (by simp [hinline])]
  rfl

end

/-- An operation on the slot table that is accepted in its time (R290). -/
def State.swapOp (s : State) (c : CmdRef) (op : Nat) (bank : Bool) (at_ : Nat) : State :=
  { s with sched := { s.sched with op := some { op := op, cmd := c, bank := bank, late := false, accepted := s.clk.frame, at_ := at_,
                                                latched := false, fire := 0, old := false } } }

section
variable {c : CmdRef} {timed strict bank : Bool} {time : Nat} (hop : s.sched.op = none)
include hop

theorem slotSwap_start (hrun : s.sched.running = false) (hnext : s.sched.next = none)
    (htime : timed = true → s.clk.frame + 2 ≤ ceilDiv time 2000) : s.slotSwap c 1 timed strict bank time =
      s.swapOp c 1 bank (if timed then ceilDiv time 2000 else s.clk.frame + 2) := by
  unfold State.slotSwap
  extract_lets a due running src put started
  have hstarted : ¬ started = true := by simp [started, running, hrun, hnext]
  rw [if_neg (by simp [hop]), if_pos rfl, if_neg hstarted, if_neg (by simpa [due, a] using htime)]
  rfl

theorem slotSwap_stop (hrun : s.sched.running = true) : s.slotSwap c 2 timed strict bank time = s.swapOp c 2 bank 0 := by
  unfold State.slotSwap
  extract_lets a due running src put started
  have hstarted : started = true := by simp [started, running, hrun]
  rw [if_neg (by simp [hop]), if_neg (by decide), if_pos rfl, if_neg (by simp [hstarted])]
  rfl

theorem slotSwap_stopped (hrun : s.sched.running = false) (hnext : s.sched.next = none) : s.slotSwap c 2 timed strict bank time =
    s.answer c stOk [(0, s.frame32), (4, s.sched.cycle), (8, bit s.sched.active)] := by
  unfold State.slotSwap
  extract_lets a due running src put started
  have hstarted : ¬ started = true := by simp [started, running, hrun, hnext]
  rw [if_neg (by simp [hop]), if_neg (by decide), if_pos rfl, if_pos (by simp [hstarted])]

theorem slotSwap_swap
    (hrunning : timed = true → s.sched.running = true → ∀ b, s.sched.boundary = some b → b < ceilDiv time 2000)
    (hstopped : timed = true → s.sched.running = false → s.clk.frame < ceilDiv time 2000) : s.slotSwap c 0 timed strict bank time =
      s.swapOp c 0 bank (if timed then ceilDiv time 2000 else 0) := by
  unfold State.slotSwap
  extract_lets a due running src put started
  rw [if_neg (by simp [hop]), if_neg (by decide), if_neg (by decide)]
  cases hrun : s.sched.running with
  | false =>
    rw [if_neg (by simp [running, hrun]), if_neg (by simpa [due, a] using fun ht => hstopped ht hrun)]
    rfl
  | true =>
    rw [if_pos hrun]
    cases hb : s.sched.boundary with
    | none => rw [if_neg (by simp)]; rfl
    | some b => rw [if_neg (by simpa [due] using fun ht => hrunning ht hrun b hb)]; rfl

end

theorem exec_slotTableSwap {t : State} (h : s.Admits m true anyNoRf false true) (hdom : m.dom = 0) (hlen : m.length.toNat = 16)
    (hbuf : m.buf = 0) (hop : m.f 0 1 ≤ 2) (hbank : m.f 0 1 = 1 → m.f 2 1 ≤ 1)
    (ht : (s.taken 0x0031 m).slotSwap (refOf 0x0031 m) (m.f 0 1) (tb (m.f 1 1) 0) (tb (m.f 1 1) 1) (decide (m.f 2 1 = 1)) (m.f 8 8) = t) :
    exec (.slotTableSwap m) s = .next t :=
  exec_admitted rfl h rfl (by simp [hop]) (by simpa [hlen, hbuf, or_iff_not_imp_left] using hbank) (by simp [hdom]) ht

theorem taken_swapOp (op : Nat) (c : CmdRef) (k : Nat) (bank : Bool) (at_ : Nat) : (s.taken op m).swapOp c k bank at_ =
    { s.taken op m with sched := (s.swapOp c k bank at_).sched } := by
  have hsched : ((s.taken op m).swapOp c k bank at_).sched = (s.swapOp c k bank at_).sched := by
    simp only [State.swapOp, State.taken_sched, State.taken_clk]
  rw [← hsched]
  rfl

theorem gatesNext_due {x y z : Nat} (htick : s.atTick = []) : (s.due (.gate x y z)).gatesNext =
    (orKeep x s.sched.batchMax, orKeep y s.sched.budget, orKeep z s.sched.deferMax) := by
  simp only [State.gatesNext, State.due, htick]
  rfl

theorem exec_gateConfig (h : s.Admits m true anyNoRf false true) (hdom : m.dom = 0) (hlen : m.length.toNat = 8) (hbuf : m.buf = 0)
    (htick : s.atTick = []) : exec (.gateConfig m) s = .next
      (({ s.taken 0x0032 m with atTick := [.gate (m.f 0 1) (m.f 1 1) (m.f 2 2)] } : State).thenReplied 0x0032 m stOk
        [(0, if m.f 0 1 = 0 then s.sched.batchMax else m.f 0 1), (1, if m.f 1 1 = 0 then s.sched.budget else m.f 1 1),
         (2, if m.f 2 2 = 0 then s.sched.deferMax else m.f 2 2)]) := by
  refine exec_admitted rfl h rfl rfl (by simp [hlen, hbuf]) (by simp [hdom]) ?_
  have hgates := gatesNext_due (s := s.taken 0x0032 m) (x := m.f 0 1) (y := m.f 1 1) (z := m.f 2 2) (by simpa using htick)
  rw [State.taken_sched] at hgates
  dsimp only
  rw [hgates, taken_due, htick]
  rfl

/-! ## Domains and queues (R513, R516) -/

section
variable (h : s.Admits m false anyNoRf false false) (hlen : m.length.toNat = 24) (hbuf : m.buf = 0) (hd : m.f 0 1 < 128)
include h hlen hbuf hd

theorem exec_domainConfig {t : State} (hop : m.f 1 1 ≤ 3) (hwindow : m.f 1 1 = 0 → m.f 0x10 2 + m.f 0x12 2 ≤ 480)
    (hperm : (if m.f 1 1 % 2 = 0 then m.pf else decide (m.f 0 1 = m.dom)) = true)
    (ht : (if m.f 1 1 = 0 then (s.taken 0x0040 m).dueNow (refOf 0x0040 m) (.domain (m.f 0 1) m.payload.toNat) []
      else if m.f 1 1 = 1 then
        if ((s.taken 0x0040 m).domain (m.f 0 1)).cReserved ≠ 0 ∨
          ((s.taken 0x0040 m).domain (m.f 0 1)).cHead ≠ ((s.taken 0x0040 m).domain (m.f 0 1)).cWrite then
          (s.taken 0x0040 m).answer (refOf 0x0040 m) stBusy []
        else (s.taken 0x0040 m).dueNow (refOf 0x0040 m) (.ring (m.f 0 1) (fld (m.f 8 8) 12 36 * 4096) (m.f 0x10 2 % 32)) []
      else (s.taken 0x0040 m).answer (refOf 0x0040 m) stOk
        (if m.f 1 1 = 2 then (s.taken 0x0040 m).policyReply (m.f 0 1) else (s.taken 0x0040 m).ringReply (m.f 0 1))) = t) :
    exec (.domainConfig m) s = .next t :=
  exec_admitted (congrArg Host.Outcome.next (State.domainConfig.eq_1 m s)) h rfl (by simp [hop])
    (by simpa [hlen, hbuf, hd, or_iff_not_imp_left] using hwindow) hperm ht

theorem exec_domainConfig_policy (hop : m.f 1 1 = 0) (hdom : m.dom = 0) (hwindow : m.f 0x10 2 + m.f 0x12 2 ≤ 480) :
    exec (.domainConfig m) s = .next
      (({ s.taken 0x0040 m with atTick := s.atTick ++ [.domain (m.f 0 1) m.payload.toNat] } : State).thenReplied 0x0040 m stOk []) :=
  exec_domainConfig h hlen hbuf hd (by omega) (fun _ => hwindow) (by simp [hop, hdom]) ((if_pos hop).trans (taken_dueNow ..))

theorem exec_domainConfig_ring (hop : m.f 1 1 = 1) (hdom : m.f 0 1 = m.dom) (hreserved : (s.domain m.dom).cReserved = 0)
    (hhead : (s.domain m.dom).cHead = (s.domain m.dom).cWrite) : exec (.domainConfig m) s = .next
      (({ s.taken 0x0040 m with
          atTick := s.atTick ++ [.ring m.dom (fld (m.f 8 8) 12 36 * 4096) (m.f 0x10 2 % 32)] } : State).thenReplied 0x0040 m stOk []) := by
  refine exec_domainConfig h hlen hbuf hd (by omega) (fun h0 => by omega) (by simp [hop, hdom]) ?_
  rw [if_neg (by omega), if_pos hop, if_neg (by simp [hdom, hreserved, hhead]), taken_dueNow, hdom]

theorem exec_domainConfig_readPolicy (hop : m.f 1 1 = 2) (hdom : m.dom = 0) :
    exec (.domainConfig m) s = .next (s.replied 0x0040 m stOk (s.policyReply (m.f 0 1))) := by
  refine exec_domainConfig h hlen hbuf hd (by omega) (fun h0 => by omega) (by simp [hop, hdom]) ?_
  rw [if_neg (by omega), if_neg (by omega), if_pos hop, State.taken_policyReply]
  rfl

theorem exec_domainConfig_readRing (hop : m.f 1 1 = 3) (hdom : m.f 0 1 = m.dom) :
    exec (.domainConfig m) s = .next (s.replied 0x0040 m stOk (s.ringReply m.dom)) := by
  refine exec_domainConfig h hlen hbuf hd (by omega) (fun h0 => by omega) (by simp [hop, hdom]) ?_
  rw [if_neg (by omega), if_neg (by omega), if_neg (by omega), State.taken_ringReply, hdom]
  rfl

end

section
variable (h : s.Admits m false anyNoRf false true) (hlen : m.length.toNat = 16) (hbuf : m.buf = 0) (hi : m.f 0 2 < 512)
  (hmask : s.inMask m.dom (m.f 0 2) = true)
include h hlen hbuf hi hmask

theorem exec_queueConfig_read (hop : m.f 2 1 = 1) :
    exec (.queueConfig m) s = .next (s.replied 0x0041 m stOk [(0, (s.queue m.dom (m.f 0 2)).word.toNat)]) :=
  exec_admitted (congrArg Host.Outcome.next (State.queueConfig.eq_1 m s)) h rfl (by simp [hop]) (by simp [hlen, hbuf, hi]) (by simp [hmask])
    ((if_pos hop).trans (by rw [State.taken_queue]; rfl))

theorem exec_queueConfig_set (hop : m.f 2 1 = 0)
    (hidle : (s.queue m.dom (m.f 0 2)).on = false ∨ (s.queue m.dom (m.f 0 2)).head = (s.queue m.dom (m.f 0 2)).tail ∧
      (s.queue m.dom (m.f 0 2)).get 96 3 = 0 ∧ (s.queue m.dom (m.f 0 2)).inFlight = false) : exec (.queueConfig m) s = .next
      { s.taken 0x0041 m with atTick := s.atTick ++ [.queue (refOf 0x0041 m) m.dom (m.f 0 2) (m.f 8 8)] } := by
  refine exec_admitted (congrArg Host.Outcome.next (State.queueConfig.eq_1 m s)) h rfl (by simp [hop]) (by simp [hlen, hbuf, hi])
    (by simp [hmask]) ?_
  rw [if_neg (by omega), State.taken_queue, if_neg, taken_due]
  rcases hidle with hoff | ⟨hhead, hstate, hflight⟩
  · simp [hoff]
  · simp [hhead, hstate, hflight]

end
end

/-- Settles O3: an equation per command and operation; those of SLOT_TABLE_SWAP go through the equations of `State.slotSwap`, and
QUEUE_RESET is `exec_queueReset`. -/
theorem scheduleCommandsComplete : Obligations.ScheduleCommandsComplete := by
  intro s m
  refine ⟨fun h hdom hbank hpos hend hlive => ⟨exec_slotTableWrite_inline h hdom hbank hpos hend hlive,
    exec_slotTableWrite_buffer h hdom hbank hpos hend hlive⟩, fun h hdom hlen hbuf hnone => ?swap, exec_gateConfig,
    fun h hlen hbuf hd => ⟨exec_domainConfig_policy h hlen hbuf hd, exec_domainConfig_ring h hlen hbuf hd,
      exec_domainConfig_readPolicy h hlen hbuf hd, exec_domainConfig_readRing h hlen hbuf hd⟩,
    fun h hlen hbuf hi hmask => ⟨exec_queueConfig_read h hlen hbuf hi hmask, exec_queueConfig_set h hlen hbuf hi hmask⟩, exec_queueReset⟩
  have hnone' : (s.taken 0x0031 m).sched.op = none := by simpa using hnone
  refine ⟨fun hop hbank hrun hnext htime => ?_, fun hop hrun => ?_, fun hop hrun hnext => ?_, fun hop hrunning hstopped => ?_⟩
  · refine exec_slotTableSwap h hdom hlen hbuf (by omega) (fun _ => hbank) ?_
    rw [hop, slotSwap_start hnone' (by simpa using hrun) (by simpa using hnext) (by simpa using htime), taken_swapOp, State.taken_clk]
    rfl
  · refine exec_slotTableSwap h hdom hlen hbuf (by omega) (fun h1 => by omega) ?_
    rw [hop, slotSwap_stop hnone' (by simpa using hrun), taken_swapOp]
    rfl
  · refine exec_slotTableSwap h hdom hlen hbuf (by omega) (fun h1 => by omega) ?_
    rw [hop, slotSwap_stopped hnone' (by simpa using hrun) (by simpa using hnext), State.taken_frame32, State.taken_sched]
    rfl
  · refine exec_slotTableSwap h hdom hlen hbuf (by omega) (fun h1 => by omega) ?_
    rw [hop, slotSwap_swap hnone' (by simpa using hrunning) (by simpa using hstopped), taken_swapOp]
    rfl

end Sys2Proof.Machine
end

section
/-! Mailbox commands of loops and channels (R518 to R524). -/

namespace Sys2Proof.Machine

section
variable {s : State} {m : MbCmd}

/-! ## Loops (R518 to R521) -/

theorem exec_loopConfig (h : s.Admits m false anyNoRf false true) (hdom : m.dom = 0) (hlen : m.length.toNat = 16) (hbuf : m.buf = 0)
    (hitem : 1 ≤ m.f 4 1) (hitem' : m.f 4 1 ≤ 7) (hpos : 1 ≤ m.f 2 2) (hend : m.f 0 2 + m.f 2 2 ≤ 10240)
    (hsize : m.f 4 1 = 7 → (m.f 5 1 = 1 ∨ m.f 5 1 = 2 ∨ m.f 5 1 = 4) ∧ m.f 6 1 + m.f 5 1 ≤ 64) :
    exec (.loopConfig m) s = .next
      { s.taken 0x0050 m with
        atTick := s.atTick ++ [.loop (refOf 0x0050 m) (m.f 0 2) (m.f 2 2) (m.f 4 1) (m.f 5 1) (m.f 6 1) (m.f 8 4) (m.f 12 4)] } :=
  exec_admitted (congrArg Host.Outcome.next (State.loopConfig.eq_1 m s)) h rfl (by simp [hitem, hitem'])
    (by simpa [hlen, hbuf, hpos, hend, or_iff_not_imp_left] using hsize) (by simp [hdom]) (taken_due ..)

theorem exec_loopRead (h : s.Admits m false anyNoRf false true) (hdom : m.dom = 0) (hlen : m.length.toNat = 4) (hpos : 1 ≤ m.f 2 2)
    (hend : m.f 0 2 + m.f 2 2 ≤ 10240) (hbuf : m.buf = 64 * m.f 2 2) : exec (.loopRead m) s = .next
      { s.taken 0x0051 m with atTick := s.atTick ++ [.loopRead (refOf 0x0051 m) m.iova (m.f 0 2) (m.f 2 2)] } :=
  exec_admitted (congrArg Host.Outcome.next (State.loopReadCmd.eq_1 m s)) h rfl rfl (by simp [hlen, hpos, hend, hbuf]) (by simp [hdom])
    (taken_due ..)

section
variable (h : s.Admits m false anyNoRf false true) (hdom : m.dom = 0) (hlen : m.length.toNat = 12)
include h hdom hlen

theorem exec_toneAssign_default (hdflt : tb (m.f 4 1) 0 = true) (hbuf : m.buf = 0) : exec (.toneAssign m) s = .next
    { s.taken 0x0052 m with atTick := s.atTick ++ [.toneDefault, .answer (refOf 0x0052 m) stOk 0 0 []] } :=
  exec_admitted (congrArg Host.Outcome.next (State.toneAssign.eq_1 m s)) h rfl rfl (by simp [hlen, hdflt, hbuf]) (by simp [hdom])
    ((if_pos hdflt).trans (taken_dueThen ..))

section
variable (hdflt : tb (m.f 4 1) 0 = false) (hfirst : 4608 ≤ m.f 0 2) (hpos : 1 ≤ m.f 2 2) (hend : m.f 0 2 + m.f 2 2 ≤ 10240)
include hdflt hfirst hpos hend

theorem exec_toneAssign_uniform (huniform : tb (m.f 4 1) 1 = true) (hbuf : m.buf = 0) : exec (.toneAssign m) s = .next
    { s.taken 0x0052 m with
      atTick := s.atTick ++
        [.tones ((List.range (m.f 2 2)).map (fun k => (m.f 0 2 + k, m.f 5 1 % 64, m.f 6 1, m.f 8 2 % 1024))),
         .answer (refOf 0x0052 m) stOk 0 0 []] } :=
  exec_admitted (congrArg Host.Outcome.next (State.toneAssign.eq_1 m s)) h rfl rfl
    (by simp [hlen, hdflt, huniform, hbuf, hfirst, hpos, hend]) (by simp [hdom])
    ((if_neg (by simp [hdflt])).trans ((if_pos huniform).trans (taken_dueThen ..)))

theorem exec_toneAssign_buffer (huniform : tb (m.f 4 1) 1 = false) (hbuf : m.buf = 4 * m.f 2 2) :
    exec (.toneAssign m) s = .next (s.reads 0x0052 m (.tones (m.f 0 2)) false) :=
  exec_admitted (congrArg Host.Outcome.next (State.toneAssign.eq_1 m s)) h rfl rfl
    (by simp [hlen, hdflt, huniform, hbuf, hfirst, hpos, hend]) (by simp [hdom])
    ((if_neg (by simp [hdflt])).trans (if_neg (by simp [huniform])))

end
end

theorem exec_hatchLoad (h : s.Admits m false anyNoRf false true) (hdom : m.dom = 0) (hlen : m.length.toNat = 4) (hpos : 1 ≤ m.f 2 2)
    (hend : m.f 0 2 + m.f 2 2 ≤ 5632) (hbuf : m.buf = 32 * m.f 2 2) :
    exec (.hatchLoad m) s = .next (s.reads 0x0053 m (.hatch (m.f 0 2)) false) :=
  exec_admitted (congrArg Host.Outcome.next (State.hatchLoad.eq_1 m s)) h rfl rfl (by simp [hlen, hpos, hend, hbuf]) (by simp [hdom]) rfl

/-! ## CHANNEL_READ (R522) -/

section
variable (hdom : m.dom = 0) (hlen : m.length.toNat = 8)
include hdom hlen

theorem exec_channelRead {t : State}
    (h : s.Admits m false (if m.f 0 1 = 2 then [.characterize, .service, .standby, .isolated] else anyNoRf) false true)
    (hkind : m.f 0 1 ≤ 2) (hbuf : (if m.f 0 1 = 2 then m.bufIs 65536 else m.noBuf) = true)
    (hx : m.f 2 2 < if m.f 0 1 = 0 then 10240 else 5632)
    (ht : (if m.f 0 1 = 0 then ((s.taken 0x0060 m).clearSticky (m.f 2 2)).answer (refOf 0x0060 m) stOk ((s.taken 0x0060 m).driveReply (m.f 2 2))
      else if m.f 0 1 = 1 then (s.taken 0x0060 m).answer (refOf 0x0060 m) stOk ((s.taken 0x0060 m).senseReply (m.f 2 2))
      else (s.taken 0x0060 m).capture (refOf 0x0060 m) m) = t) : exec (.channelRead m) s = .next t :=
  exec_admitted (congrArg Host.Outcome.next (State.channelRead.eq_1 m s)) h rfl (by simp [hkind])
    (by rw [hbuf]; simp [hlen, hx]) (by simp [hdom]) ht

theorem exec_channelRead_drive (h : s.Admits m false anyNoRf false true) (hkind : m.f 0 1 = 0) (hx : m.f 2 2 < 10240) (hbuf : m.buf = 0) :
    exec (.channelRead m) s = .next
      (((s.taken 0x0060 m).modDch (m.f 2 2) (fun c => { c with sticky := 0 })).thenReplied 0x0060 m stOk (s.driveReply (m.f 2 2))) :=
  exec_channelRead hdom hlen (by rw [if_neg (by omega)]; exact h) (by omega) (by simp [hkind, hbuf]) (by simp [hkind, hx])
    ((if_pos hkind).trans (by rw [State.taken_driveReply]; rfl))

theorem exec_channelRead_sense (h : s.Admits m false anyNoRf false true) (hkind : m.f 0 1 = 1) (hx : m.f 2 2 < 5632) (hbuf : m.buf = 0) :
    exec (.channelRead m) s = .next (s.replied 0x0060 m stOk (s.senseReply (m.f 2 2))) :=
  exec_channelRead hdom hlen (by rw [if_neg (by omega)]; exact h) (by omega) (by simp [hkind, hbuf]) (by simp [hkind, hx])
    ((if_neg (by omega)).trans ((if_pos hkind).trans (by rw [State.taken_senseReply]; rfl)))

theorem exec_channelRead_capture (h : s.Admits m false [.characterize, .service, .standby, .isolated] false true) (hkind : m.f 0 1 = 2)
    (hx : m.f 2 2 < 5632) (hbuf : m.buf = 65536) (hidle : s.sense.capture = none) (htick : s.atTick = [])
    (hmay : s.mayCapture (m.f 2 2) = true) : exec (.channelRead m) s = .next
      { s.taken 0x0060 m with
        atTick := [.capture (refOf 0x0060 m) m.iova (pairOf (homeCore (m.f 2 2))) (m.f 2 2) (m.f 1 1 % 2)
                    (if m.f 4 1 = 4 then 4 else m.f 4 1 % 4)] } := by
  refine exec_channelRead hdom hlen (by rw [if_pos hkind]; exact h) (by omega) (by simp [hkind, hbuf]) (by simp [hkind, hx]) ?_
  rw [if_neg (by omega), if_neg (by omega), State.capture, if_neg (by simp [hidle, htick]), if_neg (by simp [hmay]), taken_due, htick,
    List.nil_append]

end

/-! ## CHANNEL_FORCE, CHANNEL_RETIRE and CHANNEL_RESTORE (R523, R524) -/

theorem exec_channelForce (h : s.Admits m false [.service] false false) (hdom : m.dom = 0) (hlen : m.length.toNat = 8) (hbuf : m.buf = 0)
    (hi : m.f 0 2 < 10240) (hretired : s.retired 1 (m.f 0 2) = false) : exec (.channelForce m) s = .next
      ((if tb (m.f 4 1) 0 then (s.taken 0x0061 m).unforce (m.f 0 2) else (s.taken 0x0061 m).force (m.f 0 2) (m.f 2 2)).thenReplied
        0x0061 m stOk []) :=
  exec_admitted (congrArg Host.Outcome.next (State.channelForce.eq_1 m s)) h rfl rfl (by simp [hlen, hbuf, hi]) (by simp [hdom])
    (if_neg (by simp [hretired]))

theorem exec_channelRetire (h : s.Admits m true [.service] false false) (hdom : m.dom = 0) (hlen : m.length.toNat = 4) (hbuf : m.buf = 0)
    (hkind : m.f 0 1 ≤ 2) (hi : m.f 2 2 < kindCount (m.f 0 1)) (hretired : s.retired (m.f 0 1 + 1) (m.f 2 2) = false) :
    exec (.channelRetire m) s = .next
      { s.taken 0x0062 m with
        atTick := s.atTick ++ [.retire (m.f 0 1 + 1) (m.f 2 2) 11, .answer (refOf 0x0062 m) stOk 0 0 []] } :=
  exec_admitted (congrArg Host.Outcome.next (State.channelRetire.eq_1 m s)) h rfl (by simp [hkind]) (by simp [hlen, hbuf, hi]) (by simp [hdom])
    ((if_neg (by simp [hretired])).trans (taken_dueThen ..))

theorem exec_channelRestore (h : s.Admits m true [.service] false false) (hdom : m.dom = 0) (hlen : m.length.toNat = 4) (hbuf : m.buf = 0)
    (hkind : m.f 0 1 ≤ 4) (hi : m.f 2 2 < kindCount (m.f 0 1))
    (hpinned : m.f 0 1 = 2 → s.desc.loaded = true → s.fabPinned (m.f 2 2) = false) : exec (.channelRestore m) s = .next
      { s.taken 0x0063 m with
        atTick := s.atTick ++ [.restore (m.f 0 1 + 1) (m.f 2 2), .answer (refOf 0x0063 m) stOk 0 0 []] } := by
  have hstatus : (s.taken 0x0063 m).restoreStatus (m.f 0 1 + 1) (m.f 2 2) = stOk := by
    unfold State.restoreStatus
    rw [State.taken_desc, State.taken_fabPinned, if_neg]
    rintro ⟨hk, hloaded, hpin⟩
    rw [hpinned (by omega) hloaded] at hpin
    exact absurd hpin (by decide)
  refine exec_admitted (congrArg Host.Outcome.next (State.channelRestore.eq_1 m s)) h rfl (by simp [hkind]) (by simp [hlen, hbuf, hi])
    (by simp [hdom]) ?_
  rw [hstatus]
  exact taken_dueThen ..

end

/-- Settles O4: an equation per command and form of it. -/
theorem channelCommandsComplete : Obligations.ChannelCommandsComplete := fun _ _ =>
  ⟨exec_loopConfig, exec_loopRead,
    fun h hdom hlen => ⟨exec_toneAssign_default h hdom hlen, fun hdflt hfirst hpos hend =>
      ⟨exec_toneAssign_uniform h hdom hlen hdflt hfirst hpos hend, exec_toneAssign_buffer h hdom hlen hdflt hfirst hpos hend⟩⟩,
    exec_hatchLoad,
    fun hdom hlen => ⟨exec_channelRead_drive hdom hlen, exec_channelRead_sense hdom hlen, exec_channelRead_capture hdom hlen⟩,
    exec_channelForce, exec_channelRetire, exec_channelRestore⟩

end Sys2Proof.Machine
end

section
/-! Mailbox commands of calibration and of time (R525 to R530), and of pairing and of the referee (R531 to R534). -/

namespace Sys2Proof.Machine

section
variable {s : State} {m : MbCmd}

/-! ## CAL_RUN (R525) -/

theorem ne_all_of_isScope {n : Nat} (h : isScope n = true) : n ≠ 0x400 := by
  rintro rfl
  exact absurd h (by decide)

theorem exec_calRun {t : State} (hdom : m.dom = 0) (hlen : m.length.toNat = 8) (hbuf : m.buf = 0)
    (h : s.Admits m true (calModes (m.f 0 2)) false false) (hscope : isScope (m.f 0 2) = true) (hfree : s.calBusy (m.f 0 2) = false)
    (ht : (if m.f 0 2 = 0x300 then
        if !(s.taken 0x0070 m).pair.held then (s.taken 0x0070 m).answer (refOf 0x0070 m) stWrongMode []
        else ({ s.taken 0x0070 m with cal := { (s.taken 0x0070 m).cal with
          fabricNext := (m.f 2 1 % 2, tb (m.f 3 1) 0, m.f 4 2) } } : State).askRun (m.f 0 2) (some (refOf 0x0070 m))
      else (s.taken 0x0070 m).askRun (m.f 0 2) (some (refOf 0x0070 m))) = t) : exec (.calRun m) s = .next t := by
  refine exec_admitted (congrArg Host.Outcome.next (State.calRun.eq_1 m s)) h rfl (by simp [hscope]) (by simp [hlen, hbuf]) (by simp [hdom]) ?_
  rw [if_neg (ne_all_of_isScope hscope), if_neg (by simp [hfree])]
  exact ht

theorem exec_calRun_scope (hdom : m.dom = 0) (hlen : m.length.toNat = 8) (hbuf : m.buf = 0)
    (h : s.Admits m true (calModes (m.f 0 2)) false false) (hscope : isScope (m.f 0 2) = true) (hn : m.f 0 2 ≠ 0x300)
    (hfree : s.calBusy (m.f 0 2) = false) : exec (.calRun m) s = .next
      ((s.taken 0x0070 m).setScope (m.f 0 2) { s.scope (m.f 0 2) with pending := true, cmd := some (refOf 0x0070 m) }) :=
  exec_calRun hdom hlen hbuf h hscope hfree ((if_neg hn).trans (by rw [State.askRun, State.taken_scope]))

theorem exec_calRun_fabric (hdom : m.dom = 0) (hlen : m.length.toNat = 8) (hbuf : m.buf = 0)
    (h : s.Admits m true [.characterize] false false) (hn : m.f 0 2 = 0x300) (hfree : s.calBusy 0x300 = false)
    (hheld : s.pair.held = true) : exec (.calRun m) s = .next
      (({ s.taken 0x0070 m with cal := { s.cal with fabricNext := (m.f 2 1 % 2, tb (m.f 3 1) 0, m.f 4 2) } } : State).setScope 0x300
        { s.scope 0x300 with pending := true, cmd := some (refOf 0x0070 m) }) := by
  refine exec_calRun hdom hlen hbuf (by rw [hn]; exact h) (by rw [hn]; decide) (by rw [hn]; exact hfree) ?_
  rw [if_pos hn, if_neg (by simp [hheld]), hn, State.taken_cal, State.askRun, ← State.taken_scope s 0x0070 m 0x300]
  simp only [State.scope, State.taken_cal]

theorem exec_calRun_all (hdom : m.dom = 0) (hlen : m.length.toNat = 8) (hbuf : m.buf = 0)
    (h : s.Admits m true (calModes 0x400) false false) (hn : m.f 0 2 = 0x400) (hfree : converterScopes.any s.calBusy = false) :
    exec (.calRun m) s = .next (converterScopes.foldl (fun u k => u.askRun k none)
      { s.taken 0x0070 m with cal := { s.cal with all := some (refOf 0x0070 m, converterScopes, 0xFFFF, 0) } }) := by
  have hfree' : converterScopes.any (s.taken 0x0070 m).calBusy = false := by
    rw [show (s.taken 0x0070 m).calBusy = s.calBusy from funext (State.taken_calBusy s _ m), hfree]
  refine exec_admitted (congrArg Host.Outcome.next (State.calRun.eq_1 m s)) (by rw [hn]; exact h) rfl (by simp [hn]) (by simp [hlen, hbuf])
    (by simp [hdom]) ?_
  rw [if_pos hn, if_neg (by simp [hfree']), State.taken_cal]

/-! ## CAL_STATUS and CAL_POLICY (R527, R528) -/

theorem calDetail_ne_nil (s : State) : s.calDetail ≠ [] := by
  have hlen : 576 ≤ s.calDetail.length := by rw [State.calDetail, List.length_append, bytesLE_length]; omega
  exact fun hnil => by simp [hnil] at hlen

section
variable (h : s.Admits m true anyMode true true) (hlen : m.length.toNat = 4) (hscope : isScope (m.f 0 2) = true)
include h hlen hscope

theorem exec_calStatus (hbuf : m.buf = 0) : exec (.calStatus m) s = .next (s.replied 0x0071 m stOk (s.calReplyOf (m.f 0 2))) :=
  exec_admitted (congrArg Host.Outcome.next (State.calStatus.eq_1 m s)) h rfl hscope (by simp [hlen, hbuf]) rfl
    (by rw [if_pos (by simp [hbuf]), State.taken_calReplyOf]; rfl)

theorem exec_calStatus_buffer (hn : m.f 0 2 = 0x300) (hbuf : m.buf = 9792) :
    exec (.calStatus m) s = .next (s.buffered 0x0071 m s.calDetail (s.calReplyOf 0x300)) :=
  exec_admitted (congrArg Host.Outcome.next (State.calStatus.eq_1 m s)) h rfl hscope (by simp [hlen, hbuf, hn]) rfl
    (by rw [if_neg (by simp [hbuf]), State.taken_calDetail, State.taken_calReplyOf, hn]; exact bufferOut_write (calDetail_ne_nil s))

end

/-- What CAL_POLICY answers, of the settings that hold from the next tick on. -/
def policyAnswer (m : MbCmd) (p : Bool × Bool × Bool × Nat) : List (Nat × Nat) :=
  [(0, m.f 0 1), (1, bit p.1), (2, bit p.2.1), (3, bit p.2.2.1), (4, p.2.2.2)]

section
variable (h : s.Admits m true anyMode true false) (hlen : m.length.toNat = 8) (hbuf : m.buf = 0) (htick : s.atTick = [])
include h hlen hbuf htick

theorem exec_calPolicy_read (hwrite : tb (m.f 0 1) 0 = false) (hsave : tb (m.f 0 1) 1 = false) : exec (.calPolicy m) s = .next
    (s.replied 0x0072 m stOk (policyAnswer m (s.cal.tempTrigger, s.cal.powerup, s.cal.persist, s.cal.dt))) := by
  have hnext : (s.taken 0x0072 m).policyNext = (s.cal.tempTrigger, s.cal.powerup, s.cal.persist, s.cal.dt) := by
    simp only [State.policyNext, State.taken_atTick, htick, State.taken_cal, List.foldl_nil]
  refine exec_admitted (congrArg Host.Outcome.next (State.calPolicy.eq_1 m s)) h rfl rfl (by simp [hlen, hbuf]) (by simp [hwrite, hsave]) ?_
  simp only [hwrite, hsave, Bool.false_and, Bool.false_eq_true, if_false, hnext]
  rfl

theorem exec_calPolicy_write (hdom : m.dom = 0) (hwrite : tb (m.f 0 1) 0 = true) (hmode : s.sys.mode ≠ .startupCal) :
    exec (.calPolicy m) s =
      let t : State := { s.taken 0x0072 m with
        atTick := [.calPolicy (tb (m.f 1 1) 0) (tb (m.f 2 1) 0) (tb (m.f 3 1) 0) (m.f 4 2)] }
      let reply := policyAnswer m (tb (m.f 1 1) 0, tb (m.f 2 1) 0, tb (m.f 3 1) 0, m.f 4 2)
      .next (if tb (m.f 0 1) 1 then
        t.flashJob (.mode none (some (bit (tb (m.f 2 1) 0) + 2 * bit (tb (m.f 1 1) 0) + 4 * bit (tb (m.f 3 1) 0) + 128, m.f 4 2))
          (refOf 0x0072 m) reply)
        else t.thenReplied 0x0072 m stOk reply) := by
  have hends : (s.taken 0x0072 m).endsStartup = false := by simp [State.endsStartup, hmode]
  refine exec_admitted (congrArg Host.Outcome.next (State.calPolicy.eq_1 m s)) h rfl rfl (by simp [hlen, hbuf]) (by simp [hdom]) ?_
  simp only [hwrite, hends, Bool.and_false, Bool.false_eq_true, if_false, if_true, taken_due, htick]
  rfl

end

/-! ## Time (R529, R530) -/

theorem taken_askStep {absolute : Option Nat} {offset : Int} (op : Nat) (c : CmdRef) (hheld : s.pair.held = false)
    (hstep : s.ft.step = none) : (s.taken op m).askStep c absolute offset =
      { s.taken op m with ft := { s.ft with step := some { absolute := absolute, offset := offset, cmd := some c, armed := false } } } := by
  rw [State.askStep, if_neg (by simp [hheld]), if_neg (by simp [hstep]), State.taken_ft]

section
variable (h : s.Admits m true anyMode false true) (hdom : m.dom = 0) (hlen : m.length.toNat = 16) (hbuf : m.buf = 0) (hport : m.f 1 1 ≤ 1)
include h hdom hlen hbuf hport

theorem exec_timeConfig_read (hread : tb (m.f 2 1) 0 = true) (hpos : 1 ≤ m.f 0 1) (hmax : m.f 0 1 ≤ 13) :
    exec (.timeConfig m) s = .next (s.replied 0x0080 m stOk [(0, s.timeValue (m.f 0 1) (decide (m.f 1 1 = 1)))]) :=
  exec_admitted (congrArg Host.Outcome.next (State.timeConfig.eq_1 m s)) h rfl
    (by simp only [hread, Bool.true_and, Bool.and_eq_true, Bool.not_eq_true', decide_eq_true_eq, decide_eq_false_iff_not]; omega)
    (by simp [hlen, hbuf, hport]) (by simp [hdom]) ((if_pos hread).trans (by rw [State.taken_timeValue]; rfl))

section
variable (hread : tb (m.f 2 1) 0 = false)
include hread

theorem exec_timeConfig {t : State} (hpos : 1 ≤ m.f 0 1) (hmax : m.f 0 1 ≤ 16)
    (ht : (if m.f 0 1 = 14 then (s.taken 0x0080 m).askStep (refOf 0x0080 m) (some (m.f 8 8)) 0
      else if m.f 0 1 = 15 then (s.taken 0x0080 m).askStep (refOf 0x0080 m) none (signed 64 (m.f 8 8) * 65536)
      else if m.f 0 1 = 16 then
        if (s.taken 0x0080 m).ft.source ≠ .host then (s.taken 0x0080 m).answer (refOf 0x0080 m) stNotPermitted []
        else ((s.taken 0x0080 m).hostOffset (signed 64 (m.f 8 8))).answer (refOf 0x0080 m) stOk []
      else (s.taken 0x0080 m).dueNow (refOf 0x0080 m) (.time (m.f 0 1) (decide (m.f 1 1 = 1)) (m.f 8 8)) []) = t) :
    exec (.timeConfig m) s = .next t :=
  exec_admitted (congrArg Host.Outcome.next (State.timeConfig.eq_1 m s)) h rfl (by simp [hread, hpos, hmax]) (by simp [hlen, hbuf, hport])
    (by simp [hdom]) ((if_neg (by simp [hread])).trans ht)

theorem exec_timeConfig_setting (hpos : 1 ≤ m.f 0 1) (hmax : m.f 0 1 ≤ 13) : exec (.timeConfig m) s = .next
    (({ s.taken 0x0080 m with atTick := s.atTick ++ [.time (m.f 0 1) (decide (m.f 1 1 = 1)) (m.f 8 8)] } : State).thenReplied
      0x0080 m stOk []) := by
  refine exec_timeConfig h hdom hlen hbuf hport hread hpos (by omega) ?_
  rw [if_neg (by omega), if_neg (by omega), if_neg (by omega), taken_dueNow]

theorem exec_timeConfig_absolute (hitem : m.f 0 1 = 14) (hheld : s.pair.held = false) (hstep : s.ft.step = none) :
    exec (.timeConfig m) s = .next
      { s.taken 0x0080 m with
        ft := { s.ft with step := some { absolute := some (m.f 8 8), offset := 0, cmd := some (refOf 0x0080 m), armed := false } } } :=
  exec_timeConfig h hdom hlen hbuf hport hread (by omega) (by omega) ((if_pos hitem).trans (taken_askStep _ _ hheld hstep))

theorem exec_timeConfig_offset (hitem : m.f 0 1 = 15) (hheld : s.pair.held = false) (hstep : s.ft.step = none) :
    exec (.timeConfig m) s = .next
      { s.taken 0x0080 m with
        ft := { s.ft with step := some { absolute := none, offset := signed 64 (m.f 8 8) * 65536, cmd := some (refOf 0x0080 m),
                                         armed := false } } } :=
  exec_timeConfig h hdom hlen hbuf hport hread (by omega) (by omega)
    ((if_neg (by omega)).trans ((if_pos hitem).trans (taken_askStep _ _ hheld hstep)))

theorem exec_timeConfig_host (hitem : m.f 0 1 = 16) (hsource : s.ft.source = .host) :
    exec (.timeConfig m) s = .next (((s.taken 0x0080 m).hostOffset (signed 64 (m.f 8 8))).thenReplied 0x0080 m stOk []) := by
  refine exec_timeConfig h hdom hlen hbuf hport hread (by omega) (by omega) ?_
  rw [if_neg (by omega), if_neg (by omega), if_pos hitem, if_neg (by simp [hsource])]
  rfl

end
end

theorem exec_timeStatus (h : s.Admits m true anyMode false true) (hlen : m.length.toNat = 0) (hbuf : m.buf = 0 ∨ m.buf = 128) :
    exec (.timeStatus m) s = .next
      { s.taken 0x0081 m with atTick := s.atTick ++ [.timeStatus (refOf 0x0081 m) m.iova m.buf] } :=
  exec_admitted rfl h rfl rfl (by simpa [hlen] using hbuf) rfl (taken_due ..)

end

/-- Settles O5: an equation per command and form of it; ALL_CONVERTERS makes each scope wait by `State.askRun_fold`. -/
theorem calibrationAndTimeCommandsComplete : Obligations.CalibrationAndTimeCommandsComplete := by
  intro s m
  refine ⟨fun hdom hlen hbuf => ⟨exec_calRun_scope hdom hlen hbuf, exec_calRun_fabric hdom hlen hbuf, fun h hn hfree => ?all⟩,
    fun h hlen hscope => ⟨exec_calStatus h hlen hscope, exec_calStatus_buffer h hlen hscope⟩,
    fun h hlen hbuf htick => ⟨exec_calPolicy_read h hlen hbuf htick, exec_calPolicy_write h hlen hbuf htick⟩,
    fun h hdom hlen hbuf hport => ⟨exec_timeConfig_read h hdom hlen hbuf hport, fun hread =>
      ⟨exec_timeConfig_setting h hdom hlen hbuf hport hread, exec_timeConfig_absolute h hdom hlen hbuf hport hread,
        exec_timeConfig_offset h hdom hlen hbuf hport hread, exec_timeConfig_host h hdom hlen hbuf hport hread⟩⟩, exec_timeStatus⟩
  refine ⟨_, exec_calRun_all hdom hlen hbuf h hn hfree, State.askRun_fold_all .., fun k hk => ?_, ?_⟩
  · rw [State.askRun_fold, if_pos hk]
  · rw [State.askRun_fold, if_neg (by decide)]
    rfl

end Sys2Proof.Machine
end

section
/-! Mailbox commands of pairing and of the referee (R531 to R534). -/

namespace Sys2Proof.Machine

section
variable {s : State} {m : MbCmd}

/-! ## PAIR_CONFIG (R531) -/

section
variable (hdom : m.dom = 0) (hlen : m.length.toNat = 40) (hbuf : m.buf = 0) (hpos : 1 ≤ m.f 0 1) (hmax : m.f 0 1 ≤ 7)
  (hport : m.f 0 1 = 6 → m.f 1 1 ≤ 1) (hclient : m.f 0 1 = 7 → m.f 1 1 ≤ 7)
  (h : s.Admits m true (if m.f 0 1 = 1 then (if s.pair.held then [.standby, .isolated] else [.standby, .isolated, .service]) else anyNoRf)
    false false)
include hdom hlen hbuf hpos hmax hport hclient h

theorem exec_pairConfig {t : State} (hsolo : m.f 0 1 = 1 → tb (m.f 2 1) 0 = false → tb (m.f 8 32) 0 = true → s.fuse 2818 1 = 1)
    (ht : (if tb (m.f 2 1) 0 then (s.taken 0x0090 m).answer (refOf 0x0090 m) stOk [(0, (s.taken 0x0090 m).pairValue (m.f 0 1) (m.f 1 1))]
      else (s.taken 0x0090 m).dueNow (refOf 0x0090 m) (.pair (m.f 0 1) (m.f 1 1) (m.f 8 32)) []) = t) :
    exec (.pairConfig m) s = .next t := by
  refine exec_admitted (congrArg Host.Outcome.next (State.pairConfig.eq_1 m s)) h (by rw [State.taken_pair]) (by simp [hpos, hmax]) ?_ ?_ ht
  · simpa [hlen, hbuf, or_iff_not_imp_left] using And.intro hport hclient
  · have hfuse : m.f 0 1 ≠ 1 ∨ tb (m.f 2 1) 0 = true ∨ tb (m.f 8 32) 0 = false ∨ s.fuse 2818 1 = 1 := by
      simpa only [or_iff_not_imp_left, Bool.not_eq_true, Bool.not_eq_false, not_not, ne_eq] using hsolo
    simpa [hdom, or_assoc] using hfuse

theorem exec_pairConfig_read (hread : tb (m.f 2 1) 0 = true) :
    exec (.pairConfig m) s = .next (s.replied 0x0090 m stOk [(0, s.pairValue (m.f 0 1) (m.f 1 1))]) :=
  exec_pairConfig hdom hlen hbuf hpos hmax hport hclient h (fun _ hset => by simp [hread] at hset)
    ((if_pos hread).trans (by rw [State.taken_pairValue]; rfl))

theorem exec_pairConfig_set (hread : tb (m.f 2 1) 0 = false) (hsolo : m.f 0 1 = 1 → tb (m.f 8 32) 0 = true → s.fuse 2818 1 = 1) :
    exec (.pairConfig m) s = .next
      (({ s.taken 0x0090 m with atTick := s.atTick ++ [.pair (m.f 0 1) (m.f 1 1) (m.f 8 32)] } : State).thenReplied 0x0090 m stOk []) :=
  exec_pairConfig hdom hlen hbuf hpos hmax hport hclient h (fun hitem _ => hsolo hitem)
    ((if_neg (by simp [hread])).trans (taken_dueNow ..))

end

/-! ## PAIR_STATUS and PAIR_SWAP (R532, R533) -/

theorem exec_pairStatus (h : s.Admits m true anyMode false true) (hlen : m.length.toNat = 0) (hbuf : m.buf = 0) :
    exec (.pairStatus m) s = .next (s.replied 0x0091 m stOk s.pairReply) :=
  exec_admitted rfl h rfl rfl (by simp [hlen, hbuf]) rfl (by rw [State.taken_pairReply]; rfl)

/-- The modes in which PAIR_SWAP is taken (R533). -/
def State.swapModes (s : State) : List Mode :=
  [Mode.standby, .active, .hold, .dark, .characterize, .legacy] ++ if s.pair.held then [.service] else []

section
variable (h : s.Admits m true s.swapModes false true) (hdom : m.dom = 0) (hlen : m.length.toNat = 0) (hbuf : m.buf = 0)
  (hpaired : s.pair.solo = false)
include h hdom hlen hbuf hpaired

theorem exec_pairSwap_holder (hheld : s.pair.held = true) (hswap : s.pair.swap = none) (hready : s.partnerReady = true) :
    exec (.pairSwap m) s = .next
      { s.taken 0x0092 m with
        pair := { s.pair with swap := some (s.clk.frame, some (refOf 0x0092 m), false), swapDeferred := false } } := by
  refine exec_admitted rfl h (by rw [State.taken_pair]; rfl) rfl (by simp [hlen, hbuf]) (by simp [hdom]) ?_
  rw [if_neg (by simp [hpaired]), if_pos (by simp [hheld]), State.startSwap, if_neg (by simp [hswap]), if_pos (by simp [hready]),
    ← State.taken_pair s 0x0092 m, ← State.taken_clk s 0x0092 m]

theorem exec_pairSwap_standby (hheld : s.pair.held = false) (hreq : ∀ f c, s.pair.swapReq ≠ some (f, some c)) :
    exec (.pairSwap m) s = .next
      { s.taken 0x0092 m with pair := { s.pair with swapReq := some (s.clk.frame, some (refOf 0x0092 m)) } } := by
  refine exec_admitted rfl h (by rw [State.taken_pair]; rfl) rfl (by simp [hlen, hbuf]) (by simp [hdom]) ?_
  rw [if_neg (by simp [hpaired]), if_neg (by simp [hheld]), ← State.taken_clk s 0x0092 m]
  split
  · next f c hsome => exact absurd (by simpa using hsome) (hreq f c)
  · rw [State.taken_pair]

end

/-! ## REFEREE_CONFIG (R534) -/

section
variable (h : s.Admits m true [.referee] false false) (hdom : m.dom = 0) (hlen : m.length.toNat = 8) (hbuf : m.buf = 0)
include h hdom hlen hbuf

theorem exec_refereeConfig {t : State} (hl : tb (m.f 0 1) 0 = true → 6250 ≤ m.f 4 4 ∧ m.f 4 4 ≤ 625000)
    (ht : (let t1 : State := if tb (m.f 0 1) 0 then
          { s.taken 0x0093 m with pair := { (s.taken 0x0093 m).pair with refL := m.f 4 4 } } else s.taken 0x0093 m
      let t2 := if tb (m.f 0 1) 1 then (t1.refereeIso false (tb (m.f 1 1) 0)).refereeIso true (tb (m.f 1 1) 1) else t1
      t2.answer (refOf 0x0093 m) stOk t2.refereeReply) = t) : exec (.refereeConfig m) s = .next t :=
  exec_admitted (congrArg Host.Outcome.next (State.refereeConfig.eq_1 m s)) h rfl rfl (by simp [hlen, hbuf]) (by simp [hdom])
    ((if_neg (by simpa using hl)).trans ht)

theorem exec_refereeConfig_read (hset : tb (m.f 0 1) 0 = false) (hiso : tb (m.f 0 1) 1 = false) :
    exec (.refereeConfig m) s = .next (s.replied 0x0093 m stOk s.refereeReply) := by
  refine exec_refereeConfig h hdom hlen hbuf (by simp [hset]) ?_
  simp only [hset, hiso, Bool.false_eq_true, if_false, State.taken_refereeReply]
  rfl

theorem exec_refereeConfig_lease (hset : tb (m.f 0 1) 0 = true) (hiso : tb (m.f 0 1) 1 = false) (hmin : 6250 ≤ m.f 4 4)
    (hmax : m.f 4 4 ≤ 625000) : exec (.refereeConfig m) s = .next
      (let t : State := { s.taken 0x0093 m with pair := { s.pair with refL := m.f 4 4 } }
       t.thenReplied 0x0093 m stOk t.refereeReply) := by
  refine exec_refereeConfig h hdom hlen hbuf (fun _ => ⟨hmin, hmax⟩) ?_
  simp only [hset, hiso, Bool.false_eq_true, if_false, if_true, State.taken_pair]
  rfl

theorem exec_refereeConfig_iso (hset : tb (m.f 0 1) 0 = false) (hiso : tb (m.f 0 1) 1 = true) :
    exec (.refereeConfig m) s = .next
      (let t := ((s.taken 0x0093 m).refereeIso false (tb (m.f 1 1) 0)).refereeIso true (tb (m.f 1 1) 1)
       t.thenReplied 0x0093 m stOk t.refereeReply) := by
  refine exec_refereeConfig h hdom hlen hbuf (by simp [hset]) ?_
  simp only [hset, hiso, Bool.false_eq_true, if_false, if_true]
  rfl

end
end

/-- Settles O6: an equation per command and form of it. -/
theorem pairCommandsComplete : Obligations.PairCommandsComplete := fun _ _ =>
  ⟨fun hdom hlen hbuf hpos hmax hport hclient h => ⟨exec_pairConfig_read hdom hlen hbuf hpos hmax hport hclient h,
      exec_pairConfig_set hdom hlen hbuf hpos hmax hport hclient h⟩,
    exec_pairStatus,
    fun h hdom hlen hbuf hpaired => ⟨exec_pairSwap_holder h hdom hlen hbuf hpaired, exec_pairSwap_standby h hdom hlen hbuf hpaired⟩,
    fun h hdom hlen hbuf => ⟨exec_refereeConfig_read h hdom hlen hbuf, exec_refereeConfig_lease h hdom hlen hbuf,
      exec_refereeConfig_iso h hdom hlen hbuf⟩⟩

end Sys2Proof.Machine
end

section
/-! Mailbox commands of firmware, fuses, events, the fault log, counters and translation (R535 to R543). -/

namespace Sys2Proof.Machine

section
variable {s : State} {m : MbCmd}

/-! ## Firmware (R535, R536) -/

theorem exec_fwStage (h : s.Admits m false anyMode false true) (hdom : m.dom = 0) (hlen : m.length.toNat = 0) (hmin : 513 ≤ m.buf)
    (hmax : m.buf ≤ 4194816) (hidle : s.sys.staging = false) : exec (.fwStage m) s = .next
      ((({ s.taken 0x00A0 m with sys := { (s.taken 0x00A0 m).sys with staging := true } } : State).flashWrite (slotBase (!s.sys.slotB))
          (List.replicate 4096 0xFF)).newXfer m.dom (.read (refOf 0x00A0 m) .stage) false false m.iova m.buf []) :=
  exec_admitted rfl h rfl rfl (by simp [hlen, hmin, hmax]) (by simp [hdom])
    ((if_neg (by simp [hidle])).trans (by rw [State.taken_sys_slotB]; rfl))

section
variable (h : s.Admits m true anyMode false true) (hdom : m.dom = 0) (hlen : m.length.toNat = 4) (hbuf : m.buf = 0) (hslot : m.f 0 1 ≤ 1)
  (hother : decide (m.f 0 1 = 1) ≠ s.sys.slotB) (hvalid : s.slotValid (decide (m.f 0 1 = 1)) = true)
include h hdom hlen hbuf hslot hother hvalid

theorem exec_fwActivate {t : State} (hop : m.f 1 1 ≤ 1)
    (ht : (if m.f 1 1 = 0 then (s.taken 0x00A1 m).flashJob
        (.control (decide (m.f 0 1 = 1)) (((s.taken 0x00A1 m).slotSeq (s.taken 0x00A1 m).sys.slotB + 1) % 2 ^ 32) (refOf 0x00A1 m))
      else if (s.taken 0x00A1 m).sys.activate.isSome then (s.taken 0x00A1 m).answer (refOf 0x00A1 m) stBusy []
      else if (s.taken 0x00A1 m).slotLevel (decide (m.f 0 1 = 1)) ≠ (s.taken 0x00A1 m).sys.configLevel then
        (s.taken 0x00A1 m).answer (refOf 0x00A1 m) stNotPermitted []
      else ({ s.taken 0x00A1 m with sys := { (s.taken 0x00A1 m).sys with
        activate := some (refOf 0x00A1 m, decide (m.f 0 1 = 1)) } } : State).tryActivate) = t) : exec (.fwActivate m) s = .next t := by
  refine exec_admitted (congrArg Host.Outcome.next (State.fwActivate.eq_1 m s)) h rfl (by simp [hop]) (by simp [hlen, hbuf, hslot])
    (by simp [hdom]) ?_
  rw [if_neg (by simpa [hvalid] using hother)]
  exact ht

theorem exec_fwActivate_cold (hop : m.f 1 1 = 0) : exec (.fwActivate m) s = .next
    ((s.taken 0x00A1 m).flashJob (.control (decide (m.f 0 1 = 1)) ((s.slotSeq s.sys.slotB + 1) % 2 ^ 32) (refOf 0x00A1 m))) :=
  exec_fwActivate h hdom hlen hbuf hslot hother hvalid (by omega)
    ((if_pos hop).trans (by rw [State.taken_slotSeq, State.taken_sys_slotB]))

theorem exec_fwActivate_hot (hop : m.f 1 1 = 1) (hidle : s.sys.activate = none)
    (hlevel : s.slotLevel (decide (m.f 0 1 = 1)) = s.sys.configLevel) : exec (.fwActivate m) s = .next
      ({ s.taken 0x00A1 m with
         sys := { (s.taken 0x00A1 m).sys with activate := some (refOf 0x00A1 m, decide (m.f 0 1 = 1)) } } : State).tryActivate := by
  refine exec_fwActivate h hdom hlen hbuf hslot hother hvalid (by omega) ?_
  rw [if_neg (by omega), if_neg (by simp [hidle]), if_neg (by simp [hlevel])]

end

/-! ## Fuses (R537, R538) -/

theorem exec_fuseRead (h : s.Admits m true anyMode true true) (hlen : m.length.toNat = 4) (hbuf : m.buf = 0) (hstep : m.f 0 2 % 32 = 0)
    (hmax : m.f 0 2 ≤ 480) : exec (.fuseRead m) s = .next (s.replied 0x00A2 m stOk [(0, fld s.sys.fuses.toNat (8 * m.f 0 2) 256)]) :=
  exec_admitted (congrArg Host.Outcome.next (State.fuseRead.eq_1 m s)) h rfl rfl (by simp [hlen, hbuf, hstep, hmax]) rfl
    (by rw [State.taken_sys_fuses]; rfl)

theorem exec_fuseProgram (h : s.Admits m false [.service] false false) (hheld : s.pair.held = false) (hdom : m.dom = 0)
    (hlen : m.length.toNat = 0) (hbuf : m.buf = 320) (hen : s.clk.fuseEn = true) (hsealed : tb s.sys.fuses.toNat 2819 = false)
    (hidle : s.sys.fuseJob = none) : exec (.fuseProgram m) s = .next (s.reads 0x00A3 m .fuses false) :=
  exec_admitted rfl h (by rw [State.taken_pair, hheld]; rfl) rfl (by simp [hlen, hbuf]) (by simp [hdom, hen, hsealed])
    (if_neg (by simp [hidle]))

/-! ## Events and the fault log (R539, R540) -/

section
variable (h : s.Admits m true anyMode false true) (hlen : m.length.toNat = 24) (hbuf : m.buf = 0)
include h hlen hbuf

theorem exec_eventConfig {t : State} (hop : m.f 0 1 ≤ 3) (hword : m.f 0 1 = 0 → m.f 4 4 ≤ 9)
    (hgroup : m.f 0 1 = 2 → m.f 4 4 / 2 ^ 24 ≤ 7 ∨ m.f 4 4 / 2 ^ 24 = 0xFF) (hdom : 1 < m.f 0 1 → m.dom = 0)
    (ht : (if m.f 0 1 = 0 then
        let t1 := (s.taken 0x00B0 m).due (.evEnable m.dom (m.f 4 4) (fld (m.f 8 8) 0 32) (fld (m.f 8 8) 32 32))
        t1.answer (refOf 0x00B0 m) stOk [(0, fld (t1.enableNext m.dom).toNat (32 * m.f 4 4) 32)]
      else if m.f 0 1 = 1 then (s.taken 0x00B0 m).dueNow (refOf 0x00B0 m) (.evRing m.dom (fld (m.f 8 8) 12 36 * 4096) (m.f 0x10 1)) []
      else if m.f 0 1 = 2 then (s.taken 0x00B0 m).dueNow (refOf 0x00B0 m) (.thresholds (m.f 4 4) (fld (m.f 8 8) 0 16)) []
      else (s.taken 0x00B0 m).answer (refOf 0x00B0 m) stOk (s.taken 0x00B0 m).thresholdReply) = t) :
    exec (.eventConfig m) s = .next t := by
  refine exec_admitted (congrArg Host.Outcome.next (State.eventConfig.eq_1 m s)) h rfl (by simp [hop]) ?_ ?_ ht
  · simpa [hlen, hbuf, or_iff_not_imp_left] using And.intro hword hgroup
  · simpa [or_iff_not_imp_left] using hdom

theorem exec_eventConfig_enable (hop : m.f 0 1 = 0) (hword : m.f 4 4 ≤ 9) (htick : s.atTick = []) : exec (.eventConfig m) s = .next
    (({ s.taken 0x00B0 m with
        atTick := [.evEnable m.dom (m.f 4 4) (fld (m.f 8 8) 0 32) (fld (m.f 8 8) 32 32)] } : State).thenReplied 0x00B0 m stOk
      [(0, fld (enableWord (s.fn m.dom).evEnable (m.f 4 4) (fld (m.f 8 8) 0 32) (fld (m.f 8 8) 32 32)).toNat (32 * m.f 4 4) 32)]) := by
  have hnext : ((s.taken 0x00B0 m).due (.evEnable m.dom (m.f 4 4) (fld (m.f 8 8) 0 32) (fld (m.f 8 8) 32 32))).enableNext m.dom =
      enableWord (s.fn m.dom).evEnable (m.f 4 4) (fld (m.f 8 8) 0 32) (fld (m.f 8 8) 32 32) := by
    rw [taken_due, htick, ← State.taken_evEnable s 0x00B0 m]
    exact if_pos rfl
  refine exec_eventConfig h hlen hbuf (by omega) (fun _ => hword) (fun h2 => by omega) (fun h1 => by omega) ?_
  rw [if_pos hop]
  dsimp only
  rw [hnext, taken_due, htick]
  rfl

theorem exec_eventConfig_ring (hop : m.f 0 1 = 1) : exec (.eventConfig m) s = .next
    (({ s.taken 0x00B0 m with
        atTick := s.atTick ++ [.evRing m.dom (fld (m.f 8 8) 12 36 * 4096) (m.f 0x10 1)] } : State).thenReplied 0x00B0 m stOk []) :=
  exec_eventConfig h hlen hbuf (by omega) (fun h0 => by omega) (fun h2 => by omega) (fun h1 => by omega)
    ((if_neg (by omega)).trans ((if_pos hop).trans (taken_dueNow ..)))

theorem exec_eventConfig_thresholds (hop : m.f 0 1 = 2) (hdom : m.dom = 0)
    (hgroup : m.f 4 4 / 2 ^ 24 ≤ 7 ∨ m.f 4 4 / 2 ^ 24 = 0xFF) : exec (.eventConfig m) s = .next
      (({ s.taken 0x00B0 m with
          atTick := s.atTick ++ [.thresholds (m.f 4 4) (fld (m.f 8 8) 0 16)] } : State).thenReplied 0x00B0 m stOk []) := by
  refine exec_eventConfig h hlen hbuf (by omega) (fun h0 => by omega) (fun _ => hgroup) (fun _ => hdom) ?_
  rw [if_neg (by omega), if_neg (by omega), if_pos hop, taken_dueNow]

theorem exec_eventConfig_read (hop : m.f 0 1 = 3) (hdom : m.dom = 0) :
    exec (.eventConfig m) s = .next (s.replied 0x00B0 m stOk s.thresholdReply) := by
  refine exec_eventConfig h hlen hbuf (by omega) (fun h0 => by omega) (fun h2 => by omega) (fun _ => hdom) ?_
  rw [if_neg (by omega), if_neg (by omega), if_neg (by omega), State.taken_thresholdReply]
  rfl

end

/-- The fault log after a FAULT_LOG_READ of the given records: they are read. -/
def Faults.read (f : Faults) (l : List (BitVec 256)) : Faults :=
  { f with wrapRaised := false, log := f.log.map (fun e => (e.1, e.2 || l.contains e.1)) }

theorem Faults.read_entries (f : Faults) (l : List (BitVec 256)) : (f.read l).log.map Prod.fst = f.log.map Prod.fst := by
  simp [Faults.read]

theorem Faults.read_marked (f : Faults) (l : List (BitVec 256)) : ∀ e ∈ (f.read l).log, e.1 ∈ l → e.2 = true := by
  intro e he hl
  obtain ⟨x, -, rfl⟩ := List.mem_map.mp he
  simpa using .inr hl

theorem bufferOut_faults (s : State) (c : CmdRef) (iova : Nat) (data : List Byte) (p : List (Nat × Nat)) :
    (s.bufferOut c iova data p).faults = s.faults := by
  unfold State.bufferOut
  split
  · rw [State.answer_faults]
  · rfl

theorem exec_faultLogRead (h : s.Admits m false anyMode false true) (hdom : m.dom = 0) (hlen : m.length.toNat = 8) (hpos : 1 ≤ m.f 4 2)
    (hmax : m.f 4 2 ≤ 4096) (hbuf : m.buf = 32 * m.f 4 2) : ∃ t p, exec (.faultLogRead m) s = .next t ∧ t =
      (({ s.taken 0x00B1 m with faults := (s.taken 0x00B1 m).faults.read (s.logFrom (m.f 0 4) (m.f 4 2)) } : State).bufferOut (refOf 0x00B1 m)
        m.iova ((s.logFrom (m.f 0 4) (m.f 4 2)).flatMap (fun r => bytesLE 32 r.toNat)) p) := by
  have hexec := exec_admitted (i := .faultLogRead m) (congrArg Host.Outcome.next (State.faultLogRead.eq_1 m s)) h rfl rfl (by simp [hlen, hpos, hmax, hbuf])
    (by simp [hdom]) rfl
  dsimp only at hexec
  rw [State.taken_logFrom] at hexec
  exact ⟨_, _, hexec, rfl⟩

theorem records_ne_nil {l : List (BitVec 256)} (h : l ≠ []) : l.flatMap (fun r => bytesLE 32 r.toNat) ≠ [] := by
  cases l with
  | nil => exact absurd rfl h
  | cons r rest => exact fun hnil => absurd (congrArg List.length (List.append_eq_nil_iff.mp hnil).1) (by simp [bytesLE_length])

/-! ## Counters and translation (R541 to R543) -/

theorem exec_perfConfig (h : s.Admits m false anyMode false false) (hdom : m.dom = 0) (hlen : m.length.toNat = 8) (hbuf : m.buf = 0)
    (hn : m.f 0 1 ≤ 7) : exec (.perfConfig m) s = .next
      (({ s.taken 0x00C0 m with
          atTick := s.atTick ++
            [.perf (m.f 0 1) (m.f 2 2 + bit (tb (m.f 1 1) 0) * 2 ^ 31) (m.f 4 4) (tb (m.f 1 1) 1)] } : State).thenReplied 0x00C0 m stOk []) :=
  exec_admitted rfl h rfl rfl (by simp [hlen, hbuf, hn]) (by simp [hdom]) (taken_dueNow ..)

section
variable (h : s.Admits m false anyMode false false) (hdom : m.dom = 0) (hlen : m.length.toNat = 32) (hbuf : m.buf = 0) (hd : m.f 0 1 < 128)
include h hdom hlen hbuf hd

theorem exec_xlateConfig_set (hop : m.f 1 1 = 0) (hmode : m.f 0 1 = 0 ∨ m.f 2 1 ≠ 2) : exec (.xlateConfig m) s = .next
    (((s.taken 0x00D0 m).setTranslation (m.f 0 1) (m.f 2 1) (m.f 4 4) (fld (m.f 8 8) 12 40)).thenReplied 0x00D0 m stOk []) :=
  exec_admitted (congrArg Host.Outcome.next (State.xlateConfig.eq_1 m s)) h rfl (by simp [hop]) (by simp [hlen, hbuf, hd])
    (by simpa [hdom, hop] using hmode) (if_pos hop)

theorem exec_xlateConfig_invalidate (hop : m.f 1 1 = 1) : exec (.xlateConfig m) s = .next
    (((s.taken 0x00D0 m).invalidate (m.f 0 1) (tb (m.f 3 1) 0) (fld (m.f 0x10 8) 12 36) (m.f 0x18 4)).thenReplied 0x00D0 m stOk []) :=
  exec_admitted (congrArg Host.Outcome.next (State.xlateConfig.eq_1 m s)) h rfl (by simp [hop]) (by simp [hlen, hbuf, hd])
    (by simp [hdom, hop]) ((if_neg (by omega)).trans (if_pos hop))

theorem exec_xlateConfig_read (hop : m.f 1 1 = 2) :
    exec (.xlateConfig m) s = .next (s.replied 0x00D0 m stOk (s.xlateReply (m.f 0 1))) :=
  exec_admitted (congrArg Host.Outcome.next (State.xlateConfig.eq_1 m s)) h rfl (by simp [hop]) (by simp [hlen, hbuf, hd])
    (by simp [hdom, hop]) ((if_neg (by omega)).trans ((if_neg (by omega)).trans (by rw [State.taken_xlateReply]; rfl)))

end

theorem exec_xlateResume (h : s.Admits m false anyMode false false) (hdom : m.dom = 0) (hlen : m.length.toNat = 4) (hbuf : m.buf = 0)
    (hd : m.f 0 1 < 128) (hop : m.f 1 1 ≤ 1) : exec (.xlateResume m) s = .next
      (((s.taken 0x00D1 m).resume (m.f 0 1) (decide (m.f 1 1 = 1))).thenReplied 0x00D1 m stOk []) :=
  exec_admitted rfl h rfl (by simp [hop]) (by simp [hlen, hbuf, hd]) (by simp [hdom]) rfl

end

/-- Settles O7: an equation per command and form of it; what FAULT_LOG_READ leaves of the log is `Faults.read`. -/
theorem firmwareAndHostCommandsComplete : Obligations.FirmwareAndHostCommandsComplete := by
  intro s m
  refine ⟨exec_fwStage,
    fun h hdom hlen hbuf hslot hother hvalid => ⟨exec_fwActivate_cold h hdom hlen hbuf hslot hother hvalid,
      exec_fwActivate_hot h hdom hlen hbuf hslot hother hvalid⟩,
    exec_fuseRead, exec_fuseProgram,
    fun h hlen hbuf => ⟨exec_eventConfig_enable h hlen hbuf, exec_eventConfig_ring h hlen hbuf, exec_eventConfig_thresholds h hlen hbuf,
      exec_eventConfig_read h hlen hbuf⟩,
    fun h hdom hlen hpos hmax hbuf => ?log, exec_perfConfig,
    fun h hdom hlen hbuf hd => ⟨exec_xlateConfig_set h hdom hlen hbuf hd, exec_xlateConfig_invalidate h hdom hlen hbuf hd,
      exec_xlateConfig_read h hdom hlen hbuf hd⟩, exec_xlateResume⟩
  obtain ⟨_, p, hexec, rfl⟩ := exec_faultLogRead h hdom hlen hpos hmax hbuf
  refine ⟨_, hexec, ?_, ?_, ?_, fun hrecords => ?_⟩
  · rw [bufferOut_faults]; rfl
  · rw [bufferOut_faults, Faults.read_entries, State.taken_faults]
  · rw [bufferOut_faults]; exact Faults.read_marked _ _
  · rw [bufferOut_write (records_ne_nil hrecords), ← State.taken_host_xfers s 0x00B1 m]
    exact List.map_append

/-- Settles O59: the bits of the field that the command returns, in its response by `rsp_payload`. -/
theorem fuseReadReturnsArray : Obligations.FuseReadReturnsArray := by
  intro s m h hlen hbuf
  refine ⟨fun hstep hmax => ?_, fun hoffset => ?_⟩
  · have hbits : ∀ k, k < 256 → (fld s.sys.fuses.toNat (8 * m.f 0 2) 256).testBit k = s.sys.fuses.getLsbD (8 * m.f 0 2 + k) :=
      fun k hk => by rw [testBit_fld, BitVec.testBit_toNat]; simp [hk]
    refine ⟨_, exec_fuseRead h hlen hbuf hstep hmax, ?_, hbits, fun flags e n k hk => by rw [rsp_payload _ _ _ _ _ _ _ _ (by omega), hbits k hk]⟩
    obtain ⟨run, done, ans, cop, host, heq⟩ := State.answer_spoke (s.taken 0x00A2 m) (refOf 0x00A2 m) stOk [(0, fld s.sys.fuses.toNat (8 * m.f 0 2) 256)]
    rw [State.replied, heq]
    exact State.taken_sys_fuses ..
  · exact exec_badLength (congrArg Host.Outcome.next (State.fuseRead.eq_1 m s)) h.toTakes rfl
      (by simp only [State.row, MbCmd.len, Bool.and_eq_false_iff, decide_eq_false_iff_not]; omega)

end Sys2Proof.Machine
end

section
/-! The order of the checks of a command (R493), and that every instruction is performed. -/

namespace Sys2Proof.Machine

section
variable {s : State} {m : MbCmd} (h : s.Takes m)
include h

theorem exec_loopConfig_badOpcode (hitem : m.f 4 1 = 0 ∨ 7 < m.f 4 1) : exec (.loopConfig m) s = .next (s.replied 0x0050 m stBadOpcode []) :=
  exec_badOpcode (congrArg Host.Outcome.next (State.loopConfig.eq_1 m s)) h
    (by simp only [State.row, decide_eq_false_iff_not]; omega)

theorem exec_channelRetire_badOpcode (hkind : 2 < m.f 0 1) : exec (.channelRetire m) s = .next (s.replied 0x0062 m stBadOpcode []) :=
  exec_badOpcode (congrArg Host.Outcome.next (State.channelRetire.eq_1 m s)) h
    (by simp only [State.row, decide_eq_false_iff_not]; omega)

theorem exec_hatchLoad_badLength (hlen : m.length.toNat ≠ 4 ∨ m.f 2 2 = 0 ∨ 5632 < m.f 0 2 + m.f 2 2 ∨ m.buf ≠ 32 * m.f 2 2) :
    exec (.hatchLoad m) s = .next (s.replied 0x0053 m stBadLength []) :=
  exec_badLength (congrArg Host.Outcome.next (State.hatchLoad.eq_1 m s)) h rfl
    (by simp only [State.row, MbCmd.len, MbCmd.bufIs, Bool.and_eq_false_iff, decide_eq_false_iff_not]; omega)

section
variable (hlen : m.length.toNat = 4) (hpos : 1 ≤ m.f 2 2) (hend : m.f 0 2 + m.f 2 2 ≤ 5632) (hbuf : m.buf = 32 * m.f 2 2)
include hlen hpos hend hbuf

theorem exec_hatchLoad_notPermitted (hsource : m.dom ≠ 0 ∨ srcRemote m.src = true) :
    exec (.hatchLoad m) s = .next (s.replied 0x0053 m stNotPermitted []) :=
  exec_notPermitted (congrArg Host.Outcome.next (State.hatchLoad.eq_1 m s)) h rfl (by simp [State.row, hlen, hpos, hend, hbuf])
    (by rcases hsource with hd | hr <;> simp [State.row, MbCmd.pf, *])

theorem exec_hatchLoad_wrongMode (hdom : m.dom = 0) (hsource : srcRemote m.src = false)
    (hmode : s.modeOk m.src anyNoRf false true = false) : exec (.hatchLoad m) s = .next (s.replied 0x0053 m stWrongMode []) :=
  exec_wrongMode (congrArg Host.Outcome.next (State.hatchLoad.eq_1 m s)) h rfl (by simp [State.row, hlen, hpos, hend, hbuf])
    (by simp [State.row, hdom, hsource]) (by rw [State.row, State.taken_modeOk]; exact hmode)

end

theorem exec_channelRetire_badLength (hkind : m.f 0 1 ≤ 2) (hlen : m.length.toNat ≠ 4 ∨ kindCount (m.f 0 1) ≤ m.f 2 2) :
    exec (.channelRetire m) s = .next (s.replied 0x0062 m stBadLength []) :=
  exec_badLength (congrArg Host.Outcome.next (State.channelRetire.eq_1 m s)) h (by simp [State.row, hkind])
    (by simp only [State.row, MbCmd.len, Bool.and_eq_false_iff, decide_eq_false_iff_not]; omega)

theorem exec_channelRetire_wrongMode (hkind : m.f 0 1 ≤ 2) (hlen : m.length.toNat = 4) (hi : m.f 2 2 < kindCount (m.f 0 1))
    (hbuf : m.buf = 0) (hdom : m.dom = 0) (hmode : s.modeOk m.src [.service] false false = false) :
    exec (.channelRetire m) s = .next (s.replied 0x0062 m stWrongMode []) :=
  exec_wrongMode (congrArg Host.Outcome.next (State.channelRetire.eq_1 m s)) h (by simp [State.row, hkind])
    (by simp [State.row, hlen, hbuf, hi]) (by simp [State.row, hdom, hbuf]) (by rw [State.row, State.taken_modeOk]; exact hmode)

end

/-- Settles O22: the first check that fails answers, by `exec_badOpcode`, `exec_badLength`, `exec_notPermitted` and `exec_wrongMode`. -/
theorem checksInOrder : Obligations.ChecksInOrder := fun _ _ h =>
  ⟨exec_loopConfig_badOpcode h, exec_channelRetire_badOpcode h, exec_hatchLoad_badLength h,
    fun hlen hpos hend hbuf => ⟨exec_hatchLoad_notPermitted h hlen hpos hend hbuf, exec_hatchLoad_wrongMode h hlen hpos hend hbuf⟩,
    fun hkind hlen _ => exec_channelRetire_badLength h hkind hlen, exec_channelRetire_wrongMode h⟩

end Sys2Proof.Machine
end

section
/-! Every instruction ends with a state, but one whose index names no unit (log 3). -/

namespace Sys2Proof.Machine

section
variable {i : Instr} {s t : State} {c : Prop} [Decidable c] {a b : Host.Outcome State Fault Refusal}

theorem Ends.ifNext (h : Ends i b) : Ends i (if c then .next t else b) := .ite (fun _ => .next) fun _ => h

theorem Ends.ifElse (ha : Ends i a) (hb : Ends i b) : Ends i (if c then a else b) := .ite (fun _ => ha) fun _ => hb

/-- An index outside its range is not well-formed. -/
theorem Ends.ifFault (hwf : c → WellFormed i = false) (h : Ends i b) : Ends i (if c then .fault .noSuchUnit else b) :=
  .ite (fun hc => .inr ⟨hwf hc, rfl⟩) fun _ => h

/-! ## Instructions that look something up -/

theorem execClearedByRead_ends {r : RcReg} : Ends i (execClearedByRead r s) := by
  cases r with
  | config fn field => exact .next
  | bar0 fn off => exact .ifNext .next
  | mbStatus fn => exact .ifNext .next
  | evRingStatus fn => exact .ifNext .next
  | pcOverflow fn n => exact .ifNext (.ifNext .next)
  | flashStatus => exact .ifNext .next

theorem execFlashWriteDone_ends {ok : Bool} : Ends i (execFlashWriteDone ok s) := by
  unfold execFlashWriteDone
  dsimp only
  split <;> exact .next

theorem execSnapshotComplete_ends : Ends i (execSnapshotComplete s) := by
  unfold execSnapshotComplete
  split
  · exact .next
  · split
    · exact .next
    · exact .ifNext .next

theorem execLocalisationEnd_ends : Ends i (execLocalisationEnd s) := by
  unfold execLocalisationEnd
  split <;> exact .next

theorem execCalStart_ends : Ends i (execCalStart s) := by
  unfold execCalStart
  refine .ifNext ?_
  split <;> exact .next

theorem execCaptureEnd_ends : Ends i (execCaptureEnd s) := by
  unfold execCaptureEnd
  split
  · exact .next
  · exact .ifNext .next

theorem execDescriptorFetched_ends {dom q l} : Ends i (execDescriptorFetched dom q l s) := by
  unfold execDescriptorFetched
  dsimp only
  split
  · exact .next
  · exact .ifNext .next

theorem execArbitrationDecision_ends : Ends i (execArbitrationDecision s) := by
  unfold execArbitrationDecision
  refine .ifNext ?_
  split
  · exact .next
  · dsimp only
    split
    · exact .next
    · split <;> exact .next

theorem execBatchSubmit_ends : Ends i (execBatchSubmit s) := by
  unfold execBatchSubmit
  split
  · exact .ifNext .next
  · exact .next

theorem execRouteJobStart_ends : Ends i (execRouteJobStart s) := by
  unfold execRouteJobStart
  split
  · exact .ifNext .next
  · exact .next

theorem execRouteJobComplete_ends {fails : BitVec 2} : Ends i (execRouteJobComplete fails s) := by
  unfold execRouteJobComplete
  split
  · exact .next
  · refine .ifNext (.ifNext (.ifNext ?_))
    dsimp only
    split
    · exact .next
    · split <;> exact .next

theorem execCompletionWrite_ends {dom : BitVec 7} : Ends i (execCompletionWrite dom s) := by
  unfold execCompletionWrite
  refine .ifNext ?_
  split <;> exact .next

theorem execHdmaBurst_ends : Ends i (execHdmaBurst s) := by
  unfold execHdmaBurst
  split
  · exact .next
  · exact .ifNext .next

theorem execTranslationWalkDone_ends {dom w} : Ends i (execTranslationWalkDone dom w s) := by
  unfold execTranslationWalkDone
  split
  · exact .next
  · dsimp only
    split <;> exact .next

theorem execFaultEntryHandled_ends : Ends i (execFaultEntryHandled s) := by
  unfold execFaultEntryHandled
  refine .ifNext ?_
  split <;> exact .next

theorem execGo_ends {port now} : Ends i (execGo port now s) := by
  unfold execGo
  refine .ifNext ?_
  split
  · exact .next
  · exact .ifNext .next

theorem execRefereeArm_ends {now} : Ends i (execRefereeArm now s) := by
  unfold execRefereeArm
  refine .ifNext ?_
  split <;> exact .next

theorem execRefereeGo_ends {now} : Ends i (execRefereeGo now s) := by
  unfold execRefereeGo
  dsimp only
  split
  · exact .next
  · exact .ifNext .next

theorem execSwapHandover_ends : Ends i (execSwapHandover s) := by
  unfold execSwapHandover
  split
  · exact .ifNext .next
  · exact .next

theorem execSwapTimeout_ends : Ends i (execSwapTimeout s) := by
  unfold execSwapTimeout
  split
  · exact .ifNext .next
  · exact .ifNext .next
  · exact .next

theorem execPtpFollowUp_ends {port m t1 corr} : Ends i (execPtpFollowUp port m t1 corr s) := by
  unfold execPtpFollowUp
  refine .ifNext ?_
  split
  · exact .ifNext .next
  · exact .next

theorem execPtpPdelayRespFollowUp_ends {port r t3 corr} : Ends i (execPtpPdelayRespFollowUp port r t3 corr s) := by
  unfold execPtpPdelayRespFollowUp
  refine .ifNext ?_
  split
  · exact .ifNext .next
  · exact .next

theorem execTimeStep_ends : Ends i (execTimeStep s) := by
  unfold execTimeStep
  split
  · exact .next
  · exact .ifNext .next

theorem execPpsInAccept_ends : Ends i (execPpsInAccept s) := by
  unfold execPpsInAccept
  split
  · exact .ifNext (.ifNext .next)
  · exact .next

theorem execFuseProgramDone_ends {ok : Bool} : Ends i (execFuseProgramDone ok s) := by
  unfold execFuseProgramDone
  split
  · exact .next
  · exact .ifNext .next

theorem execFuseEnDeassert_ends : Ends i (execFuseEnDeassert s) := by
  unfold execFuseEnDeassert
  dsimp only
  split <;> exact .next

theorem execCommandBufferReadDone_ends {ok data} : Ends i (execCommandBufferReadDone ok data s) := by
  unfold execCommandBufferReadDone
  split
  · exact .next
  · exact .ifNext .next

theorem execPlateReadCopyEnd_ends : Ends i (execPlateReadCopyEnd s) := by
  unfold execPlateReadCopyEnd
  split <;> exact .next

theorem execRegisterWrite_ends {fn bar2 off value} : Ends i (execRegisterWrite fn bar2 off value s) := by
  unfold execRegisterWrite
  refine .ifNext (.ifElse (.ifNext .next) (.ifNext (.ifNext (.ifElse (.ifNext .next) (.ifNext (.ifNext (.ifNext (.ifElse (.ifNext .next)
    (.ifElse (.ifNext .next) (.ifElse (.ifNext .next) (.ifElse ?_ (.ifNext .next))))))))))))
  exact .ifNext (.ifNext .next)

/-! ## Instructions with an index that may name no unit -/

theorem conversionBoundary_ends {core : Nat} {raw} : Ends (.conversionBoundary core raw) (exec (.conversionBoundary core raw) s) := by
  change Ends _ (execConversionBoundary core raw s)
  unfold execConversionBoundary
  refine .ifFault (fun h => by simp [WellFormed]; omega) (.ifNext (.ifNext ?_))
  dsimp only
  split
  · exact .ifNext .next
  · exact .next

theorem calInForce_ends {scope : BitVec 16} {d} : Ends (.calInForce scope d) (exec (.calInForce scope d) s) := by
  change Ends _ (execCalInForce scope d s)
  unfold execCalInForce
  refine .ifFault (fun h => ?_) ?_
  · rw [← Bool.not_eq_true]
    exact fun hwf => by simp [isScope_of_wf _ hwf] at h
  · split
    · exact .next
    · exact .ifNext .next

end

/-- Settles O15: an index outside its range faults (`Ends.ifFault`); every other branch of an instruction is a next state. -/
theorem wellFormedCommandsComplete : Obligations.WellFormedCommandsComplete := by
  intro i s
  change Ends i (exec i s)
  cases i
  case conversionBoundary => exact conversionBoundary_ends
  case calInForce => exact calInForce_ends
  case rangeChangeRelease => exact .ifFault (fun h => by simp [WellFormed]; omega) .next
  case readbackConversion => exact .ifFault (fun h => by simpa [WellFormed] using h) (.ifNext (.ifNext (.ifNext (.ifNext .next))))
  case evStatusClear => exact .ifFault (fun h => by simp [WellFormed, wfEvWord]; omega) (.ifNext .next)
  case msixUnmask => exact .ifFault (fun h => by simp [WellFormed]; omega) (.ifNext .next)
  case masterResetMidBurst => exact .ifFault (fun h => by simp [WellFormed]; omega) (.ifNext .next)
  case busErrorAccess => exact .ifFault (fun h => by simp [WellFormed]; omega) (.ifNext .next)
  case mirrorRequest => exact .ifFault (fun h => by simp [WellFormed]; omega) .next
  case mirrorCompletion => exact .ifFault (fun h => by simp [WellFormed]; omega) .next
  case mirrorPin => exact .ifFault (fun h => by simp [WellFormed]; omega) .next
  case mirrorImage => exact .ifFault (fun h => by simp [WellFormed]; omega) .next
  case mirrorLoopset => exact .ifFault (fun h => by simp [WellFormed]; omega) .next
  case mirrorPlate => exact .ifFault (fun h => by simp [WellFormed, wfPlate]; omega) .next
  case clearedByRead => exact execClearedByRead_ends
  case flashWriteDone => exact execFlashWriteDone_ends
  case snapshotComplete => exact execSnapshotComplete_ends
  case localisationEnd => exact execLocalisationEnd_ends
  case calStart => exact execCalStart_ends
  case captureEnd => exact execCaptureEnd_ends
  case descriptorFetched => exact execDescriptorFetched_ends
  case arbitrationDecision => exact execArbitrationDecision_ends
  case batchSubmit => exact execBatchSubmit_ends
  case routeJobStart => exact execRouteJobStart_ends
  case routeJobComplete => exact execRouteJobComplete_ends
  case completionWrite => exact execCompletionWrite_ends
  case hdmaBurst => exact execHdmaBurst_ends
  case translationWalkDone => exact execTranslationWalkDone_ends
  case faultEntryHandled => exact execFaultEntryHandled_ends
  case go => exact execGo_ends
  case refereeArm => exact execRefereeArm_ends
  case refereeGo => exact execRefereeGo_ends
  case swapHandover => exact execSwapHandover_ends
  case swapTimeout => exact execSwapTimeout_ends
  case ptpFollowUp => exact execPtpFollowUp_ends
  case ptpPdelayRespFollowUp => exact execPtpPdelayRespFollowUp_ends
  case timeStep => exact execTimeStep_ends
  case ppsInAccept => exact execPpsInAccept_ends
  case fuseProgramDone => exact execFuseProgramDone_ends
  case fuseEnDeassert => exact execFuseEnDeassert_ends
  case commandBufferReadDone => exact execCommandBufferReadDone_ends
  case plateReadCopyEnd => exact execPlateReadCopyEnd_ends
  case registerWrite => exact execRegisterWrite_ends
  case refLinkDown | refereeStart => exact .ifNext (.ifNext .next)
  case claimSend => exact .ifNext (.ifElse (.ifNext .next) .next)
  case jtagDebugAccess => exact .ifNext (.ifNext (.ifElse (.ifNext .next) .next))
  all_goals
    repeat refine .ifNext ?_
    exact .next

end Sys2Proof.Machine
end

section
/-! The bus matrix (R545 to R552), the board management port (R581, R582) and the debug port (R449, R545). -/

namespace Sys2Proof.Machine

/-! ## Board management (R581, R582) -/

section
variable {s : State} {addr : BitVec 7} {op : SmbusOp} {code : BitVec 8}

theorem exec_smbusRead_reset (h : s.sys.mode = .reset) : exec (.smbusRead addr op code) s = .next (s.emit (.smbus none)) :=
  if_pos (by simp [h])

theorem smbusAddr_ne_alert (s : State) : (0x0C : BitVec 7).toNat ≠ s.smbusAddr := by
  unfold State.smbusAddr
  split <;> decide

section
variable (h : s.sys.mode ≠ .reset)
include h

theorem exec_smbusRead_own (haddr : addr.toNat = s.smbusAddr) :
    exec (.smbusRead addr op code) s = .next (s.emit (.smbus (s.smbusData op code.toNat))) :=
  (if_neg (by simp [h])).trans (if_pos haddr)

theorem exec_smbusRead_alert (haddr : addr = 0x0C) (hop : op = .readByte) : exec (.smbusRead addr op code) s = .next (s.emit (.smbus
    (if s.faults.thermalLimit || s.supplyStands then some [BitVec.ofNat 8 (2 * s.smbusAddr)] else none))) := by
  change execSmbusRead addr op code s = _
  subst haddr hop
  rw [execSmbusRead, if_neg (by simp [h]), if_neg (smbusAddr_ne_alert s)]
  cases halert : s.faults.thermalLimit || s.supplyStands with
  | true => exact if_pos ⟨rfl, rfl, by rw [State.smbalertN, halert]; rfl⟩
  | false => exact if_neg fun hlow => by simp [State.smbalertN, halert] at hlow

theorem exec_smbusRead_other (haddr : addr.toNat ≠ s.smbusAddr) (halert : addr ≠ 0x0C) :
    exec (.smbusRead addr op code) s = .next (s.emit (.smbus none)) :=
  (if_neg (by simp [h])).trans ((if_neg haddr).trans (if_neg fun k => halert k.1))

end

theorem smbusData_status (s : State) : s.smbusData .readByte 1 = some [BitVec.ofNat 8
    (s.sys.mode.num + 16 * bit s.pair.held + 32 * bit s.faults.healthy + 64 * bit s.faults.thermalLimit + 128 * bit s.supplyStands)] :=
  congrArg (fun x => some (bytesLE 1 x)) (pack_bits5 _ (mode_num_lt _) ..)

theorem smbusData_volt {v : Nat} (hmin : 0x30 ≤ code.toNat) (hmax : code.toNat < 0x48)
    (hv : s.faults.volts[code.toNat - 0x30]? = some v) : s.smbusData .readWord code.toNat = some (bytesLE 2 v) := by
  unfold State.smbusData
  dsimp only
  rw [if_neg (by omega), if_neg (by omega), if_neg (by omega), if_pos ⟨hmin, hmax⟩, hv]
  rfl

end

/-- Settles O31: one lemma per address, and the content of a command code by `State.smbusData`. -/
theorem smbusComplete : Obligations.SmbusComplete := by
  intro s addr op code
  refine ⟨rfl, exec_smbusRead_reset, fun hmode => ⟨fun haddr => ?own, exec_smbusRead_alert hmode, exec_smbusRead_other hmode⟩⟩
  have hown := exec_smbusRead_own (op := op) (code := code) hmode haddr
  refine ⟨?_, ?_, ?_, ?_, ?_⟩
  · rintro rfl rfl
    exact hown
  · rintro rfl hmin hmax v hv
    rw [hown, smbusData_volt hmin hmax hv]
  · rintro rfl rfl
    exact hown.trans (by rw [show (1 : BitVec 8).toNat = 1 from rfl, smbusData_status])
  · rintro rfl rfl
    exact hown
  · rintro rfl
    exact hown

/-! ## The debug port (R449, R545) -/

section
variable {s : State} {a : Nat} {v : W32}

theorem exec_jtag_locked {w : Bool} {t : BusTarget} (h : s.fuse 2816 1 = 1 ∨ (s.sys.mode ≠ .service ∧ s.sys.mode ≠ .isolated)) :
    exec (.jtagDebugAccess w t a v) s = .next s := if_pos (by rcases h with h | h <;> simp [h])

section
variable (hlock : s.fuse 2816 1 = 0) (hmode : s.sys.mode = .service ∨ s.sys.mode = .isolated)
include hlock hmode

theorem exec_jtag_error {w : Bool} {t : BusTarget} (h : busPermits 9 w t = false) :
    exec (.jtagDebugAccess w t a v) s = .next (s.emit (.busError 9)) :=
  (if_neg (by rcases hmode with k | k <;> simp [hlock, k])).trans (if_pos (by simp [h]))

theorem exec_jtag_read {t : BusTarget} (h : busPermits 9 false t = true) :
    exec (.jtagDebugAccess false t a v) s = .next ((s.busAccess 9 false t).debugRead t a) :=
  (if_neg (by rcases hmode with k | k <;> simp [hlock, k])).trans (if_neg (by simp [h]))

theorem exec_jtag_tcmWrite : exec (.jtagDebugAccess true .tcm a v) s = .next ((s.busAccess 9 true .tcm).tcmWrite a v.toNat) :=
  (if_neg (by rcases hmode with k | k <;> simp [hlock, k])).trans (if_neg (by decide))

end

/-- An access of the bus matrix changes what the arbiters and the outstanding transactions are, and nothing else. -/
theorem busAccess_host (s : State) (m : Nat) (write : Bool) (t : BusTarget) :
    s.busAccess m write t = { s with host := (s.busAccess m write t).host } := by
  unfold State.busAccess
  split <;> rfl

theorem tcmAt_tcmWrite (s : State) (a x b : Nat) : (s.tcmWrite a x).tcmAt b =
    if a ≤ b ∧ b < a + 4 then ((bytesLE 4 x)[b - a]?).getD (Config.tcmByte b) else s.tcmAt b := by
  rw [State.tcmAt, State.tcmWrite, tcm_find, bytesLE_length]
  split <;> rfl

theorem bytesLE_four (v : W32) : ∀ k, k < 4 → (bytesLE 4 v.toNat)[k]? = some (v.extractLsb' (8 * k) 8) := by
  intro k hk
  have hbyte : ∀ j, BitVec.ofNat 8 (v.toNat / 2 ^ j) = v.extractLsb' j 8 := fun j => by
    apply BitVec.eq_of_toNat_eq
    simp [Nat.shiftRight_eq_div_pow]
  have hlist : bytesLE 4 v.toNat = [v.extractLsb' 0 8, v.extractLsb' 8 8, v.extractLsb' 16 8, v.extractLsb' 24 8] := by
    simp only [bytesLE, Nat.div_div_eq_div_mul, ← hbyte, Nat.pow_zero, Nat.div_one]
    rfl
  rw [hlist]
  match k, hk with
  | 0, _ | 1, _ | 2, _ | 3, _ => rfl

end

/-- Settles O32: a read by `exec_jtag_read` and what `State.debugRead` returns, a write of the tightly coupled memory by `tcmAt_tcmWrite`. -/
theorem debugPortComplete : Obligations.DebugPortComplete := by
  intro s w t a v
  refine ⟨exec_jtag_locked, fun hlock hmode => ⟨exec_jtag_error hlock hmode, ?cs, ?fuse, fun ha u hu => ⟨fun hgood => ?_, fun hbad => ?_⟩, ?tcm⟩⟩
  case cs =>
    rw [exec_jtag_read hlock hmode rfl, busAccess_host]
    rfl
  case fuse =>
    rw [exec_jtag_read hlock hmode rfl, busAccess_host]
    rfl
  case tcm =>
    refine ⟨_, exec_jtag_tcmWrite hlock hmode, ?_, fun k hk => ?_, fun b hb => ?_⟩
    · rw [busAccess_host]
      rfl
    · rw [tcmAt_tcmWrite, if_pos (by omega), Nat.add_sub_cancel_left, bytesLE_four v k hk]
      rfl
    · rw [tcmAt_tcmWrite, if_neg (by omega), busAccess_host]
      rfl
  all_goals
    subst hu
    have hread : (s.busAccess 9 false .plateStore).debugRead .plateStore a = (s.busAccess 9 false .plateStore).plateWord a := if_pos ha
    rw [exec_jtag_read hlock hmode rfl, hread]
  · rw [plateWord_of_good (by rw [badIn_congr (busAccess_burin ..)]; exact hgood), busAccess_burin]
  · rw [plateWord_of_bad (by rw [badIn_congr (busAccess_burin ..)]; exact hbad)]

/-! ## The bus matrix (R545, R549, R551, R552) -/

section
variable {s : State} {m : Nat}

theorem exec_busError {w : Bool} {t : BusTarget} (hm : m < 10) (h : busPermits m w t = false) :
    exec (.busErrorAccess m w t) s = .next (if m = 9 then s.emit (.busError 9) else (s.emit (.busError m)).raiseCore 7 .m) := by
  change execBusErrorAccess m w t s = _
  unfold execBusErrorAccess
  rw [if_neg (by omega), if_neg (by simp [h])]
  by_cases h9 : m = 9
  · subst h9; rfl
  · simp only [h9, if_false]

theorem exec_busPermitted {w : Bool} {t : BusTarget} (hm : m < 10) (h : busPermits m w t = true) :
    exec (.busErrorAccess m w t) s = .next s := (if_neg (by omega)).trans (if_pos h)

theorem freeId_some {b : Bus} {id : Nat} (h : b.freeId m = some id) : id / 16 = m ∧ ∀ x ∈ b.txns, x.id ≠ id := by
  obtain ⟨k, hk, rfl⟩ := List.mem_map.mp (List.mem_of_find?_eq_some h)
  have hk := List.mem_range.mp hk
  have hfree := List.find?_some h
  exact ⟨by omega, fun x hx => by simpa using fun heq => (by simpa using hfree : ∀ x ∈ b.txns, x.id ≠ 16 * m + k) x hx heq⟩

theorem freeId_none {b : Bus} (h : b.freeId m = none) {k : Nat} (hk : k < 16) : ∃ x ∈ b.txns, x.id = 16 * m + k := by
  have hall := List.find?_eq_none.mp h (16 * m + k) (List.mem_map.mpr ⟨k, List.mem_range.mpr hk, rfl⟩)
  simpa using hall

theorem busAccess_none {w : Bool} {t : BusTarget} (h : s.host.bus.freeId m = none) : s.busAccess m w t = s := by
  rw [State.busAccess, h]

theorem busAccess_some {w : Bool} {t : BusTarget} {id : Nat} (h : s.host.bus.freeId m = some id) : s.busAccess m w t =
    { s with host := { s.host with bus := ((s.host.bus.issue id t w).granted m w t).respond id } } := by rw [State.busAccess, h]

theorem granted_last (b : Bus) {w : Bool} {t : BusTarget} (h : t ≠ .plateStore ∨ w = false) :
    rd (b.granted m w t).rootLast (portOf t) 3 = leafOf m ∧ rd (b.granted m w t).leafLast (16 * leafOf m + portOf t) 10 = m := by
  have hread : ¬ (t = .plateStore ∧ w = true) := by rintro ⟨ht, hw⟩; simp [ht, hw] at h
  rw [Bus.granted, if_neg hread]
  exact ⟨by rw [rd_wr, if_pos rfl], by rw [rd_wr, if_pos rfl]⟩

theorem granted_txns (b : Bus) (w : Bool) (t : BusTarget) : (b.granted m w t).txns = b.txns := by
  unfold Bus.granted
  split <;> rfl

theorem mem_respond {b : Bus} {id : Nat} {x : BusTxn} (hx : x ∈ b.txns) (hid : x.id ≠ id) (hserved : x.served = false) :
    x ∈ (b.respond id).txns :=
  List.mem_filter.mpr ⟨List.mem_map.mpr ⟨x, hx, if_neg hid⟩, by simp [hserved]⟩

/-- The transactions that a flush leaves. -/
theorem mem_flush {b : Bus} {p : Nat → Bool} {x : BusTxn} (hx : x ∈ b.txns) : x ∈ (b.flush p).txns ↔ p x.id = false := by
  simp [Bus.flush, hx]

theorem exec_masterReset (hm : m < 10) (h : m ≠ 4) : exec (.masterResetMidBurst m) s =
    .next (s.busFlush (fun w => decide (portMaster w.requester = m)) (fun id => decide (id / 16 = m))) :=
  (if_neg (by omega)).trans (if_neg h)

end

/-- Settles O30: an access outside the table by `exec_busError`, transaction IDs by `freeId_some` and `freeId_none`, grants by `granted_last`, and
what a reset leaves by `mem_flush`. -/
theorem busMatrixComplete : Obligations.BusMatrixComplete := by
  intro s m hm
  refine ⟨fun _ _ => exec_busError hm, fun _ _ => exec_busPermitted hm, ?table, fun _ => freeId_some, fun h k hk => freeId_none h hk,
    fun w t => ⟨busAccess_none, fun id hid => ?access⟩, ?hdma, fun h => ?other⟩
  case table => exact ⟨rfl, rfl, rfl, rfl, rfl, rfl, rfl, rfl, fun w => by cases w <;> rfl⟩
  case access =>
    refine ⟨_, busAccess_some hid, granted_last _, fun x hx => mem_respond ?_ ((freeId_some hid).2 x hx)⟩
    rw [granted_txns]
    exact List.mem_append_left _ hx
  case hdma => rintro rfl; rfl
  case other =>
    refine ⟨_, exec_masterReset hm h, ?_, fun x hx => ?_⟩
    · have hkept : (fun w : PortWrite => !decide (portMaster w.requester = m)) = fun w => decide (portMaster w.requester ≠ m) :=
        funext fun w => by simp
      simp only [State.busFlush, hkept]
      rfl
    · change _ ↔ x.id / 16 ≠ m ∧ ∀ w ∈ s.host.portWaits, portMaster w.requester = m → w.id ≠ some x.id
      exact (mem_flush hx).trans (by simp)

end Sys2Proof.Machine
end

section
/-! Writes of registers (R465, R491, R556, R595). -/

namespace Sys2Proof.Machine

section
variable {s : State} {fn : BitVec 7} {off : BitVec 22} {v : W32}

theorem exec_registerWrite_ignored {b : Bool} (h : s.decodes fn.toNat = false ∨ off.toNat % 4 ≠ 0) :
    exec (.registerWrite fn b off v) s = .next s := if_pos (by rcases h with h | h <;> simp [h])

theorem toNat_ne_zero (h : fn ≠ 0) : fn.toNat ≠ 0 := fun h0 => h (BitVec.eq_of_toNat_eq h0)

section
variable (hd : s.decodes fn.toNat = true) (ha : off.toNat % 4 = 0)
include hd ha

/-! ## BAR0 -/

theorem exec_bar0 : exec (.registerWrite fn false off v) s =
    if 0x100 ≤ off.toNat ∧ off.toNat < 0x140 then .next (s.writeCmd fn.toNat ((off.toNat - 0x100) / 4) v.toNat)
    else if off.toNat = 0x180 then .next (s.doorbell fn.toNat (BitVec.ofNat 16 v.toNat))
    else if off.toNat = 0x188 then execQdCplHead fn v s
    else if off.toNat = 0x18C then .next (s.ackRsp fn.toNat v.toNat)
    else if 0x200 ≤ off.toNat ∧ off.toNat < 0x228 then .next (s.clearEv fn.toNat ((off.toNat - 0x200) / 4) v.toNat)
    else if off.toNat = 0x284 then .next (s.modFn fn.toNat (fun f => { f with ringHead := v.toNat % 65536 }))
    else if off.toNat = 0x1008 then execTmAdj fn v s
    else if 0x3000 ≤ off.toNat ∧ off.toNat < 0x3010 then
      (if fn.toNat = 0 then .next (s.writeShadow ((off.toNat - 0x3000) / 4) v.toNat) else .next s)
    else if off.toNat = 0x3010 then (if fn.toNat = 0 then .next (s.paCommit v.toNat) else .next s)
    else if 0x4000 ≤ off.toNat ∧ off.toNat < 0x4800 then execQdTail fn (BitVec.ofNat 9 ((off.toNat - 0x4000) / 4)) v s
    else if 0x8000 ≤ off.toNat ∧ off.toNat < 0x8030 then
      .next (s.writeMsix fn.toNat ((off.toNat - 0x8000) / 16) ((off.toNat - 0x8000) % 16 / 4) v.toNat)
    else .next s :=
  (if_neg (by simp [hd, ha])).trans (if_neg (by decide))

theorem exec_write_cmd (w : Nat) (hw : w < 16) (ho : off.toNat = 0x100 + 4 * w) : exec (.registerWrite fn false off v) s = .next
    (s.setFn fn.toNat { s.fn fn.toNat with cmd := BitVec.ofNat 512 (setFld (s.fn fn.toNat).cmd.toNat (32 * w) 32 v.toNat) }) := by
  rw [exec_bar0 hd ha, if_pos (by omega), show (off.toNat - 0x100) / 4 = w by omega]
  rfl

theorem exec_write_doorbell (ho : off.toNat = 0x180) : exec (.registerWrite fn false off v) s = exec (.mbDoorbell fn (v.truncate 16)) s := by
  rw [exec_bar0 hd ha, exec_mbDoorbell hd, if_neg (by omega), if_pos ho]
  rfl

theorem exec_write_cplHead (ho : off.toNat = 0x188) : exec (.registerWrite fn false off v) s = exec (.qdCplHead fn v) s := by
  rw [exec_bar0 hd ha]
  repeat rw [if_neg (by omega)]
  exact if_pos ho

theorem exec_write_ack (ho : off.toNat = 0x18C) : exec (.registerWrite fn false off v) s = exec (.mbRspAck fn v) s := by
  rw [exec_bar0 hd ha]
  repeat rw [if_neg (by omega)]
  exact (if_pos ho).trans (if_pos hd).symm

theorem exec_write_evStatus (w : Nat) (hw : w < 10) (ho : off.toNat = 0x200 + 4 * w) :
    exec (.registerWrite fn false off v) s = exec (.evStatusClear fn w v) s := by
  rw [exec_bar0 hd ha, exec_evStatusClear hd hw]
  repeat rw [if_neg (by omega)]
  rw [if_pos (by omega), show (off.toNat - 0x200) / 4 = w by omega]

theorem exec_write_ringHead (ho : off.toNat = 0x284) : exec (.registerWrite fn false off v) s = exec (.evRingHead fn v) s := by
  rw [exec_bar0 hd ha]
  repeat rw [if_neg (by omega)]
  exact (if_pos ho).trans (if_pos hd).symm

theorem exec_write_tmAdj (ho : off.toNat = 0x1008) : exec (.registerWrite fn false off v) s = exec (.tmAdj fn v) s := by
  rw [exec_bar0 hd ha]
  repeat rw [if_neg (by omega)]
  exact if_pos ho

theorem exec_write_shadow (k : Nat) (hk : k < 4) (ho : off.toNat = 0x3000 + 4 * k) : exec (.registerWrite fn false off v) s =
    if fn.toNat = 0 then .next (s.writeShadow k v.toNat) else .next s := by
  rw [exec_bar0 hd ha]
  repeat rw [if_neg (by omega)]
  rw [if_pos (by omega), show (off.toNat - 0x3000) / 4 = k by omega]

theorem exec_write_paCommit (ho : off.toNat = 0x3010) : exec (.registerWrite fn false off v) s = exec (.paCommit fn v) s := by
  rw [exec_bar0 hd ha]
  repeat rw [if_neg (by omega)]
  rw [if_pos ho]
  by_cases hfn : fn = 0
  · subst hfn
    rw [exec_paCommit_pf hd]
    rfl
  · rw [exec_paCommit_vf hfn, if_neg (toNat_ne_zero hfn)]

theorem exec_write_qdTail (i : BitVec 9) (ho : off.toNat = 0x4000 + 4 * i.toNat) :
    exec (.registerWrite fn false off v) s = exec (.qdTail fn i v) s := by
  have hi := i.isLt
  rw [exec_bar0 hd ha]
  repeat rw [if_neg (by omega)]
  rw [if_pos (by omega), show (off.toNat - 0x4000) / 4 = i.toNat by omega, BitVec.ofNat_toNat]
  rfl

/-- Addresses of BAR0 that hold no register that can be written. -/
theorem exec_write_nothing (ho : off.toNat = 0x184 ∨ (0x140 ≤ off.toNat ∧ off.toNat < 0x180) ∨ (0x240 ≤ off.toNat ∧ off.toNat ≤ 0x280) ∨
    off.toNat < 0x100 ∨ (0x288 ≤ off.toNat ∧ off.toNat < 0x1008) ∨ (0x1008 < off.toNat ∧ off.toNat < 0x3000) ∨
    (0x3010 < off.toNat ∧ off.toNat < 0x4000) ∨ (0x4800 ≤ off.toNat ∧ off.toNat < 0x8000) ∨ 0x8030 ≤ off.toNat) :
    exec (.registerWrite fn false off v) s = .next s := by
  rw [exec_bar0 hd ha]
  repeat rw [if_neg (by omega)]

/-! ## The MSI-X table (R595) -/

theorem exec_write_msix (k w : Nat) (hk : k < 3) (hw : w < 4) (ho : off.toNat = 0x8000 + 16 * k + 4 * w) :
    exec (.registerWrite fn false off v) s = .next (s.writeMsix fn.toNat k w v.toNat) := by
  rw [exec_bar0 hd ha]
  repeat rw [if_neg (by omega)]
  rw [if_pos (by omega), show (off.toNat - 0x8000) / 16 = k by omega, show (off.toNat - 0x8000) % 16 / 4 = w by omega]

/-! ## BAR2 of the PF (R490, R491) -/

theorem exec_write_bar2_vf (h : fn ≠ 0) : exec (.registerWrite fn true off v) s = .next s :=
  (if_neg (by simp [hd, ha])).trans ((if_pos rfl).trans (if_neg (toNat_ne_zero h)))

theorem exec_write_bar2 (h : fn = 0) : exec (.registerWrite fn true off v) s = .next (s.writeBar2 off.toNat v.toNat) :=
  (if_neg (by simp [hd, ha])).trans ((if_pos rfl).trans (if_pos (by rw [h]; rfl)))

end
end

section
variable {s : State} {n k : Nat} {v : W32}

theorem writeMsix_addr {w : Nat} (hw : w < 2) : s.writeMsix n k w v.toNat = s.setFn n { s.fn n with
    vAddr := wr (s.fn n).vAddr k (setFld (rd (s.fn n).vAddr k 0) (32 * w) 32 v.toNat) } := by
  match w, hw with
  | 0, _ | 1, _ => rfl

theorem writeMsix_mask (h : v.getLsbD 0 = true) :
    s.writeMsix n k 3 v.toNat = s.setFn n { s.fn n with vMask := (s.fn n).vMask ||| BitVec.ofNat 3 (2 ^ k) } := if_pos h

theorem writeMsix_unmask (h : v.getLsbD 0 = false)
    (hnone : (s.fn n).vPend.getLsbD k = false ∨ (s.fn n).msixEnable = false ∨ (s.fn n).funcMask = true) :
    s.writeMsix n k 3 v.toNat = s.setFn n { s.fn n with vMask := (s.fn n).vMask &&& ~~~(BitVec.ofNat 3 (2 ^ k)) } :=
  (if_neg (by rw [tb_toNat, h]; decide)).trans (sendPending_held (by rw [fn_setFn_same]; exact hnone))

/-! ## Flash recovery (R491) -/

theorem writeBar2_healthy {o x : Nat} (h : s.sys.bootFailed = false) : s.writeBar2 o x = s := if_pos (by simp [h])

section
variable (h : s.sys.bootFailed = true)
include h

theorem writeBar2_sector (v : W32) : s.writeBar2 0x300000 v.toNat = { s with sys := { s.sys with sector := v.extractLsb' 12 13 } } := by
  have hsector : BitVec.ofNat 13 (fld v.toNat 12 13) = v.extractLsb' 12 13 := by
    apply BitVec.eq_of_toNat_eq
    simp [fld, Nat.shiftRight_eq_div_pow]
  rw [← hsector]
  exact (if_neg (by simp [h])).trans (if_pos rfl)

theorem writeBar2_op (x : Nat) : s.writeBar2 0x300004 x = s.recoveryWrite (x % 8) := (if_neg (by simp [h])).trans rfl

theorem writeBar2_buffer {a x : Nat} (ha : a < 0x1000) : s.writeBar2 (0x301000 + a) x =
    { s with sys := { s.sys with recoveryBuf := Mem.store 0 s.sys.recoveryBuf a (bytesLE 4 x) } } := by
  unfold State.writeBar2
  rw [if_neg (by simp [h]), if_neg (by omega), if_neg (by omega), if_pos (by omega), Nat.add_sub_cancel_left]

theorem writeBar2_nothing {o x : Nat} (ho : o < 0x300000 ∨ (0x300004 < o ∧ o < 0x301000) ∨ 0x302000 ≤ o) : s.writeBar2 o x = s := by
  unfold State.writeBar2
  rw [if_neg (by simp [h]), if_neg (by omega), if_neg (by omega), if_neg (by omega)]

end

/-- An operation of flash recovery is the command of its number. -/
theorem recoveryWrite_command (s : State) {c : Instr} {op : Nat}
    (hc : (c, op) ∈ [(Instr.flashEraseSector, 1), (Instr.flashProgramSector, 2), (Instr.flashReadSector, 3), (Instr.repeatBoot, 4)]) :
    Host.Outcome.next (s.recoveryWrite op) = exec c s := by
  simp only [List.mem_cons, Prod.mk.injEq, List.not_mem_nil, or_false] at hc
  rcases hc with ⟨rfl, rfl⟩ | ⟨rfl, rfl⟩ | ⟨rfl, rfl⟩ | ⟨rfl, rfl⟩ <;> rfl

end

/-- Settles O27: a lemma per register (`exec_bar0`, `exec_write_bar2`), the words of the MSI-X table by `State.writeMsix`. -/
theorem registerWritesComplete : Obligations.RegisterWritesComplete := by
  intro s fn off v
  refine ⟨fun h b => exec_registerWrite_ignored h, fun hd ha => ⟨exec_write_cmd hd ha, exec_write_doorbell hd ha, exec_write_cplHead hd ha,
    exec_write_ack hd ha, exec_write_evStatus hd ha, exec_write_ringHead hd ha, exec_write_tmAdj hd ha,
    fun k hk ho => ⟨fun hfn => ?shadow, fun hfn => ?_⟩, exec_write_paCommit hd ha, exec_write_qdTail hd ha,
    fun k hk => ⟨fun w hw ho => ?_, fun ho => ?_, fun ho => ?control⟩, exec_write_nothing hd ha, ?vf, ?bar2⟩⟩
  case shadow =>
    rw [exec_write_shadow hd ha k hk ho, if_pos (by rw [hfn]; rfl)]
    rfl
  case vf =>
    rintro (hfn | hboot)
    · exact exec_write_bar2_vf hd ha hfn
    · by_cases hfn : fn = 0
      · rw [exec_write_bar2 hd ha hfn, writeBar2_healthy hboot]
      · exact exec_write_bar2_vf hd ha hfn
  case bar2 =>
    intro hfn hboot
    have hwrite := exec_write_bar2 hd ha (v := v) hfn
    refine ⟨fun ho => ?_, fun c op hc ho hop => ?_, fun a ha ho => ?_, fun ho => ?_⟩
    · rw [hwrite, ho, writeBar2_sector hboot]
    · rw [hwrite, ho, writeBar2_op hboot, hop, recoveryWrite_command s hc]
    · rw [hwrite, ho, writeBar2_buffer hboot ha]
    · rw [hwrite, writeBar2_nothing hboot ho]
  case control =>
    have hexec := exec_write_msix hd ha (v := v) k 3 hk (by decide) (by omega)
    cases hv : v.getLsbD 0 with
    | true =>
      exact ⟨_, _, hexec, fun _ => ⟨writeMsix_mask hv, rfl, fun j hj => getLsbD_setVector _ hj⟩, nofun⟩
    | false =>
      refine ⟨_, { s.fn fn.toNat with vMask := (s.fn fn.toNat).vMask &&& ~~~(BitVec.ofNat 3 (2 ^ k)) }, hexec, nofun, fun _ hnone =>
        ⟨writeMsix_unmask hv hnone, rfl, fun j hj => getLsbD_clearVector _ hj⟩⟩
  · rw [exec_write_shadow hd ha k hk ho, if_neg (toNat_ne_zero hfn)]
  · rw [exec_write_msix hd ha k w hk (by omega) ho, writeMsix_addr hw]
  · exact exec_write_msix hd ha k 2 hk (by decide) (by omega)

end Sys2Proof.Machine
end

section
/-! Resets (R97, R435, R436), secure boot (R437 to R446) and flash recovery (R446, R491). -/

namespace Sys2Proof.Machine

/-! ## RST_N and a collapse of the core supplies -/

/-- What leaves the module when a reset ends its lease: RELEASE of a paired holder whose island runs (R341, R343). -/
theorem releaseLease_spec (s : State) : ∃ h, s.releaseLease = { s with host := h } ∧
    (s.pair.held = true → s.pair.solo = false → s.clk.vddLease = true → h.out = s.host.out ++ [.refSymbol s.pair.refB]) ∧
    (s.pair.held = false ∨ s.pair.solo = true ∨ s.clk.vddLease = false → h.out = s.host.out) := by
  by_cases hsend : s.pair.held = true ∧ s.pair.solo = false ∧ s.clk.vddLease = true
  · obtain ⟨hheld, hsolo, hvdd⟩ := hsend
    refine ⟨(s.emit (.refSymbol s.pair.refB)).host, ?_, fun _ _ _ => rfl, fun h => by simp [hheld, hsolo, hvdd] at h⟩
    rw [State.releaseLease, if_pos hheld, State.sendRelease, if_pos (by simp [State.paired, State.island, hheld, hsolo, hvdd])]
    rfl
  · refine ⟨s.host, ?_, fun hheld hsolo hvdd => absurd ⟨hheld, hsolo, hvdd⟩ hsend, fun _ => rfl⟩
    unfold State.releaseLease State.sendRelease
    split
    · next hheld => rw [if_neg (fun hpaired => hsend (by simpa [State.paired, State.island, hheld] using hpaired))]
    · rfl

/-- Settles O33: the fields of `State.afterReset`, behind the RELEASE of `releaseLease_spec`. -/
theorem resetsComplete : Obligations.ResetsComplete := by
  intro s
  obtain ⟨h, hrelease, hsent, hsilent⟩ := releaseLease_spec s
  refine ⟨fun i hi => ?_, fun a b c hstands => if_pos ?_, fun a b c hrst hcore => if_neg (by simp [hrst, hcore])⟩
  · obtain ⟨rst, core, hexec, hassert, hcollapse⟩ : ∃ rst core, exec i s = .next (s.releaseLease.afterReset rst core) ∧
        (i = .rstNAssert → rst = false ∧ core = true) ∧ (i = .coreSupplyCollapse → core = false) := by
      rcases hi with rfl | rfl
      · exact ⟨_, _, rfl, fun _ => ⟨rfl, rfl⟩, nofun⟩
      · exact ⟨_, _, rfl, nofun, fun _ => rfl⟩
    rw [hrelease] at hexec
    exact ⟨_, hexec, rfl, rfl, rfl, rfl, rfl, rfl, rfl, rfl, rfl, rfl, rfl, rfl, rfl, rfl, rfl, rfl, rfl, hassert, hcollapse, hsent, hsilent⟩
  · rcases hstands with h | h <;> simp [h]

/-! ## Flash recovery (R491) -/

section
variable {s : State} {op : Nat}

theorem recovery_ignored (h : s.sys.bootFailed = false) : s.recovery op = s := if_pos (by simp [h])

section
variable (h : s.sys.bootFailed = true)
include h

theorem recovery_starts (hidle : s.sys.recoveryOp = 0) (hsector : op = 3 ∨ s.sys.sector.toNat < 4096) :
    s.recovery op = { s with sys := { s.sys with recoveryOp := op } } :=
  (if_neg (by simp [h])).trans (if_neg (by omega))

theorem recovery_error (hbad : s.sys.recoveryOp ≠ 0 ∨ (op < 3 ∧ 4096 ≤ s.sys.sector.toNat)) :
    s.recovery op = { s with sys := { s.sys with recoveryError := true } } :=
  (if_neg (by simp [h])).trans (if_pos hbad)

end

theorem exec_recovery {i : Instr} (s : State)
    (hi : (i, op) ∈ [(Instr.flashEraseSector, 1), (Instr.flashProgramSector, 2), (Instr.flashReadSector, 3)]) :
    exec i s = .next (s.recovery op) := by
  simp only [List.mem_cons, Prod.mk.injEq, List.not_mem_nil, or_false] at hi
  rcases hi with ⟨rfl, rfl⟩ | ⟨rfl, rfl⟩ | ⟨rfl, rfl⟩ <;> rfl

theorem exec_flashOpDone_failed (h : s.sys.recoveryOp ≠ 0) : exec (.flashOpDone false) s =
    .next { s with sys := { s.sys with recoveryOp := 0, recoveryError := true } } := (if_neg h).trans (if_pos rfl)

/-- The bytes that an erase or a program leaves in its sector. -/
def State.recovered (s : State) : List Byte :=
  if s.sys.recoveryOp = 1 then List.replicate 4096 flashDefault else Mem.bytes 0 s.sys.recoveryBuf 0 4096

theorem recovered_length (s : State) : s.recovered.length = 4096 := by
  unfold State.recovered
  split
  · exact List.length_replicate
  · exact bytes_length ..

theorem recovered_getD (s : State) {k : Nat} (hk : k < 4096) : s.recovered.getD k flashDefault =
    if s.sys.recoveryOp = 1 then flashDefault else Mem.byte 0 s.sys.recoveryBuf k := by
  unfold State.recovered
  split
  · rw [List.getD_replicate _ hk]
  · rw [List.getD_eq_getElem?_getD, bytes_get _ _ _ _ _ hk, Nat.zero_add]
    rfl

theorem exec_flashOpDone_write (h : s.sys.recoveryOp = 1 ∨ s.sys.recoveryOp = 2) : exec (.flashOpDone true) s = .next
    { s with sys := { s.sys with recoveryOp := 0, flash := Mem.store flashDefault s.sys.flash (4096 * s.sys.sector.toNat) s.recovered } } := by
  change execFlashOpDone true s = _
  unfold execFlashOpDone State.recovered
  rcases h with h | h <;> rw [h] <;> rfl

theorem exec_flashOpDone_read (h : s.sys.recoveryOp = 3) : exec (.flashOpDone true) s = .next
    { s with sys := { s.sys with
        recoveryOp := 0
        recoveryBuf := Mem.store 0 s.sys.recoveryBuf 0 (Mem.bytes flashDefault s.sys.flash (4096 * s.sys.sector.toNat) 4096) } } := by
  change execFlashOpDone true s = _
  unfold execFlashOpDone
  rw [h]
  rfl

end

/-- Settles O36: when an operation starts by the equations of `State.recovery`; the bytes that it leaves by `Mem.byte_store`. -/
theorem flashRecoveryComplete : Obligations.FlashRecoveryComplete := by
  intro s
  refine ⟨fun h => ?ignored, fun i op hi h => ⟨fun hidle hsector => ?_, fun hbad => ?_⟩, exec_flashOpDone_failed,
    fun hflash hbuf => ⟨fun hop => ⟨_, exec_flashOpDone_write hop, by dsimp only, fun a => ?write⟩,
      fun hop => ⟨_, exec_flashOpDone_read hop, by dsimp only, fun a ha => ?read⟩⟩⟩
  case ignored =>
    have hignored : ∀ op, s.recovery op = s := fun _ => recovery_ignored h
    exact ⟨congrArg _ (hignored 1), congrArg _ (hignored 2), congrArg _ (hignored 3), congrArg _ (if_pos (by simp [h]))⟩
  case write =>
    dsimp only
    rw [Mem.byte_store _ _ _ _ _ hflash, recovered_length]
    split
    · next hin => rw [recovered_getD s (by omega)]
    · rfl
  case read =>
    dsimp only
    rw [Mem.byte_store _ _ _ _ _ hbuf, bytes_length, if_pos (by omega), List.getD_eq_getElem?_getD, bytes_get _ _ _ _ _ (by omega)]
    rfl
  · rw [exec_recovery s hi, recovery_starts h hidle hsector]
  · rw [exec_recovery s hi, recovery_error h hbad]

/-! ## Secure boot (R445) -/

/-- The slots, in the order in which the Boot ROM tries them. -/
theorem slotOrder_cases (s : State) : s.slotOrder = [true, false] ∨ s.slotOrder = [false, true] := by
  unfold State.slotOrder
  split
  · split
    · exact .inl rfl
    · exact .inr rfl
  · exact .inl rfl
  · exact .inr rfl

theorem bootSelect_none {s : State} {r : Nat} (h : ∀ b, (s.slotFault b).isSome = true)
    (hr : s.slotFault ((s.slotOrder.getLast?).getD false) = some r) :
    s.bootSelect = { s with sys := { s.sys with bootFailed := true, bootReason := r } } := by
  have hfind : s.slotOrder.find? (fun b => (s.slotFault b).isNone) = none := List.find?_eq_none.mpr fun b _ => by
    simpa [Option.isSome_iff_ne_none] using h b
  have hreason : (s.slotOrder.filterMap s.slotFault).getLast?.getD 1 = r := by
    obtain ⟨p, hp⟩ := Option.isSome_iff_exists.mp (h true)
    obtain ⟨q, hq⟩ := Option.isSome_iff_exists.mp (h false)
    rcases slotOrder_cases s with ho | ho <;> rw [ho] at hr ⊢ <;> simp_all
  unfold State.bootSelect
  simp only [hfind, hreason]

end Sys2Proof.Machine
end

section

namespace Sys2Proof.Machine

/-! ### The image that is found runs -/

/-- From `s` to `t` nothing but the state of the calibration has changed. -/
def OnlyCal (s t : State) : Prop := ∃ c, t = { s with cal := c }

theorem OnlyCal.refl (s : State) : OnlyCal s s := ⟨_, rfl⟩

theorem OnlyCal.trans {s t u : State} (h : OnlyCal s t) (g : OnlyCal t u) : OnlyCal s u := by
  obtain ⟨c, rfl⟩ := h
  obtain ⟨d, rfl⟩ := g
  exact ⟨d, rfl⟩

theorem setScope_onlyCal (s : State) (n : Nat) (x : Scope) : OnlyCal s (s.setScope n x) := ⟨_, rfl⟩

theorem loadPolicy_onlyCal (s : State) : OnlyCal s s.loadPolicy := by
  unfold State.loadPolicy
  dsimp only
  split
  · exact ⟨_, rfl⟩
  · exact .refl s

theorem foldl_setScope_onlyCal (l : List (Nat × Scope)) (s : State) : OnlyCal s (l.foldl (fun t e => t.setScope e.1 e.2) s) := by
  induction l generalizing s with
  | nil => exact .refl s
  | cons e l ih => exact (setScope_onlyCal s e.1 e.2).trans (ih _)

theorem loadConv_onlyCal (s : State) : OnlyCal s s.loadConv := by
  unfold State.loadConv
  split
  · exact .refl s
  · exact OnlyCal.trans ⟨_, rfl⟩ (foldl_setScope_onlyCal _ _)

/-- R445, R437: the state in which the firmware of slot `b` runs, before the records of flash are taken. -/
def State.imageRuns (s : State) (b back : Bool) : State :=
  { s.runImage b with sys := { (s.runImage b).sys with bootFailed := false, bootReason := 0, mailboxOpen := true, fallback := back } }

/-- Where an image verifies, the selection runs it; records and the event of a fall-back change the calibration, the fault log and
the host's side only, and the mode to enter waits for the tick. -/
theorem bootSelect_some {s : State} {b : Bool} (h : s.slotOrder.find? (fun x => (s.slotFault x).isNone) = some b) :
    ∃ back c f g u, u = { s.imageRuns b back with cal := c, faults := f, host := g } ∧
      s.bootSelect = u.due (.enter (if u.skipsStartup then u.bootTarget else .startupCal)) := by
  unfold State.bootSelect
  extract_lets order
  split
  · next hnone => cases hnone.symm.trans h
  · next b' hfound =>
    obtain rfl : b = b' := Option.some.inj (h.symm.trans hfound)
    extract_lets back s1 src s2 s3 s4
    obtain ⟨c, hc⟩ : OnlyCal (s.imageRuns b back) s3 := (loadPolicy_onlyCal s2).trans (loadConv_onlyCal _)
    obtain ⟨f, g, hfg⟩ : Told s3 s4 := .ite (State.raise_told ..) (.refl _)
    exact ⟨back, c, f, g, s4, by rw [hfg, hc], rfl⟩

theorem exec_bootComplete {s : State} (hmode : s.sys.mode = .boot) (hopen : s.sys.mailboxOpen = false)
    (hfailed : s.sys.bootFailed = false) (hruns : s.runs = true) : exec .bootComplete s = .next s.bootSelect :=
  if_neg (by simp [hmode, hopen, hfailed, hruns])

theorem exec_repeatBoot {s : State} (hfailed : s.sys.bootFailed = true) (hidle : s.sys.recoveryOp = 0) :
    exec .repeatBoot s = .next s.bootSelect := by
  refine congrArg Host.Outcome.next ?_
  unfold State.repeatBoot
  rw [if_neg (by simp [hfailed]), if_neg (by simp [hidle])]

theorem exec_repeatBoot_busy {s : State} (hfailed : s.sys.bootFailed = true) (hbusy : s.sys.recoveryOp ≠ 0) :
    exec .repeatBoot s = .next { s with sys := { s.sys with recoveryError := true } } := by
  refine congrArg Host.Outcome.next ?_
  unfold State.repeatBoot
  rw [if_neg (by simp [hfailed]), if_pos hbusy]

/-- Settles O35: both ways to the selection are `State.bootSelect`, by `bootSelect_none` and `bootSelect_some`. -/
theorem bootComplete : Obligations.BootComplete := by
  intro s
  refine ⟨fun i hi => ?selection, exec_repeatBoot_busy, fun hmode hphase => if_pos ⟨hmode, hphase⟩⟩
  have hexec : exec i s = .next s.bootSelect := by
    rcases hi with ⟨rfl, hmode, hopen, hfailed, hruns⟩ | ⟨rfl, hfailed, hidle⟩
    · exact exec_bootComplete hmode hopen hfailed hruns
    · exact exec_repeatBoot hfailed hidle
  rw [hexec]
  refine ⟨fun hall r hr => congrArg _ (bootSelect_none hall hr), fun b hb => ?_⟩
  obtain ⟨back, c, f, g, u, rfl, hboot⟩ := bootSelect_some hb
  exact ⟨_, rfl, by rw [hboot]; exact ⟨rfl, rfl, rfl, rfl, rfl, rfl⟩⟩

end Sys2Proof.Machine
end

section

/-! Hot restart of the firmware (R451 to R454): what a start and an end of it leave as it is. -/

namespace Sys2Proof.Machine

/-! ## What the abandoning of runs changes -/

/-- From `s` to `t` nothing but the sense channels and their converters has changed. -/
def OnlySense (s t : State) : Prop := ∃ x, t = { s with sense := x }

theorem OnlySense.refl (s : State) : OnlySense s s := ⟨_, rfl⟩

theorem OnlySense.trans {s t u : State} (h : OnlySense s t) (g : OnlySense t u) : OnlySense s u := by
  obtain ⟨x, rfl⟩ := h
  obtain ⟨y, rfl⟩ := g
  exact ⟨y, rfl⟩

theorem OnlySense.ite {s t u : State} {c : Prop} [Decidable c] (h : OnlySense s t) (g : OnlySense s u) : OnlySense s (if c then t else u) := by
  split <;> assumption

theorem OnlySense.foldl {α : Type} (f : State → α → State) (h : ∀ t x, OnlySense t (f t x)) (l : List α) (s : State) :
    OnlySense s (l.foldl f s) := by
  induction l generalizing s with
  | nil => exact .refl s
  | cons x l ih => exact (h s x).trans (ih _)

theorem placeGroup_onlySense (s t : State) (g : Nat) : OnlySense t (s.placeGroup t g) := by
  unfold State.placeGroup
  extract_lets s1
  have h1 : OnlySense t s1 := .foldl _ (fun u a => .ite (.refl u) ⟨_, rfl⟩) _ _
  exact h1.trans (.foldl _ (fun u x => ⟨_, rfl⟩) _ _)

theorem setSpare_onlySense (s : State) (g : Nat) (v : Option (Nat × Bool)) : OnlySense s (s.setSpare g v) := by
  unfold State.setSpare
  exact OnlySense.trans ⟨_, rfl⟩ (placeGroup_onlySense s _ g)

theorem returnTia_onlySense (s : State) (x : Nat) : OnlySense s (s.returnTia x) := by
  unfold State.returnTia
  split
  · exact .refl s
  · exact .ite (.refl s) (OnlySense.trans ⟨_, rfl⟩ (.ite (.refl _) ⟨_, rfl⟩))

theorem returnTias_onlySense (s : State) (p : Nat → Bool) : OnlySense s (s.returnTias p) :=
  .foldl (fun (t : State) (e : Nat × Nat) => t.returnTia e.1) (fun t e => returnTia_onlySense t e.1) _ _

theorem returnSpare_onlySense (s : State) (g : Nat) : OnlySense s (s.returnSpare g) := by
  unfold State.returnSpare
  refine .ite (.refl s) ?_
  extract_lets s1
  have h1 : OnlySense s s1 := by
    simp only [s1]
    split
    · exact setSpare_onlySense ..
    · exact .refl s
  exact h1.trans (OnlySense.trans ⟨_, rfl⟩ (returnTias_onlySense _ _))

/-- From `s` to `t` the clock stands, and of the firmware only the commands that run and the images that are staged may have changed. -/
def FirmwareStands (s t : State) : Prop :=
  t.clk = s.clk ∧ ∃ run done staging, t.sys = { s.sys with running := run, bufDone := done, staging := staging }

theorem FirmwareStands.of_eq {s t : State} (hclk : t.clk = s.clk) (hsys : t.sys = s.sys) : FirmwareStands s t :=
  ⟨hclk, _, _, _, hsys⟩

theorem FirmwareStands.refl (s : State) : FirmwareStands s s := .of_eq rfl rfl

theorem FirmwareStands.trans {s t u : State} (h : FirmwareStands s t) (g : FirmwareStands t u) : FirmwareStands s u := by
  obtain ⟨hclk, run, done, staging, hsys⟩ := h
  obtain ⟨gclk, run', done', staging', gsys⟩ := g
  exact ⟨gclk.trans hclk, run', done', staging', by rw [gsys, hsys]⟩

theorem FirmwareStands.ite {s t u : State} {c : Prop} [Decidable c] (h : FirmwareStands s t) (g : FirmwareStands s u) :
    FirmwareStands s (if c then t else u) := by
  split <;> assumption

theorem FirmwareStands.foldl {α : Type} (f : State → α → State) (h : ∀ t x, FirmwareStands t (f t x)) (l : List α) (s : State) :
    FirmwareStands s (l.foldl f s) := by
  induction l generalizing s with
  | nil => exact .refl s
  | cons x l ih => exact (h s x).trans (ih _)

theorem FirmwareStands.told {s t : State} (h : Told s t) : FirmwareStands s t := by
  obtain ⟨f, g, rfl⟩ := h
  exact .refl s

theorem FirmwareStands.onlySense {s t : State} (h : OnlySense s t) : FirmwareStands s t := by
  obtain ⟨x, rfl⟩ := h
  exact .of_eq rfl rfl

theorem FirmwareStands.spoke {s t : State} (h : Spoke s t) : FirmwareStands s t := by
  obtain ⟨run, done, _, _, _, rfl⟩ := h
  exact ⟨rfl, run, done, _, rfl⟩

theorem atTickNow_firmware (s : State) (o : TickOp) (f : State → State) (h : FirmwareStands s (f s)) :
    FirmwareStands s (s.atTickNow o f) :=
  .ite h (.of_eq rfl rfl)

theorem returnTones_firmware (s : State) : FirmwareStands s s.returnTones :=
  FirmwareStands.trans (t := { s with cal := { s.cal with toneBack := [] } }) (.of_eq rfl rfl)
    (FirmwareStands.foldl (fun (t : State) (e : Nat × Nat) => t.modDch e.1 (fun d => { d with a := e.2 })) (fun _ _ => .of_eq rfl rfl) _ _)

theorem allEnded_firmware (s : State) (n : Nat) (rejected : Bool) : FirmwareStands s (s.allEnded n rejected) := by
  unfold State.allEnded
  split
  · exact .refl s
  · refine .ite (.refl s) ?_
    extract_lets l1 first1 bad1 src s1 k
    exact .ite (FirmwareStands.trans (t := s1) (.of_eq rfl rfl) (.spoke (State.answerAt_spoke ..))) (.of_eq rfl rfl)

theorem rejectRun_firmware (s : State) (n reason fail : Nat) : FirmwareStands s (s.rejectRun n reason fail) := by
  unfold State.rejectRun
  extract_lets x s1 src s2 s3 s4 s5
  have h1 : FirmwareStands s s1 := .of_eq rfl rfl
  have h2 : FirmwareStands s s2 := .ite
    (FirmwareStands.trans (t := { s1 with cal := { s1.cal with fabric := none, hatchSets := [], hatchBack := [] } }) (.of_eq rfl rfl)
      (returnTones_firmware _)) h1
  have h3 : FirmwareStands s s3 := .ite (h2.trans (atTickNow_firmware _ _ _ (.onlySense (returnSpare_onlySense _ _)))) h2
  have h4 : FirmwareStands s s4 := h3.trans (.told (State.raise_told ..))
  have h5 : FirmwareStands s s5 := by
    simp only [s5]
    split
    · exact h4.trans (.spoke (State.answerAt_spoke ..))
    · exact h4
  exact h5.trans (allEnded_firmware _ _ _)

theorem abandonRuns_firmware (s : State) : FirmwareStands s s.abandonRuns :=
  .foldl _ (fun t n => rejectRun_firmware t n 8 0xFFFF) _ _

/-! ## The start of a restart (R452, R453) -/

/-- The state of a restart before runs are abandoned. -/
def State.restartBegun (s : State) : State :=
  { s with sys := { s.sys with restarting := true, restartTick := s.clk.ticks }, mirror := { s.mirror with ready := false } }

theorem startRestart_firmware (s : State) : FirmwareStands s.restartBegun s.startRestart :=
  (abandonRuns_firmware s.restartBegun).trans (.ite (.of_eq rfl rfl) (.refl _))

theorem dropBuffers_firmware (s : State) : FirmwareStands s s.dropBuffers := ⟨rfl, _, _, _, rfl⟩

theorem unhealthy_firmware (s : State) : FirmwareStands s s.unhealthy :=
  .ite (FirmwareStands.trans (t := { s with faults := { s.faults with healthy := false } }) (.of_eq rfl rfl) (.told (State.raise_told ..))) (.refl s)

theorem startSwap_none_firmware (s : State) (standby : Bool) : FirmwareStands s (s.startSwap none standby) :=
  .ite (.refl s) (.ite (.of_eq rfl rfl)
    (FirmwareStands.trans (t := { s with pair := { s.pair with swapDeferred := true } }) (.of_eq rfl rfl) (.told (State.raise_told ..))))

theorem requestSwap_firmware (s : State) : FirmwareStands s s.requestSwap :=
  .ite (FirmwareStands.trans (t := { s with pair := { s.pair with swapRequested := true } }) (.of_eq rfl rfl)
    ((FirmwareStands.told (State.raise_told ..)).trans (startSwap_none_firmware _ false))) (.refl s)

/-- R453: what a third restart within 5,000,000 frames does. -/
def State.thirdRestart (s : State) : State :=
  if (s.raise 7 .m).pair.held then (s.raise 7 .m).requestSwap else (s.raise 7 .m).unhealthy

theorem thirdRestart_firmware (s : State) : FirmwareStands s s.thirdRestart :=
  (FirmwareStands.told (State.raise_told s 7 .m {})).trans (.ite (requestSwap_firmware _) (unhealthy_firmware _))

theorem thirdRestart_still (s : State) : s.thirdRestart.still = s.still := by
  unfold State.thirdRestart
  split <;> simp

/-- The expiries that count towards the third (R453), with the one of this frame. -/
def State.expiries (s : State) : List Nat := s.clk.frame :: s.sys.restarts.filter (fun f => decide (s.clk.frame < f + 5000000))

/-- The state in which a watchdog expiry has started a restart. -/
def State.watchdogRestart (s : State) : State :=
  (({ s with sys := { s.sys with restarts := s.expiries, activate := none } } : State).startRestart).dropBuffers

theorem watchdogRestart_firmware (s : State) :
    FirmwareStands ({ s with sys := { s.sys with restarts := s.expiries, activate := none } } : State).restartBegun s.watchdogRestart :=
  (startRestart_firmware _).trans (dropBuffers_firmware _)

theorem watchdogRestart_still (s : State) : s.watchdogRestart.still = s.still := by
  unfold State.watchdogRestart
  simp

theorem exec_watchdogExpiry_ignored {s : State} (h : s.sys.mailboxOpen = false ∨ s.sys.restarting = true) :
    exec .watchdogExpiry s = .next s :=
  if_pos (by simpa using h)

theorem exec_watchdogExpiry {s : State} (hopen : s.sys.mailboxOpen = true) (hidle : s.sys.restarting = false) :
    exec .watchdogExpiry s = .next (if s.expiries.length < 3 then s.watchdogRestart else s.watchdogRestart.thirdRestart) := by
  refine (if_neg (by simp [hopen, hidle])).trans (congrArg Host.Outcome.next ?_)
  by_cases h : s.expiries.length < 3
  · exact (if_neg (Nat.not_le.mpr h)).trans (if_pos h).symm
  · exact (if_pos (Nat.le_of_not_lt h)).trans (if_neg h).symm

/-! ## The end of a restart, and the fall-back (R451, R452) -/

/-- The state in which the restart has ended, before its events are delivered. -/
def State.restartOver (s : State) : State := { s with sys := { s.sys with restarting := false } }

theorem deliverLate_told (s : State) : Told s s.deliverLate :=
  Told.trans ⟨_, _, rfl⟩ (Told.foldl _ (fun _ _ => Told.foldl _ (fun u _ => u.deliver_told ..) _ _) _ _)

theorem deliverLate_checkSource_sys (s : State) : s.deliverLate.checkSource.sys = s.sys :=
  ((SameSource.told (deliverLate_told s)).trans (checkSource_sameSource _)).sys

theorem told_sys {s t : State} (h : Told s t) : t.sys = s.sys := (told_ft h).2.2

theorem spoke_restarting {s t : State} (h : Spoke s t) : t.sys.restarting = s.sys.restarting := by
  obtain ⟨_, _, _, _, _, rfl⟩ := h
  rfl

theorem flashJob_restarting (s : State) (j : FlashJob) : (s.flashJob j).sys.restarting = s.sys.restarting := rfl

theorem endRestart_restarting (s : State) : s.endRestart.sys.restarting = false := by
  have hover : s.restartOver.deliverLate.checkSource.sys.restarting = false := by
    rw [deliverLate_checkSource_sys]
    rfl
  unfold State.endRestart
  extract_lets src s1 s2 seq s3
  split
  · extract_lets srcImage s4
    rw [flashJob_restarting, told_sys (State.raise_told ..), told_sys (State.raise_told ..)]
    exact hover
  · have hspoke : Spoke s2 s3 := .foldl _ (fun t c => State.answer_spoke ..) _ _
    rw [told_sys (State.raise_told ..), spoke_restarting hspoke]
    exact hover

theorem exec_hotRestartEnd {s : State} (h : s.sys.restarting = true) :
    exec .hotRestartEnd s = .next s.endRestart.runHeld.takeWaiting :=
  if_pos h

/-- The end of a restart is no tick, relock or reset, so the mode and the frame number stand. -/
theorem hotRestartEnd_keeps_mode_frame {s t : State} (h : exec .hotRestartEnd s = .next t) :
    t.sys.mode = s.sys.mode ∧ t.clk.frame = s.clk.frame := by
  by_contra hne
  rcases modeAndFrameChangeOnlyAtTicks _ _ _ h (by tauto) with ⟨_, hi⟩ | hi | hi | hi <;> cases hi

/-- Settles O38: the start by `FirmwareStands` and the lemmas on `State.still`, the end by `endRestart_restarting`. -/
theorem hotRestartComplete : Obligations.HotRestartComplete := by
  intro s
  refine ⟨exec_watchdogExpiry_ignored, fun hopen hidle l hl => ?expiry, fun h => if_neg (by simp [h]), fun h => ?ended,
    fun hre hact hlate => if_pos (by simp [hre, hact, hlate]), fun h => if_neg ?fallback⟩
  case expiry =>
    obtain rfl : l = s.expiries := hl
    have hexec := exec_watchdogExpiry hopen hidle
    refine ⟨⟨_, hexec, ?_⟩, fun u hu => by rw [hexec, hu]; rfl⟩
    generalize ht : (if s.expiries.length < 3 then s.watchdogRestart else s.watchdogRestart.thirdRestart) = t
    have hfirmware : FirmwareStands ({ s with sys := { s.sys with restarts := s.expiries, activate := none } } : State).restartBegun t :=
      ht ▸ .ite (watchdogRestart_firmware s) ((watchdogRestart_firmware s).trans (thirdRestart_firmware _))
    have hstill : t.still = s.still := by
      rw [← ht, still_ite, thirdRestart_still, watchdogRestart_still, ite_self]
    obtain ⟨hclk, run, done, staging, hsys⟩ := hfirmware
    exact ⟨by rw [hsys]; rfl, congrArg Still.mode hstill, congrArg Still.held hstill, hclk, congrArg Still.closed hstill,
      by rw [hsys]; rfl, by rw [hsys]; rfl, by rw [hsys]; rfl⟩
  case ended =>
    have hexec := exec_hotRestartEnd h
    obtain ⟨hmode, hframe⟩ := hotRestartEnd_keeps_mode_frame hexec
    exact ⟨_, hexec, hmode, hframe, endRestart_restarting s, rfl⟩
  case fallback =>
    rcases h with h | h | h
    · simp [h]
    · simp [h]
    · simp [Nat.not_le.mpr h]

end Sys2Proof.Machine
end

section

/-! HDMA (R476 to R481, R497, R505): its bursts, its walks, the data it reads and the end of a plate copy. -/

namespace Sys2Proof.Machine

/-! ## Bursts (R477, R478) -/

theorem burst_off {s : State} {x : Xfer} (h : (s.xlate x.dom).mode = 0) : s.burst x = s.xlateFault x 1 (s.burstAddr x) := by
  unfold State.burst
  dsimp only
  rw [h, if_pos (by decide)]
  unfold State.burstIn
  exact if_pos rfl

/-- A read burst sends its read, and HDMA's turn does not move. -/
theorem issue_read_host {s : State} {x : Xfer} (h : x.write = false) (addr n : Nat) :
    (s.issue x addr n).host.out = s.host.out ++ [.hostRead x.dom x.client addr n] ∧ (s.issue x addr n).host.lastDom = s.host.lastDom := by
  unfold State.issue
  dsimp only
  rw [if_neg (by simp [h])]
  exact ⟨rfl, rfl⟩

/-- The state in which it is the turn of a domain's transfer. -/
def State.turnOf (s : State) (x : Xfer) : State := { s with host := { s.host with lastDom := x.dom } }

/-- R477: an ordinary transfer that is under way, and not pre-empted before. -/
def Xfer.preemptible (y : Xfer) : Bool := !y.urgent && decide (0 < y.issued ∧ y.issued < y.len) && !y.preempted

/-- The state in which an urgent burst has pre-empted the ordinary transfers that are under way, and they are counted. -/
def State.preempted (s : State) : State :=
  let t : State := { s with host := { s.host with
    xfers := s.host.xfers.map (fun y => if y.preemptible then { y with preempted := true } else y) } }
  t.tally 0x501 (s.host.xfers.filter Xfer.preemptible).length

theorem exec_hdmaBurst_none {s : State} (h : s.nextXferOf = none) : exec .hdmaBurst s = .next s := by
  change execHdmaBurst s = _
  unfold execHdmaBurst
  rw [h]

theorem exec_hdmaBurst_ordinary {s : State} {x : Xfer} (h : s.nextXferOf = some x) (hx : x.urgent = false) :
    exec .hdmaBurst s = .next ((s.turnOf x).burst x) := by
  change execHdmaBurst s = _
  unfold execHdmaBurst
  rw [h]
  exact if_neg (by simp [hx])

theorem exec_hdmaBurst_urgent {s : State} {x : Xfer} (h : s.nextXferOf = some x) (hx : x.urgent = true) :
    exec .hdmaBurst s = .next (s.preempted.burst x) := by
  change execHdmaBurst s = _
  unfold execHdmaBurst
  rw [h]
  exact if_pos hx

/-! ## Walks (R479, R480) -/

/-- The second read of a walk is a message to the host, and nothing else changes. -/
theorem walkLeaf_host (s : State) (dom : Nat) (w : Walk) (a : Nat) :
    ∃ out, s.walkLeaf dom w a = { s with host := { s.host with out := out } } := by
  unfold State.walkLeaf
  extract_lets index leaf
  have hleaf : ∀ l1, ∃ out, leaf l1 = { s with host := { s.host with out := out } } := fun l1 => by
    simp only [leaf]
    split <;> exact ⟨_, rfl⟩
  cases w with
  | l1Error => exact ⟨_, rfl⟩
  | l2Error l1 => exact hleaf l1
  | entries l1 l2 => exact hleaf l1

/-- An event record that faults is lost, and no domain stops (R481). -/
theorem xlateFault_event {s : State} {x : Xfer} {fn : Nat} (h : x.use = .event fn) (reason iova : Nat) :
    ((s.xlateFault x reason iova).fn fn).ringLost = true ∧ (s.xlateFault x reason iova).host.xlate = s.host.xlate := by
  unfold State.xlateFault
  rw [h]
  exact ⟨congrArg Fn.ringLost (fn_setFn_same ..), rfl⟩

section
variable {s : State} {dom : BitVec 7} {w : Walk} {x : Xfer}

theorem exec_translationWalkDone_none
    (h : s.host.xfers.find? (fun x => decide (x.dom = dom.toNat) && x.walking) = none) :
    exec (.translationWalkDone dom w) s = .next s := by
  change execTranslationWalkDone dom w s = _
  unfold execTranslationWalkDone
  rw [h]

theorem exec_translationWalkDone_fault {r : Nat}
    (h : s.host.xfers.find? (fun x => decide (x.dom = dom.toNat) && x.walking) = some x) (hw : walkOf w (s.burstAddr x) = .inr r) :
    exec (.translationWalkDone dom w) s =
      .next ((s.walkLeaf x.dom w (s.burstAddr x)).xlateFault { x with walking := false } r (s.burstAddr x)) := by
  change execTranslationWalkDone dom w s = _
  unfold execTranslationWalkDone
  rw [h]
  dsimp only
  rw [hw]

/-- The state in which the leaf of a walk is cached and its transfer walks no more. -/
def State.walked (s : State) (x : Xfer) (w : Walk) (p : Nat × Bool × Bool) : State :=
  let t := s.walkLeaf x.dom w (s.burstAddr x)
  let u : State := { t with host := { t.host with tlb := ((x.dom, s.burstAddr x / 4096, p.1, p.2.1, p.2.2) :: t.host.tlb).take 2048 } }
  u.setXfer { x with walking := false }

theorem walked_host (s : State) (x : Xfer) (w : Walk) (p : Nat × Bool × Bool) :
    (s.walked x w p).host.tlb = ((x.dom, s.burstAddr x / 4096, p.1, p.2.1, p.2.2) :: s.host.tlb).take 2048 ∧
      (s.walked x w p).host.xlate = s.host.xlate := by
  unfold State.walked
  obtain ⟨out, hout⟩ := walkLeaf_host s x.dom w (s.burstAddr x)
  rw [hout]
  exact ⟨rfl, rfl⟩

theorem exec_translationWalkDone_cached {p : Nat × Bool × Bool}
    (h : s.host.xfers.find? (fun x => decide (x.dom = dom.toNat) && x.walking) = some x) (hw : walkOf w (s.burstAddr x) = .inl p) :
    exec (.translationWalkDone dom w) s = .next (if (s.walked x w p).canIssue { x with walking := false } then
      (s.walked x w p).burst { x with walking := false } else s.walked x w p) := by
  change execTranslationWalkDone dom w s = _
  unfold execTranslationWalkDone
  rw [h]
  dsimp only
  rw [hw]
  rfl

end

/-! ## Read data and plate copies (R497, R505) -/

section
variable {s : State} {ok : Bool} {data : List Byte} {x : Xfer}

theorem isEvent_of_client {x : Xfer} (h : x.client = 3) : x.isEvent = false := by
  unfold Xfer.client at h
  unfold Xfer.isEvent
  cases hx : x.use <;> simp_all

theorem exec_commandBufferReadDone_none (h : s.host.xfers.find? (fun x => decide (x.client = 3) && decide (0 < x.inFlight)) = none) :
    exec (.commandBufferReadDone ok data) s = .next s := by
  change execCommandBufferReadDone ok data s = _
  unfold execCommandBufferReadDone
  rw [h]

/-- The transfer of a burst that failed: its bytes are still to be read. -/
def Xfer.unread (x : Xfer) : Xfer := { x with issued := x.issued - x.inFlight, inFlight := 0 }

theorem exec_commandBufferReadDone_failed (h : s.host.xfers.find? (fun x => decide (x.client = 3) && decide (0 < x.inFlight)) = some x)
    (hbad : ok = false ∨ data.length ≠ x.inFlight) :
    exec (.commandBufferReadDone ok data) s = .next ((s.setXfer x.unread).xlateFault x.unread 8 (s.burstAddr x.unread)) := by
  change execCommandBufferReadDone ok data s = _
  unfold execCommandBufferReadDone
  rw [h]
  exact if_pos (by simpa using hbad)

theorem exec_commandBufferReadDone_read (h : s.host.xfers.find? (fun x => decide (x.client = 3) && decide (0 < x.inFlight)) = some x)
    (hok : ok = true) (hlen : data.length = x.inFlight) (y : Xfer) (hy : y = { x with inFlight := 0, data := x.data ++ data }) :
    exec (.commandBufferReadDone ok data) s = .next
      (if x.len ≤ x.issued then ((s.setXfer y).plateBurst x data).readDone y else (s.setXfer y).plateBurst x data) := by
  subst hy
  change execCommandBufferReadDone ok data s = _
  unfold execCommandBufferReadDone
  rw [h]
  exact if_neg (by simp [hok, hlen])

end

theorem exec_plateReadCopyEnd_none {s : State} (h : s.host.copies = []) : exec .plateReadCopyEnd s = .next s := by
  change execPlateReadCopyEnd s = _
  unfold execPlateReadCopyEnd
  rw [h]

/-- Settles O52: bursts by `burst_off` and `burst_dom`, faults by `xlateFault_stopped` and `xlateFault_event`, walks by `walked_host`. -/
theorem transfersComplete : Obligations.TransfersComplete := by
  intro s
  refine ⟨exec_hdmaBurst_none, fun x h hx => ⟨fun hmode hev => ?off, fun hmode hread => ?bypass, exec_hdmaBurst_ordinary h hx⟩,
    fun x h hx => ⟨s.preempted, exec_hdmaBurst_urgent h hx, rfl, rfl⟩,
    fun dom w => ⟨exec_translationWalkDone_none, fun x h => ⟨fun r hw hev => ?fault, fun r fn hw huse => ?lost,
      fun p hw => ⟨s.walked x w p, exec_translationWalkDone_cached h hw, walked_host s x w p⟩⟩⟩,
    fun ok data => ⟨exec_commandBufferReadDone_none, fun x h =>
      ⟨fun hbad => ?failed, fun hok hlen => exec_commandBufferReadDone_read h hok hlen _ rfl⟩⟩,
    exec_plateReadCopyEnd_none, fun c rest h => ?copy⟩
  case off =>
    refine ⟨_, exec_hdmaBurst_ordinary h hx, ?_⟩
    rw [burst_off (s := s.turnOf x) hmode]
    exact xlateFault_stopped _ x _ _ hev
  case bypass =>
    refine ⟨_, exec_hdmaBurst_ordinary h hx, ?_⟩
    rw [burst_dom (s.turnOf x) x hmode]
    exact issue_read_host hread _ _
  case fault => exact ⟨_, exec_translationWalkDone_fault h hw, xlateFault_stopped _ { x with walking := false } _ _ hev⟩
  case lost =>
    obtain ⟨hlost, hxlate⟩ := xlateFault_event (x := { x with walking := false }) (s := s.walkLeaf x.dom w (s.burstAddr x)) huse r (s.burstAddr x)
    obtain ⟨out, hout⟩ := walkLeaf_host s x.dom w (s.burstAddr x)
    exact ⟨_, exec_translationWalkDone_fault h hw, hlost, hxlate.trans (by rw [hout])⟩
  case failed =>
    have hclient : x.client = 3 := by
      have hfound := List.find?_some h
      simp only [Bool.and_eq_true, decide_eq_true_eq] at hfound
      exact hfound.1
    exact ⟨_, exec_commandBufferReadDone_failed h hbad, xlateFault_stopped _ x.unread _ _ (isEvent_of_client hclient)⟩
  case copy =>
    intro u v
    change execPlateReadCopyEnd s = _
    unfold execPlateReadCopyEnd
    rw [h]

end Sys2Proof.Machine
end
